-- ==== Sys2Proof/Word.lean ====
section
/-! DEFINITION. The word types of the machine, and the data that an event carries from outside the package. -/

namespace Sys2Proof

/-- One byte. -/
abbrev Byte := BitVec 8
/-- A scalar register, an address or a device register (R90, R152). -/
abbrev Word := BitVec 64
/-- A vector register (R112): byte j occupies bits [8j+7:8j]. -/
abbrev VWord := BitVec 4096
/-- A predicate register (R114): one bit for each vector byte. -/
abbrev PWord := BitVec 512
/-- A fault code (R336). -/
abbrev Code := BitVec 6

/-- What the scrubber met in a granule (R18). -/
inductive ScrubFinding where
  | clean
  | corrected
  | uncorrectable
deriving DecidableEq, Repr

/-- What bring-up found (R363): the cores and stacks that failed. -/
structure BootResult where
  absentCores : List Nat
  failedStacks : List Nat
deriving DecidableEq, Repr

/-- A firmware image in flash (R361): its public key, its body and its signature. -/
structure FlashImage where
  key       : List Byte
  body      : List Byte
  signature : List Byte
deriving DecidableEq, Repr

def FlashImage.empty : FlashImage := { key := [], body := [], signature := [] }

/-- A reply of Hendeotte in the device-to-host mailbox (R360, R361). -/
inductive MailReply where
  /-- Bytes whose meaning is Hendeotte's own. -/
  | bytes (data : List Byte)
  /-- An attestation report over a 48-byte nonce from the host (R361). -/
  | attestation (nonce : List Byte)
  /-- The only answer after a failed boot verification (R361). -/
  | failure (code : Byte)
deriving DecidableEq, Repr

/-- What a Ranvik flit carries (R353). The manual names what each kind carries and not how the 240 payload
bytes lay it out, so the packet stands beside the flit's header fields. -/
inductive RanvikPacket where
  /-- Kind 1: data of a put, cpy or halo, with its counter increment if one is named; the addresses are those of
  the paired context of `tag` (R356). -/
  | write (tag : BitVec 32) (va : Word) (data : List Byte) (ctr : Option Word) (poison : Bool)
  /-- Kind 2: an active message (R264); `job` names the launch that sent it, as the sender numbers its launches. -/
  | message (tag : BitVec 32) (lcore : BitVec 16) (mtag : Byte) (sender : BitVec 18) (slc : BitVec 16)
      (ticket : BitVec 32) (data : List Byte) (job : Nat)
  /-- Kind 2: the outcome of a message of this device (R264), of the launch `job`. -/
  | outcome (tag : BitVec 32) (slc : BitVec 16) (ticket : BitVec 32) (code : Nat) (job : Nat)
  /-- Kind 3: a combine packet (R271). -/
  | combine (tag : BitVec 32) (root : BitVec 16) (x : BitVec 9) (isMax : Bool) (group : BitVec 16)
      (n : BitVec 32) (value : Word) (count : Nat)
  /-- Kind 3: arrivals at a span-1 barrier (R310): the devices, or the groups by their roots, whose arrivals merged into it (R355). -/
  | barrierArrival (tag : BitVec 32) (team : Nat) (sources : List (BitVec 18))
  /-- Kind 3: the release of a span-1 barrier generation (R310). -/
  | barrierRelease (tag : BitVec 32) (team : Nat)
  /-- Kind 4: a deadlock probe (R273) with its key and the number of its owner's wait, along the edges of a span-1 team whose sender has
  seen `rounds` releases. -/
  | probe (tag : BitVec 32) (team : Nat) (rounds : BitVec 32) (kdev : BitVec 18) (klc : BitVec 16) (kctx : BitVec 1) (waitNo : Nat)
  /-- Kinds 0 and 5 to 15. -/
  | unknown
deriving DecidableEq, Repr

/-- A 256-byte flit as its port receives it (R353). -/
structure Flit where
  kind    : BitVec 4
  vc      : BitVec 2
  credit  : BitVec 10
  src     : BitVec 18
  dst     : BitVec 18
  number  : BitVec 32
  packet  : RanvikPacket
  /-- Bytes 252 to 255. -/
  crc     : BitVec 32
deriving DecidableEq, Repr

/-- The flit of zeros. -/
def Flit.zero : Flit :=
  { kind := 0, vc := 0, credit := 0, src := 0, dst := 0, number := 0, packet := .unknown, crc := 0 }

end Sys2Proof
end

