-- ==== Sys2Proof/Machine/Bits.lean ====
section
/-! DEFINITION. Bit fields, sign extension, byte order and integer helpers (R1, R2, R88). -/

namespace Sys2Proof.Machine

open Sys2Proof

/-- Bits [hi:lo] of a number. -/
def bits (x hi lo : Nat) : Nat := (x / 2 ^ lo) % 2 ^ (hi + 1 - lo)

/-- Bits [hi:lo] of a 64-bit word, as a number. -/
def fld (x : Word) (hi lo : Nat) : Nat := bits x.toNat hi lo

/-- Bit `n` of a number. -/
def bit (x n : Nat) : Bool := (x / 2 ^ n) % 2 == 1

/-- A `w`-bit pattern read as two's complement. -/
def toInt (w x : Nat) : Int := if x < 2 ^ (w - 1) then (x : Int) else (x : Int) - (2 ^ w : Nat)

/-- The `w`-bit pattern of an integer. -/
def ofInt (w : Nat) (x : Int) : Nat := (x % (2 ^ w : Nat)).toNat

/-- The little-endian value of bytes (R2). -/
def leNat : List Byte → Nat
  | [] => 0
  | b :: r => b.toNat + 256 * leNat r

/-- The `n` little-endian bytes of a value (R2). -/
def leBytes : Nat → Nat → List Byte
  | 0, _ => []
  | n + 1, x => BitVec.ofNat 8 x :: leBytes n (x / 256)

/-- The word of eight or fewer bytes. -/
def leWord (b : List Byte) : Word := BitVec.ofNat 64 (leNat b)

/-- Bytes `[off, off + n)` of a list; bytes beyond its end read zero. -/
def sliceBytes (b : List Byte) (off n : Nat) : List Byte :=
  let t := (b.drop off).take n
  t ++ List.replicate (n - t.length) 0

/-- The value of `n` bytes at an offset of a record. -/
def recNat (b : List Byte) (off n : Nat) : Nat := leNat ((b.drop off).take n)

/-- The 64-bit word at an offset of a record. -/
def recWord (b : List Byte) (off : Nat) : Word := BitVec.ofNat 64 (recNat b off 8)

/-- One bits of the low `n` bits. -/
def popCount : Nat → Nat → Nat
  | 0, _ => 0
  | n + 1, x => x % 2 + popCount n (x / 2)

/-- Trailing zero bits of an `n`-bit pattern. -/
def trailingZeros : Nat → Nat → Nat
  | 0, _ => 0
  | n + 1, x => if x % 2 = 1 then 0 else 1 + trailingZeros n (x / 2)

/-- The low `n` bits in reverse order. -/
def reverseBits : Nat → Nat → Nat
  | 0, _ => 0
  | n + 1, x => (x % 2) * 2 ^ n + reverseBits n (x / 2)

/-- The carry-less product: the XOR over the set bits j < n of `b` of a · 2^j (R105, R124). -/
def carryless : Nat → Nat → Nat → Nat
  | 0, _, _ => 0
  | n + 1, a, b => (if b % 2 = 1 then a else 0) ^^^ carryless n (2 * a) (b / 2)

/-- The integer square root, from its `n` bits. -/
def isqrt : Nat → Nat → Nat
  | 0, _ => 0
  | n + 1, x =>
    let r := 2 * isqrt n (x / 4)
    if (r + 1) * (r + 1) ≤ x then r + 1 else r

/-- Is the number a multiple? -/
def aligned (x n : Nat) : Bool := x % n == 0

/-- The least multiple of `n` that is not below `x`. -/
def ceilDiv (x n : Nat) : Nat := (x + n - 1) / n

end Sys2Proof.Machine
end

