-- ==== Sys2Proof/Machine/Float.lean ====
section
/-! DEFINITION. Floating-point, fixed-point, tapered and block-scaled arithmetic (R48 to R70): values are exact rationals, and
each rounding is one comparison of a remainder. -/

namespace Sys2Proof.Machine

open Sys2Proof

/-- An IEEE binary format (R52): widths of the exponent and of the fraction. -/
structure Fmt where
  ew : Nat
  mw : Nat
deriving DecidableEq, Repr

def Fmt.f32 : Fmt := { ew := 8, mw := 23 }
def Fmt.bf16 : Fmt := { ew := 8, mw := 7 }
def Fmt.f16 : Fmt := { ew := 5, mw := 10 }

def Fmt.width (f : Fmt) : Nat := f.ew + f.mw + 1
/-- The largest exponent, which is the bias. -/
def Fmt.emax (f : Fmt) : Int := (2 ^ (f.ew - 1) : Nat) - 1
def Fmt.emin (f : Fmt) : Int := 1 - f.emax
def Fmt.infPat (f : Fmt) : Nat := (2 ^ f.ew - 1) * 2 ^ f.mw
def Fmt.maxPat (f : Fmt) : Nat := f.infPat - 1
def Fmt.signPat (f : Fmt) (neg : Bool) : Nat := if neg then 2 ^ (f.ew + f.mw) else 0
/-- The default NaN (R52). -/
def Fmt.nanPat (f : Fmt) : Nat := f.infPat + 2 ^ (f.mw - 1)

/-- Rounding modes (R55). -/
inductive Mode where
  | rne
  | rtz
  | rup
  | rdn
  | rna
  | sto
deriving DecidableEq, Repr

/-- The mode of a code of ROUND, which holds 0 to 5. -/
def Mode.ofCode (c : Nat) : Mode :=
  if c = 0 then .rne else if c = 1 then .rtz else if c = 2 then .rup else if c = 3 then .rdn else if c = 4 then .rna else .sto

/-- A value: a NaN with its signalling mark, an infinity, a zero with its sign, or an exact nonzero rational. -/
inductive FVal where
  | nan (sig : Bool)
  | inf (neg : Bool)
  | zero (neg : Bool)
  | fin (num : Int) (den : Nat)
deriving DecidableEq, Repr

/-- Bits of FLAGS (R54). -/
def flInvalid : BitVec 5 := 16
def flDivide : BitVec 5 := 8
def flOverflow : BitVec 5 := 4
def flUnderflow : BitVec 5 := 2
def flInexact : BitVec 5 := 1

/-- A pattern with the flags its operation raises. -/
structure Res where
  pat   : Nat
  flags : BitVec 5
deriving DecidableEq, Repr

/-- num · 2^k over den, as a fraction. -/
def scale2 (num den : Nat) (k : Int) : Nat × Nat :=
  if 0 ≤ k then (num * 2 ^ k.toNat, den) else (num, den * 2 ^ (-k).toNat)

/-- An integer over a denominator as a value. -/
def FVal.ofRat (num : Int) (den : Nat) : FVal := if num = 0 then .zero false else .fin num den

/-- v · 2^k. -/
def FVal.scale (v : FVal) (k : Int) : FVal :=
  match v with
  | .fin n d => if 0 ≤ k then .fin (n * (2 ^ k.toNat : Nat)) d else .fin n (d * 2 ^ (-k).toNat)
  | v => v

def FVal.neg (v : FVal) : FVal :=
  match v with
  | .nan s => .nan s
  | .inf s => .inf (!s)
  | .zero s => .zero (!s)
  | .fin n d => .fin (-n) d

/-- |v|. -/
def FVal.abs (v : FVal) : FVal :=
  match v with
  | .nan s => .nan s
  | .inf _ => .inf false
  | .zero _ => .zero false
  | .fin n d => .fin n.natAbs d

def FVal.isNan (v : FVal) : Bool := match v with | .nan _ => true | _ => false
def FVal.isSig (v : FVal) : Bool := match v with | .nan s => s | _ => false
def FVal.isFinite (v : FVal) : Bool := match v with | .nan _ => false | .inf _ => false | _ => true
def FVal.isZero (v : FVal) : Bool := match v with | .zero _ => true | _ => false
def FVal.isInf (v : FVal) : Bool := match v with | .inf _ => true | _ => false
def FVal.isNeg (v : FVal) : Bool :=
  match v with | .nan _ => false | .inf s => s | .zero s => s | .fin n _ => decide (n < 0)

/-- The value of a pattern (R52, R53). -/
def Fmt.value (f : Fmt) (p : Nat) : FVal :=
  let m := p % 2 ^ f.mw
  let e := (p / 2 ^ f.mw) % 2 ^ f.ew
  let neg := bit p (f.ew + f.mw)
  let sgn : Int := if neg then -1 else 1
  if e = 2 ^ f.ew - 1 then (if m = 0 then .inf neg else .nan (m < 2 ^ (f.mw - 1)))
  else if e = 0 then
    if m = 0 then .zero neg
    else
      let (n, d) := scale2 m 1 (f.emin - f.mw)
      .fin (sgn * n) d
  else
    let (n, d) := scale2 (m + 2 ^ f.mw) 1 ((e : Int) - f.emax - f.mw)
    .fin (sgn * n) d

/-! ## Rounding -/

/-- A nonnegative fraction rounded to an integer in a mode, the sign of its value given and `k` the draw (R55, R57). -/
def roundNat (md : Mode) (k : Nat) (neg : Bool) (num den : Nat) : Nat :=
  let t := num / den
  let r := num % den
  let up : Bool :=
    match md with
    | .rne => decide (den < 2 * r) || (decide (2 * r = den) && decide (t % 2 = 1))
    | .rtz => false
    | .rup => !neg && decide (0 < r)
    | .rdn => neg && decide (0 < r)
    | .rna => decide (den ≤ 2 * r)
    | .sto =>
      if neg then decide (0 < r) && !decide (k * den < (den - r) * 2 ^ 32)
      else decide (k * den < r * 2 ^ 32)
  if up then t + 1 else t

/-- The floor of the binary logarithm of a positive fraction. -/
def ilog2 (num den : Nat) : Int :=
  let e : Int := (Nat.log2 num : Int) - (Nat.log2 den : Int)
  let (n, d) := scale2 num den (-e)
  if d ≤ n then e else e - 1

/-- The overflowing result of a mode (R56). -/
def Fmt.overflowPat (f : Fmt) (md : Mode) (neg : Bool) : Nat :=
  f.signPat neg +
    (match md with
     | .rtz => f.maxPat
     | .rup => if neg then f.maxPat else f.infPat
     | .rdn => if neg then f.infPat else f.maxPat
     | _ => f.infPat)

/-- A positive fraction with a sign rounded to a format (R54 to R57). -/
def Fmt.roundMag (f : Fmt) (md : Mode) (k : Nat) (neg : Bool) (num den : Nat) : Res :=
  let e := ilog2 num den
  let (un, ud) := scale2 num den (f.mw - e)
  let e' : Int := if 2 ^ (f.mw + 1) ≤ roundNat md k neg un ud then e + 1 else e
  if f.emax < e' then { pat := f.overflowPat md neg, flags := flOverflow ||| flInexact }
  else
    let eb := if e < f.emin then f.emin else e
    let (bn, bd) := scale2 num den (f.mw - eb)
    let n := roundNat md k neg bn bd
    let pat := f.signPat neg + n + (eb - f.emin).toNat * 2 ^ f.mw
    if bn % bd = 0 then { pat := pat, flags := 0 }
    else { pat := pat, flags := if e' < f.emin then flUnderflow ||| flInexact else flInexact }

/-- round_fmt (R53 to R57): an exact value in a format, with the flags of the rounding. -/
def Fmt.round (f : Fmt) (md : Mode) (k : Nat) (v : FVal) : Res :=
  match v with
  | .nan s => { pat := f.nanPat, flags := if s then flInvalid else 0 }
  | .inf s => { pat := f.signPat s + f.infPat, flags := 0 }
  | .zero s => { pat := f.signPat s, flags := 0 }
  | .fin n d => f.roundMag md k (decide (n < 0)) n.natAbs d

/-! ## Exact operations -/

/-- A NaN result with the flag of its signalling operands. -/
def nanOf (sig : Bool) : FVal × BitVec 5 := (.nan false, if sig then flInvalid else 0)

/-- x + y with the flags of the operation before rounding (R53). -/
def addVal (md : Mode) (x y : FVal) : FVal × BitVec 5 :=
  match x, y with
  | .nan s, y => nanOf (s || y.isSig)
  | _, .nan s => nanOf s
  | .inf s, .inf t => if s = t then (.inf s, 0) else (.nan false, flInvalid)
  | .inf s, _ => (.inf s, 0)
  | _, .inf s => (.inf s, 0)
  | .zero s, .zero t => (.zero (if s = t then s else decide (md = .rdn)), 0)
  | .zero _, y => (y, 0)
  | x, .zero _ => (x, 0)
  | .fin a b, .fin c d =>
    let n := a * d + c * b
    (if n = 0 then .zero (decide (md = .rdn)) else .fin n (b * d), 0)

/-- x · y (R53). A zero of a format without a signed zero counts as +0, so that its product with a negative value is −0 (log 22, DESIGN CHOICE). -/
def mulVal (x y : FVal) : FVal × BitVec 5 :=
  match x, y with
  | .nan s, y => nanOf (s || y.isSig)
  | _, .nan s => nanOf s
  | .inf _, .zero _ => (.nan false, flInvalid)
  | .zero _, .inf _ => (.nan false, flInvalid)
  | .inf s, y => (.inf (s != y.isNeg), 0)
  | x, .inf s => (.inf (x.isNeg != s), 0)
  | .zero s, y => (.zero (s != y.isNeg), 0)
  | x, .zero s => (.zero (x.isNeg != s), 0)
  | .fin a b, .fin c d => (.fin (a * c) (b * d), 0)

/-- x · y + z (R53). -/
def fmaVal (md : Mode) (x y z : FVal) : FVal × BitVec 5 :=
  let p := mulVal x y
  let q := addVal md p.1 z
  (q.1, p.2 ||| q.2)

/-- x / y (R109). -/
def divVal (x y : FVal) : FVal × BitVec 5 :=
  match x, y with
  | .nan s, y => nanOf (s || y.isSig)
  | _, .nan s => nanOf s
  | .inf _, .inf _ => (.nan false, flInvalid)
  | .zero _, .zero _ => (.nan false, flInvalid)
  | .inf s, y => (.inf (s != y.isNeg), 0)
  | x, .inf s => (.zero (x.isNeg != s), 0)
  | .zero s, y => (.zero (s != y.isNeg), 0)
  | x, .zero s => (.inf (x.isNeg != s), flDivide)
  | .fin a b, .fin c d => (.fin (if c < 0 then -(a * d) else a * d) (b * c.natAbs), 0)

/-- √x (R109): a root that is not exact stands as a value between the same two fractions of 200 binary places, with a last
bit that marks it. -/
def sqrtVal (x : FVal) : FVal × BitVec 5 :=
  match x with
  | .nan s => nanOf s
  | .zero s => (.zero s, 0)
  | .inf s => if s then (.nan false, flInvalid) else (.inf false, 0)
  | .fin a b =>
    if a < 0 then (.nan false, flInvalid)
    else
      let n := a.natAbs * 2 ^ 400
      let r := isqrt 300 (n / b)
      (.fin ((2 * r + (if r * r * b = n then 0 else 1) : Nat) : Int) (2 ^ 201), 0)

/-- x ≤ y for values that are no NaN; −0 below +0 when `z` says that zeros are ordered. -/
def FVal.le (z : Bool) (x y : FVal) : Bool :=
  match x, y with
  | .nan _, _ => false
  | _, .nan _ => false
  | .inf true, _ => true
  | _, .inf false => true
  | .inf false, _ => false
  | _, .inf true => false
  | .zero s, .zero t => !z || s || !t
  | .zero _, .fin c _ => decide (0 < c)
  | .fin a _, .zero _ => decide (a < 0)
  | .fin a b, .fin c d => decide (a * d ≤ c * b)

/-- Are the values equal (−0 = +0, a NaN equals nothing)? -/
def FVal.same (x y : FVal) : Bool := x.le false y && y.le false x

/-- x < y by value. -/
def FVal.lt (x y : FVal) : Bool := x.le false y && !y.le false x

/-- fmin and fmax (R109) on patterns of a format. -/
def Fmt.minMax (f : Fmt) (isMax : Bool) (p q : Nat) : Res :=
  let x := f.value p
  let y := f.value q
  if x.isNan || y.isNan then { pat := f.nanPat, flags := if x.isSig || y.isSig then flInvalid else 0 }
  else { pat := if x.le true y != isMax then p else q, flags := 0 }

/-- The four compares (R109, R135): 0 eq, 1 ne, 2 lt, 3 le. -/
def compareVal (op : Nat) (x y : FVal) : Bool × BitVec 5 :=
  let bad := if op < 2 then x.isSig || y.isSig else x.isNan || y.isNan
  let r :=
    if op = 0 then x.same y
    else if op = 1 then !x.same y
    else if op = 2 then x.lt y
    else x.le false y
  (r, if bad then flInvalid else 0)

/-- fclass (R110). -/
def Fmt.classMask (f : Fmt) (p : Nat) : Nat :=
  let sub := (p / 2 ^ f.mw) % 2 ^ f.ew == 0
  match f.value p with
  | .inf true => 1
  | .inf false => 128
  | .zero true => 8
  | .zero false => 16
  | .nan true => 256
  | .nan false => 512
  | .fin n _ => if n < 0 then (if sub then 4 else 2) else (if sub then 32 else 64)

/-! ## Conversions to and from integers (R50, R51, R58) -/

/-- A value rounded to an integer of `w` bits, saturating; a NaN gives 0. One that saturates raises invalid and not inexact too (log 22, DESIGN
CHOICE: R51 and R58 name invalid, and R54 does not say whether its row for inexact applies). -/
def toIntVal (md : Mode) (k : Nat) (w : Nat) (signed : Bool) (v : FVal) : Res :=
  let hi : Int := if signed then (2 ^ (w - 1) : Nat) - 1 else (2 ^ w : Nat) - 1
  let lo : Int := if signed then -(2 ^ (w - 1) : Nat) else 0
  match v with
  | .nan _ => { pat := 0, flags := flInvalid }
  | .inf s => { pat := ofInt w (if s then lo else hi), flags := flInvalid }
  | .zero _ => { pat := 0, flags := 0 }
  | .fin n d =>
    let m := roundNat md k (decide (n < 0)) n.natAbs d
    let r : Int := if n < 0 then -(m : Int) else m
    if hi < r then { pat := ofInt w hi, flags := flInvalid }
    else if r < lo then { pat := ofInt w lo, flags := flInvalid }
    else { pat := ofInt w r, flags := if n.natAbs % d = 0 then 0 else flInexact }

/-- The value of an integer. -/
def ofIntVal (i : Int) : FVal := FVal.ofRat i 1

/-- The value of an fx64 pattern (R51). -/
def ofFx64 (p : Nat) : FVal := FVal.ofRat (toInt 64 p) (2 ^ 32)

/-! ## The tapered formats (R59, R60) -/

/-- Length of the run of bits equal to `b` at the top of the low `n` bits. -/
def runLength (b : Bool) : Nat → Nat → Nat
  | 0, _ => 0
  | n + 1, v => if bit v n == b then 1 + runLength b n v else 0

/-- The value of a positive pattern of `n` bits, as a fraction. -/
def taperedPos (n p : Nat) : Nat × Nat :=
  let first := bit p (n - 2)
  let m := runLength first (n - 1) p
  let k : Int := if first then (m : Int) - 1 else -(m : Int)
  let left := n - 1 - (if m < n - 1 then m + 1 else m)
  let e := if 0 < left then (p / 2 ^ (left - 1)) % 2 else 0
  let fb := left - 1
  scale2 (2 ^ fb + p % 2 ^ fb) (2 ^ fb) (2 * k + e)

/-- The value of a tapered pattern of `n` bits (R59). -/
def taperedValue (n p : Nat) : FVal :=
  let p := p % 2 ^ n
  if p = 0 then .zero false
  else if p = 2 ^ (n - 1) then .nan false
  else if bit p (n - 1) then
    let v := taperedPos n (2 ^ n - p)
    .fin (-(v.1 : Int)) v.2
  else
    let v := taperedPos n p
    .fin v.1 v.2

/-- The largest positive pattern whose value is not above a fraction, found bit by bit; `acc` is found already. -/
def taperedFloor (n num den : Nat) : Nat → Nat → Nat
  | 0, acc => acc
  | j + 1, acc =>
    let v := taperedPos n (acc + 2 ^ j)
    if v.1 * den ≤ num * v.2 then taperedFloor n num den j (acc + 2 ^ j) else taperedFloor n num den j acc

/-- The exponent of maxpos (R59). -/
def taperedMax (n : Nat) : Nat := 2 * (n - 2)

/-- The magnitude pattern of a positive fraction, with the flags (R60). -/
def toTaperedMag (n num den : Nat) : Res :=
  let mx := 2 ^ taperedMax n
  if den * mx < num then { pat := 2 ^ (n - 1) - 1, flags := flOverflow ||| flInexact }
  else if num * mx < den then { pat := 1, flags := flUnderflow ||| flInexact }
  else
    let p := taperedFloor n num den (n - 1) 0
    let v := taperedPos n p
    if v.1 * den = num * v.2 then { pat := p, flags := 0 }
    else
      let w := taperedPos n (p + 1)
      -- twice the midpoint is v + w
      let mid := v.1 * w.2 + w.1 * v.2
      let dbl := 2 * num * (v.2 * w.2)
      let up := decide (mid * den < dbl) || (decide (mid * den = dbl) && decide (p % 2 = 1))
      { pat := if up then p + 1 else p, flags := flInexact }

/-- Conversion into a tapered format of `n` bits (R60). -/
def toTapered (n : Nat) (v : FVal) : Res :=
  let signed (neg : Bool) (r : Res) : Res := if neg then { r with pat := 2 ^ n - r.pat } else r
  match v with
  | .nan s => { pat := 2 ^ (n - 1), flags := if s then flInvalid else 0 }
  | .zero _ => { pat := 0, flags := 0 }
  | .inf s => signed s { pat := 2 ^ (n - 1) - 1, flags := flOverflow }
  | .fin a b => signed (decide (a < 0)) (toTaperedMag n a.natAbs b)

/-! ## Transcendental functions (R66 to R70), on patterns of f32 -/

/-- fma rounded to f32 with RNE. -/
def fmaRne (x y z : FVal) : FVal := Fmt.f32.value (Fmt.f32.round .rne 0 (fmaVal .rne x y z).1).pat

/-- A fraction rounded to f32 with RNE. -/
def rneRat (num : Int) (den : Nat) : FVal := Fmt.f32.value (Fmt.f32.round .rne 0 (FVal.ofRat num den)).pat

/-- T[j] (R66). -/
def exp2Table : List Nat := [
  0x3F800000, 0x3F85AAC3, 0x3F8B95C2, 0x3F91C3D3, 0x3F9837F0, 0x3F9EF532, 0x3FA5FED7, 0x3FAD583F, 0x3FB504F3,
  0x3FBD08A4, 0x3FC5672A, 0x3FCE248C, 0x3FD744FD, 0x3FE0CCDF, 0x3FEAC0C7, 0x3FF5257D]
/-- LG[j] (R67). -/
def log2Table : List Nat := [
  0xBED47FCC, 0xBEB6587B, 0xBE995FF7, 0xBE7AFEC5, 0xBE4544C0, 0xBE116D6E, 0xBDBEB025, 0xBD3B9CA6, 0x00000000,
  0x3D35D69C, 0x3DB31FB8, 0x3E0462C4, 0x3E2E00D2, 0x3E567AF1, 0x3E7DE0B6, 0x3E92203D, 0x3EA4D3C2, 0x3EB7110E,
  0x3EC8DDD4, 0x3EDA3F60, 0x3EEB3A9F, 0x3EFBD42B, 0x3F060828, 0x3F0DF989, 0x3F15C01A]
/-- D1 to D4 (R67). -/
def log2Coeff : List Nat := [
  0x3FB8AA3B, 0xBF38AA3B, 0x3EF6384F, 0xBEB8AA3B]

def f32At (l : List Nat) (i : Nat) : FVal := Fmt.f32.value (l.getD i 0)

/-- FEXP2 (R66). -/
def fexp2 (p : Nat) : Res :=
  match Fmt.f32.value p with
  | .nan s => { pat := Fmt.f32.nanPat, flags := if s then flInvalid else 0 }
  | .inf s => { pat := if s then 0 else Fmt.f32.infPat, flags := 0 }
  | .zero _ => { pat := 0x3F800000, flags := 0 }
  | .fin n d =>
    if (128 * d : Nat) ≤ n then { pat := Fmt.f32.infPat, flags := flOverflow ||| flInexact }
    else if n < -(151 * d : Nat) then { pat := 0, flags := flUnderflow ||| flInexact }
    else
      let mm := roundNat .rne 0 (decide (n < 0)) (16 * n.natAbs) d
      let m : Int := if n < 0 then -(mm : Int) else mm
      let j := (m % 16).toNat
      let e := (m - j) / 16
      let r := FVal.ofRat (16 * n - m * d) (16 * d)
      let c (x : Nat) := Fmt.f32.value x
      let a := fmaRne (c 0x3C1D955B) r (c 0x3D635847)
      let a := fmaRne a r (c 0x3E75FDF0)
      let a := fmaRne a r (c 0x3F317218)
      let a := fmaRne a r (.zero false)
      let t := f32At exp2Table j
      let y := fmaRne t a t
      let z := Fmt.f32.round .rne 0 (y.scale e)
      let exact := decide (n.natAbs % d = 0) && decide (-(149 * d : Nat) ≤ n)
      if exact then { pat := z.pat, flags := 0 }
      else
        { pat := z.pat,
          flags := flInexact ||| (if z.pat = Fmt.f32.infPat then flOverflow else 0) |||
            (if z.pat < 2 ^ 23 then flUnderflow else 0) }

/-- FLOG2 (R67). -/
def flog2 (p : Nat) : Res :=
  match Fmt.f32.value p with
  | .nan s => { pat := Fmt.f32.nanPat, flags := if s then flInvalid else 0 }
  | .inf s => if s then { pat := Fmt.f32.nanPat, flags := flInvalid } else { pat := Fmt.f32.infPat, flags := 0 }
  | .zero _ => { pat := 2 ^ 31 + Fmt.f32.infPat, flags := flDivide }
  | .fin n d =>
    if n < 0 then { pat := Fmt.f32.nanPat, flags := flInvalid }
    else
      let e0 := ilog2 n.natAbs d
      let f0 := scale2 n.natAbs d (-e0)
      let big := decide (3 * f0.2 ≤ 2 * f0.1)
      let e := if big then e0 + 1 else e0
      let f := if big then (f0.1, 2 * f0.2) else f0
      -- 32 · (f − 0.75) rounded with ties up is ⌊32 · f − 24 + 1/2⌋
      let j := (64 * f.1 + f.2) / (2 * f.2) - 24
      let t := fmaRne (.fin f.1 f.2) (rneRat 32 (24 + j)) (.fin (-1) 1)
      let c := f32At log2Coeff
      let a := fmaRne (c 3) t (c 2)
      let a := fmaRne a t (c 1)
      let a := fmaRne a t (c 0)
      let h := Fmt.f32.value (Fmt.f32.round .rne 0 (addVal .rne (ofIntVal e) (f32At log2Table j)).1).pat
      let z := Fmt.f32.round .rne 0 (fmaVal .rne a t h).1
      { pat := z.pat, flags := if f.1 = f.2 then 0 else flInexact }

/-- Is the f32 pattern a zero or a subnormal? -/
def smallF32 (p : Nat) : Bool := (p / 2 ^ 23) % 256 == 0

/-- FRCP (R68). -/
def frcp (p : Nat) : Res :=
  let neg := bit p 31
  match Fmt.f32.value p with
  | .nan s => { pat := Fmt.f32.nanPat, flags := if s then flInvalid else 0 }
  | .inf s => { pat := Fmt.f32.signPat s, flags := 0 }
  | _ =>
    if smallF32 p then { pat := Fmt.f32.signPat neg + Fmt.f32.infPat, flags := flDivide }
    else
      let i := (p / 2 ^ 15) % 256
      let e : Int := ((p / 2 ^ 23) % 256 : Nat) - 127
      let m := roundNat .rne 0 false (512 * 512) (513 + 2 * i)
      let v := scale2 m 256 (-e - 1)
      { pat := (Fmt.f32.roundMag .rne 0 neg v.1 v.2).pat, flags := 0 }

/-- Q[i] · 2^8 of R69: ⌊2Q⌋ is the root of a floor, and no Q is a tie. -/
def rsqrtTable (i : Nat) : Nat :=
  (isqrt 12 (if i < 128 then 2 ^ 28 / (257 + 2 * i) else 2 ^ 27 / (2 * i + 1)) + 1) / 2

/-- FRSQRT (R69). -/
def frsqrt (p : Nat) : Res :=
  let neg := bit p 31
  match Fmt.f32.value p with
  | .nan s => { pat := Fmt.f32.nanPat, flags := if s then flInvalid else 0 }
  | .inf s => if s then { pat := Fmt.f32.nanPat, flags := flInvalid } else { pat := 0, flags := 0 }
  | _ =>
    if smallF32 p then { pat := Fmt.f32.signPat neg + Fmt.f32.infPat, flags := flDivide }
    else if neg then { pat := Fmt.f32.nanPat, flags := flInvalid }
    else
      let e : Int := ((p / 2 ^ 23) % 256 : Nat) - 127
      let top := (p / 2 ^ 16) % 128
      let odd := decide (e % 2 = 1)
      let q := rsqrtTable (if odd then 128 + top else top)
      let e' := if odd then e - 1 else e
      let v := scale2 q 256 (-(e' / 2) - 1)
      { pat := (Fmt.f32.roundMag .rne 0 false v.1 v.2).pat, flags := 0 }

/-- The shape of FRCPS and FRSQRTS (R70): (c − a · b) / h rounded once. -/
def refine (c : Int) (h : Nat) (fixed : Nat) (md : Mode) (k : Nat) (p q : Nat) : Res :=
  let x := Fmt.f32.value p
  let y := Fmt.f32.value q
  if x.isNan || y.isNan then { pat := Fmt.f32.nanPat, flags := if x.isSig || y.isSig then flInvalid else 0 }
  else
    match x, y with
    | .fin a b, .fin e d =>
      let n := c * (b * d : Nat) - a * e
      Fmt.f32.round md k (if n = 0 then .zero (decide (md = .rdn)) else .fin n (b * d * h))
    | _, _ => { pat := fixed, flags := 0 }

def frcps (md : Mode) (k p q : Nat) : Res := refine 2 1 0x40000000 md k p q
def frsqrts (md : Mode) (k p q : Nat) : Res := refine 3 2 0x3FC00000 md k p q

/-! ## Block scales (R61, R62) -/

/-- The targets of a block scale. -/
inductive BlockTarget where
  | int (w : Nat)
  | tapered (n : Nat)
deriving DecidableEq, Repr

/-- Does a finite value saturate in the target? -/
def BlockTarget.misfit (t : BlockTarget) (v : FVal) : Bool :=
  match v with
  | .fin n d =>
    match t with
    | .int w =>
      let m := roundNat .rne 0 (decide (n < 0)) n.natAbs d
      if n < 0 then decide (2 ^ (w - 1) < m) else decide (2 ^ (w - 1) ≤ m)
    | .tapered k => decide (d * 2 ^ taperedMax k < n.natAbs)
  | _ => false

/-- The count of scale bytes with which some element saturates, found bit by bit: the scale byte of R62. -/
def searchScale (t : BlockTarget) (xs : List FVal) : Nat → Nat → Nat
  | 0, acc => acc
  | j + 1, acc =>
    let b := acc + 2 ^ j - 1
    if xs.any fun x => t.misfit (x.scale (127 - (b : Int))) then searchScale t xs j (acc + 2 ^ j) else searchScale t xs j acc

/-- The scale byte of a block (R62). -/
def blockScale (t : BlockTarget) (xs : List FVal) : Nat :=
  if xs.any fun x => !x.isFinite then 255 else min 254 (searchScale t xs 8 0)

/-- An element of a block converted with its scale byte (R62). -/
def blockElem (t : BlockTarget) (b : Nat) (x : FVal) : Res :=
  if b = 255 then { pat := match t with | .int _ => 0 | .tapered n => 2 ^ (n - 1), flags := 0 }
  else
    match t with
    | .int w => toIntVal .rne 0 w true (x.scale (127 - (b : Int)))
    | .tapered n => toTapered n (x.scale (127 - (b : Int)))

end Sys2Proof.Machine
end

