-- ==== Sys2Proof/Config.lean ====
section
/-! DEFINITION. What an implementation fixes and the manual does not give. Each constant has no body: nothing in Lean can
evaluate it, so a claim holds whatever it is (log 7, DESIGN CHOICE). -/

namespace Sys2Proof

/-- SHA-384 (R361): the manual names the function and not its computation. -/
opaque Config.sha384 : List Byte → BitVec 384

/-- The check of an ECDSA P-384 signature with a public key over a digest (R361). -/
opaque Config.ecdsaVerify : List Byte → BitVec 384 → List Byte → Bool

/-- The key hash fused into the package (R361). -/
opaque Config.fusedKeyHash : BitVec 384

/-- The 16-byte serial number of the package (R361). -/
opaque Config.serialNumber : BitVec 128

/-- The version of a firmware image, by the body of the image (R361). -/
opaque Config.imageVersion : List Byte → BitVec 64

/-- The ECDSA P-384 signature of the device identity key over a report (R361). -/
opaque Config.identitySign : List Byte → BitVec 768

/-- The 240 payload bytes of a packet (R353): the manual names what a kind carries and not how it lies. -/
opaque Config.flitPayload : RanvikPacket → BitVec 1920

/-- The CRC-32 of a flit over bytes 0 to 251 (R353): its polynomial and its order of bits are not given. -/
opaque Config.flitCrc : BitVec 2016 → BitVec 32

/-- Credits of each virtual channel of a Ranvik port when the link comes up (R353). -/
opaque Config.flitCredits : Nat → Nat

/-- The group, by bits [17:5] of its devices' numbers, that a global port of a device leads to: the pod's cabling plan (R354). -/
opaque Config.cabling : BitVec 18 → Nat → BitVec 13

/-- Which of the twelve routers of quadrant `q` has the link to quadrant `r`, modulo 12 (R12): `linkRouter q r`. -/
opaque Config.linkRouter : Nat → Nat → Nat

/-- What the accumulators of a launch's cores hold at its start, 32,768 bytes for each core, by the number of the launch (R156): undefined
(log 12, DESIGN CHOICE: a free value). -/
opaque Config.freeAccumulators : Nat → List Byte

end Sys2Proof
end

