-- ==== Sys2Proof/Machine/Tbl.lean ====
section
/-! DEFINITION. Sparse tables: a list of entries by number, in rising order, the numbers that are not listed holding a default. -/

namespace Sys2Proof.Machine

/-- A table by number, entries in strictly rising order. -/
abbrev Tbl (α : Type) := List (Nat × α)

/-- Entry `k`, if it is listed. -/
def Tbl.find {α : Type} (t : Tbl α) (k : Nat) : Option α :=
  match t with
  | [] => none
  | (j, x) :: r => if j = k then some x else Tbl.find r k

/-- Entry `k`, or the default of the table. -/
def Tbl.get {α : Type} (dflt : α) (t : Tbl α) (k : Nat) : α := (Tbl.find t k).getD dflt

/-- The table with entry `k` set. -/
def Tbl.set {α : Type} (t : Tbl α) (k : Nat) (x : α) : Tbl α :=
  match t with
  | [] => [(k, x)]
  | (j, y) :: r => if k < j then (k, x) :: (j, y) :: r else if k = j then (k, x) :: r else (j, y) :: Tbl.set r k x

/-- The table without entry `k`. -/
def Tbl.erase {α : Type} (t : Tbl α) (k : Nat) : Tbl α := t.filter fun e => e.1 ≠ k

/-- The table with `f` applied to each listed entry. -/
def Tbl.mapVals {α : Type} (f : Nat → α → α) (t : Tbl α) : Tbl α := t.map fun e => (e.1, f e.1 e.2)

end Sys2Proof.Machine
end

