-- ==== Sys2Proof/Syntax.lean ====
section
/-! DEFINITION. The instruction type: one constructor for each row of the opcode table.
The fields of an encoded row are the bit fields of its word, as the encoding tables of 04_words.md
(R71 to R83) and the entry of the instruction give them; the rows without an encoding are the steps of
the other agents of the package (95_what_each_step_holds.md): what such a step is about and what comes with it
(which queue, which core, a written value) stands in the field `subject` of State. -/

namespace Sys2Proof

/-- One constructor per row of the opcode table, the rows whose words have fields first. -/
inductive Instr where
  /-- ADD (R102). Writes the 64-bit sum of two scalar registers, modulo 2^64. -/
  | add (d : BitVec 6) (a : BitVec 6) (b : BitVec 6)
  /-- SUB (R102). Writes the 64-bit difference of two scalar registers. -/
  | sub (d : BitVec 6) (a : BitVec 6) (b : BitVec 6)
  /-- AND (R102). Writes the bitwise AND of two scalar registers. -/
  | and (d : BitVec 6) (a : BitVec 6) (b : BitVec 6)
  /-- OR (R102). Writes the bitwise OR of two scalar registers. -/
  | or (d : BitVec 6) (a : BitVec 6) (b : BitVec 6)
  /-- XOR (R102). Writes the bitwise XOR of two scalar registers. -/
  | xor (d : BitVec 6) (a : BitVec 6) (b : BitVec 6)
  /-- SLL (R102). Shifts a scalar left by the low six bits of the second operand. -/
  | sll (d : BitVec 6) (a : BitVec 6) (b : BitVec 6)
  /-- SRL (R102). Shifts a scalar right logically by the low six bits of the second operand. -/
  | srl (d : BitVec 6) (a : BitVec 6) (b : BitVec 6)
  /-- SRA (R102). Shifts a scalar right arithmetically by the low six bits of the second operand. -/
  | sra (d : BitVec 6) (a : BitVec 6) (b : BitVec 6)
  /-- SLT (R102). Writes 1 when the first operand is less than the second, signed, and 0 otherwise. -/
  | slt (d : BitVec 6) (a : BitVec 6) (b : BitVec 6)
  /-- SLTU (R102). Writes 1 when the first operand is less than the second, unsigned, and 0 otherwise. -/
  | sltu (d : BitVec 6) (a : BitVec 6) (b : BitVec 6)
  /-- MIN (R102). Writes the signed smaller of two scalars. -/
  | min (d : BitVec 6) (a : BitVec 6) (b : BitVec 6)
  /-- MAX (R102). Writes the signed larger of two scalars. -/
  | max (d : BitVec 6) (a : BitVec 6) (b : BitVec 6)
  /-- MINU (R102). Writes the unsigned smaller of two scalars. -/
  | minu (d : BitVec 6) (a : BitVec 6) (b : BitVec 6)
  /-- MAXU (R102). Writes the unsigned larger of two scalars. -/
  | maxu (d : BitVec 6) (a : BitVec 6) (b : BitVec 6)
  /-- CSEL (R102). Copies sa into sd when sb is nonzero; otherwise sd keeps its value. -/
  | csel (d : BitVec 6) (a : BitVec 6) (b : BitVec 6)
  /-- ADDI (R103). Adds a sign-extended 13-bit immediate to a scalar register. -/
  | addi (d : BitVec 6) (a : BitVec 6) (i : BitVec 13)
  /-- LUI (R103). Loads a 19-bit immediate shifted left by 13 and sign-extended. -/
  | lui (d : BitVec 6) (i : BitVec 19)
  /-- AUIPC (R103). Adds a 19-bit immediate shifted left by 13 to the pc. -/
  | auipc (d : BitVec 6) (i : BitVec 19)
  /-- MUL (R104). Writes the low 64 bits of the product of two scalars. -/
  | mul (d : BitVec 6) (a : BitVec 6) (b : BitVec 6)
  /-- MULH (R104). Writes the high 64 bits of the signed 128-bit product. -/
  | mulh (d : BitVec 6) (a : BitVec 6) (b : BitVec 6)
  /-- MULHU (R104). Writes the high 64 bits of the unsigned 128-bit product. -/
  | mulhu (d : BitVec 6) (a : BitVec 6) (b : BitVec 6)
  /-- DIV (R104). Divides signed, truncating toward zero, with fixed results for a zero divisor and for overflow. -/
  | div (d : BitVec 6) (a : BitVec 6) (b : BitVec 6)
  /-- DIVU (R104). Divides unsigned, giving all ones for a zero divisor. -/
  | divu (d : BitVec 6) (a : BitVec 6) (b : BitVec 6)
  /-- REM (R104). Writes the signed remainder, which takes the sign of the dividend. -/
  | rem (d : BitVec 6) (a : BitVec 6) (b : BitVec 6)
  /-- REMU (R104). Writes the unsigned remainder. -/
  | remu (d : BitVec 6) (a : BitVec 6) (b : BitVec 6)
  /-- CLZ (R105). Counts the leading zero bits of a scalar. -/
  | clz (d : BitVec 6) (a : BitVec 6)
  /-- CTZ (R105). Counts the trailing zero bits of a scalar. -/
  | ctz (d : BitVec 6) (a : BitVec 6)
  /-- POPC (R105). Counts the one bits of a scalar. -/
  | popc (d : BitVec 6) (a : BitVec 6)
  /-- REV8 (R105). Reverses the byte order of a scalar. -/
  | rev8 (d : BitVec 6) (a : BitVec 6)
  /-- BREV (R105). Reverses the bit order of a scalar. -/
  | brev (d : BitVec 6) (a : BitVec 6)
  /-- ROTL (R105). Rotates a scalar left. -/
  | rotl (d : BitVec 6) (a : BitVec 6) (b : BitVec 6)
  /-- ROTR (R105). Rotates a scalar right. -/
  | rotr (d : BitVec 6) (a : BitVec 6) (b : BitVec 6)
  /-- BEXT (R105). Extracts a zero-extended bit field. -/
  | bext (d : BitVec 6) (a : BitVec 6) (b : BitVec 6)
  /-- BINS (R105). Inserts a bit field into the destination register. -/
  | bins (d : BitVec 6) (a : BitVec 6) (b : BitVec 6)
  /-- CLMUL (R105). Writes the low 64 bits of a carry-less product. -/
  | clmul (d : BitVec 6) (a : BitVec 6) (b : BitVec 6)
  /-- CLMULH (R105). Writes the high 64 bits of a carry-less product. -/
  | clmulh (d : BitVec 6) (a : BitVec 6) (b : BitVec 6)
  /-- DRAW (R150). Takes one or two counter draws keyed by DRAWC and returns them as an integer or an f32 in the chosen mode. -/
  | draw (d : BitVec 6) (b : BitVec 6)
  /-- FADD (R109). Adds two f32 values, rounding in ROUND. -/
  | fadd (d : BitVec 6) (a : BitVec 6) (b : BitVec 6)
  /-- FSUB (R109). Subtracts two f32 values, rounding in ROUND. -/
  | fsub (d : BitVec 6) (a : BitVec 6) (b : BitVec 6)
  /-- FMUL (R109). Multiplies two f32 values, rounding in ROUND. -/
  | fmul (d : BitVec 6) (a : BitVec 6) (b : BitVec 6)
  /-- FDIV (R109). Divides two f32 values, rounding in ROUND. -/
  | fdiv (d : BitVec 6) (a : BitVec 6) (b : BitVec 6)
  /-- FSQRT (R109). Takes the square root of an f32 value, rounding in ROUND. -/
  | fsqrt (d : BitVec 6) (a : BitVec 6)
  /-- FMIN (R109). Writes the smaller of two f32 values, with −0 below +0. -/
  | fmin (d : BitVec 6) (a : BitVec 6) (b : BitVec 6)
  /-- FMAX (R109). Writes the larger of two f32 values. -/
  | fmax (d : BitVec 6) (a : BitVec 6) (b : BitVec 6)
  /-- FEQ (R109). Writes 1 when two f32 values are equal. -/
  | feq (d : BitVec 6) (a : BitVec 6) (b : BitVec 6)
  /-- FLT (R109). Writes 1 when the first f32 value is less than the second. -/
  | flt (d : BitVec 6) (a : BitVec 6) (b : BitVec 6)
  /-- FLE (R109). Writes 1 when the first f32 value is less than or equal to the second. -/
  | fle (d : BitVec 6) (a : BitVec 6) (b : BitVec 6)
  /-- FCLASS (R110). Writes a one-hot class mask of an f32 value. -/
  | fclass (d : BitVec 6) (a : BitVec 6)
  /-- FCVT_F32_I64 (R109). Converts an i64 to f32. -/
  | fcvtF32I64 (d : BitVec 6) (a : BitVec 6)
  /-- FCVT_I64_F32 (R109). Converts an f32 to i64, saturating. -/
  | fcvtI64F32 (d : BitVec 6) (a : BitVec 6)
  /-- FCVT_F32_FX64 (R109). Converts an fx64 to f32. -/
  | fcvtF32Fx64 (d : BitVec 6) (a : BitVec 6)
  /-- FCVT_FX64_F32 (R109). Converts an f32 to fx64, saturating. -/
  | fcvtFx64F32 (d : BitVec 6) (a : BitVec 6)
  /-- FRCP (R68). Writes the table-based estimate of 1/x. -/
  | frcp (d : BitVec 6) (a : BitVec 6)
  /-- FRSQRT (R69). Writes the table-based estimate of 1/sqrt(x). -/
  | frsqrt (d : BitVec 6) (a : BitVec 6)
  /-- FRCPS (R70). Computes the reciprocal refinement step 2 − a·b. -/
  | frcps (d : BitVec 6) (a : BitVec 6) (b : BitVec 6)
  /-- FRSQRTS (R70). Computes the square-root refinement step (3 − a·b)/2. -/
  | frsqrts (d : BitVec 6) (a : BitVec 6) (b : BitVec 6)
  /-- FEXP2 (R66). Computes 2^x by the bit-exact polynomial and table method. -/
  | fexp2 (d : BitVec 6) (a : BitVec 6)
  /-- FLOG2 (R67). Computes log2 x by the bit-exact polynomial and table method. -/
  | flog2 (d : BitVec 6) (a : BitVec 6)
  /-- FMADD (R111). Computes x·y + z with one rounding, where z is the destination. -/
  | fmadd (d : BitVec 6) (a : BitVec 6) (b : BitVec 6)
  /-- FMSUB (R111). Computes x·y − z with one rounding. -/
  | fmsub (d : BitVec 6) (a : BitVec 6) (b : BitVec 6)
  /-- FNMADD (R111). Computes −(x·y) − z with one rounding. -/
  | fnmadd (d : BitVec 6) (a : BitVec 6) (b : BitVec 6)
  /-- FNMSUB (R111). Computes −(x·y) + z with one rounding. -/
  | fnmsub (d : BitVec 6) (a : BitVec 6) (b : BitVec 6)
  /-- BEQ (R106). Branches when two scalars are equal. -/
  | beq (a : BitVec 6) (b : BitVec 6) (o : BitVec 10)
  /-- BNE (R106). Branches when two scalars differ. -/
  | bne (a : BitVec 6) (b : BitVec 6) (o : BitVec 10)
  /-- BLT (R106). Branches when the first scalar is less than the second, signed. -/
  | blt (a : BitVec 6) (b : BitVec 6) (o : BitVec 10)
  /-- BGE (R106). Branches when the first scalar is greater than or equal to the second, signed. -/
  | bge (a : BitVec 6) (b : BitVec 6) (o : BitVec 10)
  /-- BLTU (R106). Branches when the first scalar is less than the second, unsigned. -/
  | bltu (a : BitVec 6) (b : BitVec 6) (o : BitVec 10)
  /-- BGEU (R106). Branches when the first scalar is greater than or equal to the second, unsigned. -/
  | bgeu (a : BitVec 6) (b : BitVec 6) (o : BitVec 10)
  /-- BTST (R106). Branches when the AND of two scalars is nonzero. -/
  | btst (a : BitVec 6) (b : BitVec 6) (o : BitVec 10)
  /-- BTSTZ (R106). Branches when the AND of two scalars is zero. -/
  | btstz (a : BitVec 6) (b : BitVec 6) (o : BitVec 10)
  /-- BZ (R107). Branches with long reach when a scalar is zero. -/
  | bz (d : BitVec 6) (i : BitVec 19)
  /-- J (R107). Jumps pc-relative with a reach of ±512 KiB. -/
  | j (i : BitVec 19)
  /-- JAL (R107). Jumps pc-relative and writes the return address. -/
  | jal (d : BitVec 6) (i : BitVec 19)
  /-- JALR (R107). Jumps to a register plus an offset, faulting on an odd target, and writes the return address. -/
  | jalr (d : BitVec 6) (a : BitVec 6) (i : BitVec 13)
  /-- LD_I8 (R165). Loads a byte, sign-extended. -/
  | ldI8 (d : BitVec 6) (b : BitVec 6) (o : BitVec 10)
  /-- LD_N8 (R165). Loads a byte, zero-extended. -/
  | ldN8 (d : BitVec 6) (b : BitVec 6) (o : BitVec 10)
  /-- LD_I16 (R165). Loads a halfword, sign-extended. -/
  | ldI16 (d : BitVec 6) (b : BitVec 6) (o : BitVec 10)
  /-- LD_N16 (R165). Loads a halfword, zero-extended. -/
  | ldN16 (d : BitVec 6) (b : BitVec 6) (o : BitVec 10)
  /-- LD_I32 (R165). Loads a word, sign-extended. -/
  | ldI32 (d : BitVec 6) (b : BitVec 6) (o : BitVec 10)
  /-- LD_N32 (R165). Loads a word, zero-extended. -/
  | ldN32 (d : BitVec 6) (b : BitVec 6) (o : BitVec 10)
  /-- LD (R165). Loads 8 bytes; inside a region the load uses the read set and the write-hold buffer. -/
  | ld (d : BitVec 6) (b : BitVec 6) (o : BitVec 10)
  /-- ST_8 (R165). Stores the low byte of a scalar. -/
  | st8 (d : BitVec 6) (b : BitVec 6) (o : BitVec 10)
  /-- ST_16 (R165). Stores the low halfword of a scalar. -/
  | st16 (d : BitVec 6) (b : BitVec 6) (o : BitVec 10)
  /-- ST_32 (R165). Stores the low word of a scalar. -/
  | st32 (d : BitVec 6) (b : BitVec 6) (o : BitVec 10)
  /-- ST (R165). Stores 8 bytes; inside a region the bytes enter the write-hold buffer. -/
  | st (d : BitVec 6) (b : BitVec 6) (o : BitVec 10)
  /-- LD_ACQ_N32 (R166). Performs a 4-byte acquire load at the given scope. -/
  | ldAcqN32 (d : BitVec 6) (b : BitVec 6) (c : BitVec 3) (o : BitVec 7)
  /-- LD_ACQ (R166). Performs an 8-byte acquire load at the given scope. -/
  | ldAcq (d : BitVec 6) (b : BitVec 6) (c : BitVec 3) (o : BitVec 7)
  /-- ST_REL_32 (R166). Performs a 4-byte release store at the given scope. -/
  | stRel32 (d : BitVec 6) (b : BitVec 6) (c : BitVec 3) (o : BitVec 7)
  /-- ST_REL (R166). Performs an 8-byte release store at the given scope. -/
  | stRel (d : BitVec 6) (b : BitVec 6) (c : BitVec 3) (o : BitVec 7)
  /-- STNT_32 (R166). Performs a 4-byte non-temporal store, which stays unordered until ntdrain. -/
  | stnt32 (d : BitVec 6) (b : BitVec 6) (o : BitVec 7)
  /-- STNT (R166). Performs an 8-byte non-temporal store. -/
  | stnt (d : BitVec 6) (b : BitVec 6) (o : BitVec 7)
  /-- AMOSWAP (R168). Atomically swaps a 64-bit word. -/
  | amoswap (d : BitVec 6) (a : BitVec 6) (b : BitVec 6) (c : BitVec 3)
  /-- AMOADD_I64 (R168). Atomically adds to a 64-bit word. -/
  | amoaddI64 (d : BitVec 6) (a : BitVec 6) (b : BitVec 6) (c : BitVec 3)
  /-- AMOAND (R168). Atomically ANDs into a 64-bit word. -/
  | amoand (d : BitVec 6) (a : BitVec 6) (b : BitVec 6) (c : BitVec 3)
  /-- AMOOR (R168). Atomically ORs into a 64-bit word. -/
  | amoor (d : BitVec 6) (a : BitVec 6) (b : BitVec 6) (c : BitVec 3)
  /-- AMOXOR (R168). Atomically XORs into a 64-bit word. -/
  | amoxor (d : BitVec 6) (a : BitVec 6) (b : BitVec 6) (c : BitVec 3)
  /-- AMOMAX_I64 (R168). Atomically takes the signed maximum. -/
  | amomaxI64 (d : BitVec 6) (a : BitVec 6) (b : BitVec 6) (c : BitVec 3)
  /-- AMOMIN_I64 (R168). Atomically takes the signed minimum. -/
  | amominI64 (d : BitVec 6) (a : BitVec 6) (b : BitVec 6) (c : BitVec 3)
  /-- AMOMAX_N64 (R168). Atomically takes the unsigned maximum. -/
  | amomaxN64 (d : BitVec 6) (a : BitVec 6) (b : BitVec 6) (c : BitVec 3)
  /-- AMOMIN_N64 (R168). Atomically takes the unsigned minimum. -/
  | amominN64 (d : BitVec 6) (a : BitVec 6) (b : BitVec 6) (c : BitVec 3)
  /-- AMOCAS (R168). Atomically compares and swaps a 64-bit word. -/
  | amocas (d : BitVec 6) (a : BitVec 6) (b : BitVec 6) (c : BitVec 3)
  /-- AMOADD_I32 (R168). Atomically adds to a 32-bit word. -/
  | amoaddI32 (d : BitVec 6) (a : BitVec 6) (b : BitVec 6) (c : BitVec 3)
  /-- AMOSWAP_32 (R168). Atomically swaps a 32-bit word. -/
  | amoswap32 (d : BitVec 6) (a : BitVec 6) (b : BitVec 6) (c : BitVec 3)
  /-- AMOADD_FX64 (R168). Atomically adds fx64 values modulo 2^64. -/
  | amoaddFx64 (d : BitVec 6) (a : BitVec 6) (b : BitVec 6) (c : BitVec 3)
  /-- AMOADD_F32 (R168). Atomically adds an f32 value with RNE rounding. -/
  | amoaddF32 (d : BitVec 6) (a : BitVec 6) (b : BitVec 6) (c : BitVec 3)
  /-- AMOCAS_32 (R168). Atomically compares and swaps a 32-bit word. -/
  | amocas32 (d : BitVec 6) (a : BitVec 6) (b : BitVec 6) (c : BitVec 3)
  /-- FENCE (R167). Waits until every earlier access except stnt is performed at the scope, then lets later accesses begin. -/
  | fence (c : BitVec 3)
  /-- MFLUSH (R167). Cleans a range of up to 1 MiB to the DRAM array and returns the length covered. -/
  | mflush (d : BitVec 6) (a : BitVec 6) (b : BitVec 6)
  /-- CINV (R167). Invalidates the core's L1 lines that meet a range. -/
  | cinv (a : BitVec 6) (b : BitVec 6)
  /-- PUT (R169). Checks a remote write of 8 bytes and an optional counter increment, then issues it without waiting. -/
  | put (a : BitVec 6) (b : BitVec 6) (c : BitVec 6)
  /-- PUT_V (R169). Checks a remote write of 512 bytes from a vector and an optional counter increment, then issues it without waiting. -/
  | putV (a : BitVec 6) (b : BitVec 6) (c : BitVec 6)
  /-- VLD (R170). Loads 512 bytes into a vector register. -/
  | vld (d : BitVec 5) (b : BitVec 6) (o : BitVec 10)
  /-- VST (R170). Stores the active bytes of a vector register. -/
  | vst (d : BitVec 5) (b : BitVec 6) (o : BitVec 10)
  /-- VLD_TA6 (R170). Loads 384 packed bytes as 512 ta6 elements. -/
  | vldTa6 (d : BitVec 5) (b : BitVec 6) (o : BitVec 10)
  /-- VST_TA6 (R170). Packs 512 ta6 elements into 384 bytes and stores them. -/
  | vstTa6 (d : BitVec 5) (b : BitVec 6) (o : BitVec 10)
  /-- VGATHER (R171). Loads each active element from base plus scaled index after checking every element. -/
  | vgather (t : BitVec 4) (d : BitVec 5) (a : BitVec 5) (b : BitVec 5)
  /-- VSCATTER (R171). Stores each active element to base plus scaled index after checking every element. -/
  | vscatter (t : BitVec 4) (d : BitVec 5) (a : BitVec 5) (b : BitVec 5)
  /-- VADD_INT (R123). Adds integer elements, wrapping. -/
  | vaddInt (t : BitVec 4) (s : BitVec 1) (d : BitVec 5) (a : BitVec 5) (b : BitVec 5)
  /-- VSUB_INT (R123). Subtracts integer elements, wrapping. -/
  | vsubInt (t : BitVec 4) (s : BitVec 1) (d : BitVec 5) (a : BitVec 5) (b : BitVec 5)
  /-- VMUL_INT (R123). Multiplies integer elements and keeps the low bits. -/
  | vmulInt (t : BitVec 4) (s : BitVec 1) (d : BitVec 5) (a : BitVec 5) (b : BitVec 5)
  /-- VMULH (R123). Keeps the high half of each integer product. -/
  | vmulh (t : BitVec 4) (s : BitVec 1) (d : BitVec 5) (a : BitVec 5) (b : BitVec 5)
  /-- VADDS (R123). Adds integer elements, saturating. -/
  | vadds (t : BitVec 4) (s : BitVec 1) (d : BitVec 5) (a : BitVec 5) (b : BitVec 5)
  /-- VSUBS (R123). Subtracts integer elements, saturating. -/
  | vsubs (t : BitVec 4) (s : BitVec 1) (d : BitVec 5) (a : BitVec 5) (b : BitVec 5)
  /-- VMIN_INT (R123). Takes the smaller integer element. -/
  | vminInt (t : BitVec 4) (s : BitVec 1) (d : BitVec 5) (a : BitVec 5) (b : BitVec 5)
  /-- VMAX_INT (R123). Takes the larger integer element. -/
  | vmaxInt (t : BitVec 4) (s : BitVec 1) (d : BitVec 5) (a : BitVec 5) (b : BitVec 5)
  /-- VMADD (R123). Computes x·y + z per integer element, with the addend from the prefix or from the destination. -/
  | vmadd (t : BitVec 4) (s : BitVec 1) (d : BitVec 5) (a : BitVec 5) (b : BitVec 5)
  /-- VWMUL (R124). Writes exact widened integer products into a register pair. -/
  | vwmul (t : BitVec 4) (s : BitVec 1) (d : BitVec 5) (a : BitVec 5) (b : BitVec 5)
  /-- VAND (R123). Takes the bitwise AND of the elements. -/
  | vand (t : BitVec 4) (s : BitVec 1) (d : BitVec 5) (a : BitVec 5) (b : BitVec 5)
  /-- VOR (R123). Takes the bitwise OR of the elements. -/
  | vor (t : BitVec 4) (s : BitVec 1) (d : BitVec 5) (a : BitVec 5) (b : BitVec 5)
  /-- VXOR (R123). Takes the bitwise XOR of the elements. -/
  | vxor (t : BitVec 4) (s : BitVec 1) (d : BitVec 5) (a : BitVec 5) (b : BitVec 5)
  /-- VSHL (R123). Shifts the elements left. -/
  | vshl (t : BitVec 4) (s : BitVec 1) (d : BitVec 5) (a : BitVec 5) (b : BitVec 5)
  /-- VSHR (R123). Shifts the elements right, arithmetically for i types and logically for n types. -/
  | vshr (t : BitVec 4) (s : BitVec 1) (d : BitVec 5) (a : BitVec 5) (b : BitVec 5)
  /-- VCLMUL (R124). Writes widened carry-less products into a register pair. -/
  | vclmul (t : BitVec 4) (s : BitVec 1) (d : BitVec 5) (a : BitVec 5) (b : BitVec 5)
  /-- VADD_FLOAT (R125). Adds float elements with one rounding in the mode. -/
  | vaddFloat (t : BitVec 4) (s : BitVec 1) (d : BitVec 5) (a : BitVec 5) (b : BitVec 5)
  /-- VSUB_FLOAT (R125). Subtracts float elements with one rounding. -/
  | vsubFloat (t : BitVec 4) (s : BitVec 1) (d : BitVec 5) (a : BitVec 5) (b : BitVec 5)
  /-- VMUL_FLOAT (R125). Multiplies float elements with one rounding. -/
  | vmulFloat (t : BitVec 4) (s : BitVec 1) (d : BitVec 5) (a : BitVec 5) (b : BitVec 5)
  /-- VFMA (R125). Computes a fused multiply-add per float element. -/
  | vfma (t : BitVec 4) (s : BitVec 1) (d : BitVec 5) (a : BitVec 5) (b : BitVec 5)
  /-- VMIN_FLOAT (R125). Takes the smaller float element. -/
  | vminFloat (t : BitVec 4) (s : BitVec 1) (d : BitVec 5) (a : BitVec 5) (b : BitVec 5)
  /-- VMAX_FLOAT (R125). Takes the larger float element. -/
  | vmaxFloat (t : BitVec 4) (s : BitVec 1) (d : BitVec 5) (a : BitVec 5) (b : BitVec 5)
  /-- VEXP2 (R125). Applies FEXP2 to each active f32 element. -/
  | vexp2 (d : BitVec 5) (a : BitVec 5)
  /-- VLOG2 (R125). Applies FLOG2 to each active f32 element. -/
  | vlog2 (d : BitVec 5) (a : BitVec 5)
  /-- VRCP (R125). Applies FRCP to each active f32 element. -/
  | vrcp (d : BitVec 5) (a : BitVec 5)
  /-- VRSQRT (R125). Applies FRSQRT to each active f32 element. -/
  | vrsqrt (d : BitVec 5) (a : BitVec 5)
  /-- VRCPS (R125). Applies FRCPS to each active f32 element. -/
  | vrcps (s : BitVec 1) (d : BitVec 5) (a : BitVec 5) (b : BitVec 5)
  /-- VRSQRTS (R125). Applies FRSQRTS to each active f32 element. -/
  | vrsqrts (s : BitVec 1) (d : BitVec 5) (a : BitVec 5) (b : BitVec 5)
  /-- VCVT (R126). Converts elements with the same width or narrowing. -/
  | vcvt (t : BitVec 4) (u : BitVec 4) (d : BitVec 5) (a : BitVec 5)
  /-- VCVTW (R126). Converts elements, widening into a register group. -/
  | vcvtw (t : BitVec 4) (u : BitVec 4) (d : BitVec 5) (a : BitVec 5)
  /-- VQUANT (R127). Quantises a source quad into block-scaled elements, writes the scale bytes and updates AMAX. -/
  | vquant (t : BitVec 4) (d : BitVec 5) (a : BitVec 5) (b : BitVec 5)
  /-- VAMAX (R128). Updates AMAX from the largest active magnitude and any NaN. -/
  | vamax (t : BitVec 4) (a : BitVec 5)
  /-- VMOV (R129). Copies each active element. -/
  | vmov (t : BitVec 4) (d : BitVec 5) (a : BitVec 5)
  /-- VBCAST (R129). Broadcasts the low bits of a scalar to each active element. -/
  | vbcast (t : BitVec 4) (d : BitVec 5) (a : BitVec 5)
  /-- VEXTRACT (R129). Reads one element into a scalar. -/
  | vextract (t : BitVec 4) (d : BitVec 5) (a : BitVec 5) (b : BitVec 5)
  /-- VPERM (R130). Permutes elements by the indexes held in vb. -/
  | vperm (t : BitVec 4) (d : BitVec 5) (a : BitVec 5) (b : BitVec 5)
  /-- VSLIDE (R131). Slides elements by a signed scalar amount and fills with zeros. -/
  | vslide (t : BitVec 4) (d : BitVec 5) (a : BitVec 5) (b : BitVec 5)
  /-- VIOTA (R131). Writes each element's own index. -/
  | viota (t : BitVec 4) (d : BitVec 5)
  /-- VREDSUM (R132). Sums the active elements in the fixed pairwise tree. -/
  | vredsum (t : BitVec 4) (d : BitVec 5) (a : BitVec 5)
  /-- VREDMAX (R132). Takes the maximum of the active elements in the tree. -/
  | vredmax (t : BitVec 4) (d : BitVec 5) (a : BitVec 5)
  /-- VREDMIN (R132). Takes the minimum of the active elements in the tree. -/
  | vredmin (t : BitVec 4) (d : BitVec 5) (a : BitVec 5)
  /-- VSAMPLE (R133). Finds the greatest allowed f32 element and its global index, waiting for a mask tile when one is named. -/
  | vsample (d : BitVec 5) (a : BitVec 5) (b : BitVec 5)
  /-- VCMPEQ (R135). Writes a predicate of element equality. -/
  | vcmpeq (t : BitVec 4) (d : BitVec 5) (a : BitVec 5) (b : BitVec 5)
  /-- VCMPNE (R135). Writes a predicate of element inequality. -/
  | vcmpne (t : BitVec 4) (d : BitVec 5) (a : BitVec 5) (b : BitVec 5)
  /-- VCMPLT (R135). Writes a predicate of less-than. -/
  | vcmplt (t : BitVec 4) (d : BitVec 5) (a : BitVec 5) (b : BitVec 5)
  /-- VCMPLE (R135). Writes a predicate of less-or-equal. -/
  | vcmple (t : BitVec 4) (d : BitVec 5) (a : BitVec 5) (b : BitVec 5)
  /-- VSEL (R136). Selects va where active and vb elsewhere. -/
  | vsel (t : BitVec 4) (d : BitVec 5) (a : BitVec 5) (b : BitVec 5)
  /-- KAND (R137). ANDs two predicates. -/
  | kand (d : BitVec 5) (a : BitVec 5) (b : BitVec 5)
  /-- KOR (R137). ORs two predicates. -/
  | kor (d : BitVec 5) (a : BitVec 5) (b : BitVec 5)
  /-- KXOR (R137). XORs two predicates. -/
  | kxor (d : BitVec 5) (a : BitVec 5) (b : BitVec 5)
  /-- KANDN (R137). ANDs a predicate with the complement of another. -/
  | kandn (d : BitVec 5) (a : BitVec 5) (b : BitVec 5)
  /-- KPOP (R137). Counts the set bits of a predicate into a scalar. -/
  | kpop (d : BitVec 5) (a : BitVec 5)
  /-- VMOV_16 (R74). 16-bit move of 32-bit elements between vector registers. -/
  | vmov16 (d : BitVec 5) (b : BitVec 5)
  /-- VBCAST_16 (R74). 16-bit broadcast of a scalar to every 32-bit element. -/
  | vbcast16 (d : BitVec 5) (b : BitVec 5)
  /-- VADD_I32_16 (R74). 16-bit form of vadd.i32 vd, vd, x. -/
  | vaddI3216 (s : BitVec 1) (d : BitVec 5) (b : BitVec 5)
  /-- VSUB_I32_16 (R74). 16-bit form of vsub.i32. -/
  | vsubI3216 (s : BitVec 1) (d : BitVec 5) (b : BitVec 5)
  /-- VAND_16 (R74). 16-bit form of vand. -/
  | vand16 (s : BitVec 1) (d : BitVec 5) (b : BitVec 5)
  /-- VOR_16 (R74). 16-bit form of vor. -/
  | vor16 (s : BitVec 1) (d : BitVec 5) (b : BitVec 5)
  /-- VXOR_16 (R74). 16-bit form of vxor. -/
  | vxor16 (s : BitVec 1) (d : BitVec 5) (b : BitVec 5)
  /-- VSHL_I32_16 (R74). 16-bit form of vshl.i32. -/
  | vshlI3216 (s : BitVec 1) (d : BitVec 5) (b : BitVec 5)
  /-- VSHR_N32_16 (R74). 16-bit form of the logical shift vshr.n32. -/
  | vshrN3216 (s : BitVec 1) (d : BitVec 5) (b : BitVec 5)
  /-- VSHR_I32_16 (R74). 16-bit form of the arithmetic shift vshr.i32. -/
  | vshrI3216 (s : BitVec 1) (d : BitVec 5) (b : BitVec 5)
  /-- VMIN_I32_16 (R74). 16-bit form of vmin.i32. -/
  | vminI3216 (s : BitVec 1) (d : BitVec 5) (b : BitVec 5)
  /-- VMAX_I32_16 (R74). 16-bit form of vmax.i32. -/
  | vmaxI3216 (s : BitVec 1) (d : BitVec 5) (b : BitVec 5)
  /-- VADD_F32_16 (R74). 16-bit form of vadd.f32. -/
  | vaddF3216 (s : BitVec 1) (d : BitVec 5) (b : BitVec 5)
  /-- VSUB_F32_16 (R74). 16-bit form of vsub.f32. -/
  | vsubF3216 (s : BitVec 1) (d : BitVec 5) (b : BitVec 5)
  /-- VMUL_F32_16 (R74). 16-bit form of vmul.f32. -/
  | vmulF3216 (s : BitVec 1) (d : BitVec 5) (b : BitVec 5)
  /-- VMIN_F32_16 (R74). 16-bit form of vmin.f32. -/
  | vminF3216 (s : BitVec 1) (d : BitVec 5) (b : BitVec 5)
  /-- VMAX_F32_16 (R74). 16-bit form of vmax.f32. -/
  | vmaxF3216 (s : BitVec 1) (d : BitVec 5) (b : BitVec 5)
  /-- PREFIX (R77). Supplies the mask, the zeroing bit, the rounding mode and a fourth operand to the next base vector instruction, with which it issues as one instruction. -/
  | pfx (s : BitVec 1) (m : BitVec 1) (o : BitVec 5) (r : BitVec 3) (z : BitVec 1) (k : BitVec 4)
  /-- PFAC (R143). Multiplies the accumulator by the linear factor a0 + a1·z and rescales. -/
  | pfac (a : BitVec 6) (b : BitVec 6)
  /-- PFACV (R143). Applies n factors taken from two vectors, in element order. -/
  | pfacv (d : BitVec 6) (a : BitVec 6) (b : BitVec 6)
  /-- PDIV (R144). Divides out a linear factor, forward or backward by magnitude. -/
  | pdiv (a : BitVec 6) (b : BitVec 6)
  /-- PCONV (R145). Multiplies the accumulator by a polynomial image held in memory. -/
  | pconv (a : BitVec 6)
  /-- PLD (R146). Loads an accumulator image as it stands. -/
  | pld (a : BitVec 6)
  /-- PST (R146). Stores the accumulator as a 512-byte image. -/
  | pst (a : BitVec 6)
  /-- PGET (R147). Reads one coefficient pattern into a scalar. -/
  | pget (d : BitVec 6) (a : BitVec 6)
  /-- PSTAT (R147). Reads PSTATE into a scalar. -/
  | pstat (d : BitVec 6)
  /-- RCOMMIT (R209). Locks and validates the region's lines, draws once, and publishes or discards with the given ratio. -/
  | rcommit (d : BitVec 6) (a : BitVec 6)
  /-- RSTAT (R209). Reads REGSTAT into a scalar. -/
  | rstat (d : BitVec 6)
  /-- OCLAIM (R236). Claims a free operand slot and defines the tile as a slot, waiting while none is free. -/
  | oclaim (a : BitVec 6) (b : BitVec 6)
  /-- ORELEASE (R237). Waits until the slot is unused, then frees it and undefines the tile. -/
  | orelease (a : BitVec 6)
  /-- OFILL (R238). Checks an operand-slot fill from a scratchpad tile and queues it on the matrix queue. -/
  | ofill (g : BitVec 3) (a : BitVec 6) (b : BitVec 6) (c : BitVec 6)
  /-- MMA (R239). Checks a matrix multiply-accumulate into an accumulator and queues it. -/
  | mma (g : BitVec 3) (a : BitVec 6) (b : BitVec 6) (c : BitVec 6)
  /-- MMASK (R240). Reads and checks a 528-byte mask block at issue and queues its load into the mask slot. -/
  | mmask (g : BitVec 3) (a : BitVec 6)
  /-- ADRAIN (R241). Checks an accumulator drain into a scratchpad tile and queues it. -/
  | adrain (g : BitVec 3) (a : BitVec 6) (c : BitVec 6)
  /-- AZERO (R242). Queues the zeroing of an accumulator. -/
  | azero (g : BitVec 3) (a : BitVec 6)
  /-- CPY (R246). Checks a byte copy and places it in the copy queue. -/
  | cpy (g : BitVec 3) (a : BitVec 6) (b : BitVec 6) (c : BitVec 6)
  /-- CPYT (R247). Reads and checks a layout record and queues a windowed tensor copy. -/
  | cpyt (g : BitVec 3) (a : BitVec 6) (b : BitVec 6) (c : BitVec 6)
  /-- HALO (R248). Checks and queues a push of a tile's border strips to its team grid neighbours. -/
  | halo (g : BitVec 3) (a : BitVec 6) (b : BitVec 6) (c : BitVec 6)
  /-- GARM (R227). Arms a guard slot as unresolved. -/
  | garm (g : BitVec 3)
  /-- GSET (R227). Resolves an armed guard to true or false. -/
  | gset (g : BitVec 3) (a : BitVec 6)
  /-- SEND (R264). Sends an active message whose payload is taken from a vector register. -/
  | send (a : BitVec 6) (b : BitVec 6) (c : BitVec 6)
  /-- SENDR (R264). Sends an active message whose payload is read from memory. -/
  | sendr (a : BitVec 6) (b : BitVec 6) (c : BitVec 6)
  /-- BIND (R265). Binds a tag to a handler, optionally sets its class depth and window team, and moves parked arrivals into the mailbox. -/
  | bind (a : BitVec 6) (b : BitVec 6)
  /-- UNBIND (R265). Removes a tag's binding so that later arrivals park. -/
  | unbind (b : BitVec 6)
  /-- CHPUT (R268). Appends a 64-byte entry to an output channel, waiting for space. -/
  | chput (c : BitVec 6) (n : BitVec 6)
  /-- WCLOSE (R270). Waits for earlier sends to be accepted, sends epoch markers to a team and optionally raises the epoch. -/
  | wclose (a : BitVec 6) (b : BitVec 6)
  /-- SPAWN (R258). Builds a pip and places it pinned or in the cluster task queue. -/
  | spawn (a : BitVec 6) (b : BitVec 6) (c : BitVec 6)
  /-- SPAWNJ (R258). Builds a pip with a join cell, increments the cell and places the pip. -/
  | spawnj (a : BitVec 6) (b : BitVec 6) (c : BitVec 6)
  /-- YIELD (R260). Ends the run, sets YLEFT for the next run and re-enters class 4. -/
  | yield (a : BitVec 6)
  /-- TSET (R278). Defines a tile's kind, place, format and expected count. -/
  | tset (a : BitVec 6) (b : BitVec 6) (c : BitVec 6)
  /-- TMARK (R279). Counts the firing's own stores as arrivals to a tile, as a release. -/
  | tmark (a : BitVec 6) (b : BitVec 6)
  /-- TWAIT (R280). Waits until a tile is ready, optionally in a given phase, as an acquire. -/
  | twait (a : BitVec 6) (b : BitVec 6)
  /-- TSTAT (R281). Reads word 0 of a tile entry. -/
  | tstat (a : BitVec 6) (b : BitVec 6)
  /-- TCLR (R281). Waits until the tile is unused, then undefines it. -/
  | tclr (a : BitVec 6)
  /-- CWAIT (R299). Waits until a counter reaches a target, then returns the word, as an acquire. -/
  | cwait (a : BitVec 6) (b : BitVec 6) (c : BitVec 6)
  /-- CTRIG (R300). Binds a counter trigger with a pip, or in join-drop form decrements a join cell. -/
  | ctrig (a : BitVec 6) (b : BitVec 6) (c : BitVec 6)
  /-- EVSET (R303). ORs a mask into an event-vector word as a system-scope release and retests the launch-queue heads. -/
  | evset (a : BitVec 6) (b : BitVec 6)
  /-- EVCLR (R303). Clears the mask's bits in an event-vector word. -/
  | evclr (a : BitVec 6) (b : BitVec 6)
  /-- EVWAIT (R303). Waits until all of a mask's bits are set in an event-vector word. -/
  | evwait (a : BitVec 6) (b : BitVec 6)
  /-- RINIT (R305). Initialises a range unit's count, minimum chunk and divisor. -/
  | rinit (a : BitVec 6) (b : BitVec 6) (c : BitVec 6)
  /-- RNEXT (R306). Takes the next chunk (start, size) from a range unit, recorded or replayed in deterministic launches. -/
  | rnext (d : BitVec 6) (b : BitVec 6)
  /-- TJOIN (R308). Adds the logical core to a team, declaring or matching the team's grid. -/
  | tjoin (a : BitVec 6) (b : BitVec 6)
  /-- TLEAVE (R308). Removes the logical core from a team, which may complete the open generation. -/
  | tleave (a : BitVec 6)
  /-- TBAR (R309). Arrives at the team's open barrier generation and waits for it to complete. -/
  | tbar (a : BitVec 6)
  /-- LAUNCH (R311). Advances a launch-queue tail from the device and returns whether it advanced. -/
  | launch (d : BitVec 6) (b : BitVec 6)
  /-- DIGEST (R312). Folds a memory range into a running digest and posts it with a step to the replica-check block. -/
  | digest (d : BitVec 6) (b : BitVec 6) (c : BitVec 6)
  /-- TKN (R325). Checks a tokenise command and queues it to a tokeniser engine. -/
  | tkn (g : BitVec 3) (a : BitVec 6) (b : BitVec 6) (c : BitVec 6)
  /-- DTKN (R325). Checks a detokenise command and queues it to a detokeniser engine. -/
  | dtkn (g : BitVec 3) (a : BitVec 6) (b : BitVec 6) (c : BitVec 6)
  /-- COMBINE_MAXI (R271). Contributes a value-and-index packet to a router combine of maximum. -/
  | combineMaxi (a : BitVec 6) (b : BitVec 6) (c : BitVec 6)
  /-- COMBINE_ADDFX (R271). Contributes an fx64 packet to a router sum. -/
  | combineAddfx (a : BitVec 6) (b : BitVec 6) (c : BitVec 6)
  /-- SRR (R94). Reads a system register, recording CYCLE and PCORE in deterministic launches. -/
  | srr (d : BitVec 6) (n : BitVec 12)
  /-- SRW (R94). Writes a writable system register under the rules of R95. -/
  | srw (d : BitVec 6) (n : BitVec 12)
  /-- TRAP (R341). Saves the firing context and starts the trap service with a 12-bit code, or ends the launch when no service is set. -/
  | trap (n : BitVec 12)
  /-- NTDRAIN (R167). Waits until every earlier stnt has reached the memory-side cache. -/
  | ntdrain
  /-- PCLR (R143). Resets the polynomial accumulator to the polynomial 1. -/
  | pclr
  /-- RBEGIN (R209). Opens a region instance: advances REGSEQ, snapshots the scalars and empties both sets. -/
  | rbegin
  /-- RABORT (R209). Discards an open attempt without a draw; outside a region in a deterministic launch it retires the core from regions. -/
  | rabort
  /-- DONE (R259). Retires the firing: resolves guards false, releases, frees the mailbox entry or consumes actor inputs, decrements the join cell and frees the context. -/
  | done
  /-- ERET (R341). Restores the trapped context from its record and resumes it at EPC + 4. -/
  | eret
  /-- BKPT (R341). Takes a breakpoint into the trap service. -/
  | bkpt
  /-- HALT (R341). Stops the physical core issuing in both slots. -/
  | halt
  /-- WAITI (R341). Consumes the logical core's wake bit, or waits until it is set. -/
  | waiti
  /-- PUT_PERFORM (R169). The put's data are written at the destination and then the counter is incremented, as a release. -/
  | putPerform
  /-- REGION_INSTRUCTION_LIMIT (R207). The 4,097th instruction of an attempt, other than rcommit or rabort, raises fault 0x0E. -/
  | regionInstructionLimit
  /-- OFILL_START (R238). On the fill-and-drain path, copies the operand image and scales from the source tile into the slot. -/
  | ofillStart
  /-- OFILL_COMPLETION (R238). Sets the slot tile's counts, makes it ready, flips its phase and copies the poison bit. -/
  | ofillCompletion
  /-- MMA_START (R234). The array starts or resumes the candidate of highest effective priority and checks its operand pair. -/
  | mmaStart
  /-- MMA_KSTEP_BOUNDARY (R234). At the end of a k-step the running mma may be overtaken by a higher-priority candidate and suspended. -/
  | mmaKstepBoundary
  /-- MMA_COMPLETION (R239). The final k-step applies the mask and the mma frees its queue entry and slot uses. -/
  | mmaCompletion
  /-- MMASK_START (R240). The captured mask block is written into the mask slot. -/
  | mmaskStart
  /-- ADRAIN_START (R241). Converts the accumulator into the tile's format and updates AMAX. -/
  | adrainStart
  /-- ADRAIN_COMPLETION (R241). Makes the destination tile ready with its phase flipped and its poison bit set. -/
  | adrainCompletion
  /-- AZERO_START (R242). Zeroes the accumulator and clears its overflow bit. -/
  | azeroStart
  /-- COPY_REQUEST_SEND (R243). The core sends a queued copy request to its chosen streamer queue, which accepts it and frees the entry or refuses it for a resend. -/
  | copyRequestSend
  /-- COPY_START (R246). The streamer acquires, takes the source tile to draining and the destination tile through a fill start, and copies the bytes. -/
  | copyStart
  /-- CPYT_START (R247). The streamer gathers the window with fill values and the bank interleave, writing scale bytes when named. -/
  | cpytStart
  /-- COPY_COMPLETION (R246). Adds arrivals to the destination tile, empties the source tile and increments the counter with its poison bit, as releases. -/
  | copyCompletion
  /-- HALO_START (R248). The streamer sends each interior border strip to its existing neighbour. -/
  | haloStart
  /-- HALO_STRIP_DELIVERY (R248). A strip is written into the receiver's tile and the receiver's side counter is incremented; after the last one the command completes. -/
  | haloStripDelivery
  /-- MESSAGE_ARRIVAL (R263). An arrival at the target logical core is dropped, accepted into the mailbox, parked, held for its window, or refused. -/
  | messageArrival
  /-- SEND_STATUS_WRITE (R264). When the outcome is known, the ticket and status code are stored into the send-status word. -/
  | sendStatusWrite
  /-- OUTBOUND_RESEND (R257). The core resends a pip or message that found its target full, keeping per-target order. -/
  | outboundResend
  /-- PIP_ACCEPT (R257). A spawned or join pip is accepted into a pinned queue or a cluster task queue and leaves the outbound buffer. -/
  | pipAccept
  /-- WCLOSE_MARKER_ARRIVAL (R269). An epoch marker arrives; when every team member's marker is in, the window closes and its arrivals become dispatchable in sorted order. -/
  | wcloseMarkerArrival
  /-- CHANNEL_ENTRY_ARRIVAL (R268). The entry is written into the consumer's ring and its arrived count rises as a release. -/
  | channelEntryArrival
  /-- SPACE_UPDATE_ARRIVAL (R267). The consumer's space update sets the producer's space count. -/
  | spaceUpdateArrival
  /-- COMBINE_ROUTER_MERGE (R271). Two packets of one key meeting in a router or port unit merge their values and counts. -/
  | combineRouterMerge
  /-- COMBINE_ROOT_ARRIVAL (R271). A packet merges into the root's combining table; at the expected count the root writes counter x and increments x + 1. -/
  | combineRootArrival
  /-- TKN_START (R326). The engine finds specials, decodes UTF-8, pre-splits by class and merges by rank. -/
  | tknStart
  /-- TKN_ENTRY_WRITE (R327). Once channel space is free, the engine writes an entry of up to 15 ids and raises the consumer's count; after the last one it raises its counter. -/
  | tknEntryWrite
  /-- DTKN_START (R329). The engine appends each id's text to the stream, holding incomplete UTF-8, then writes the state block and raises the counter. -/
  | dtknStart
  /-- YIELD_DEADLINE_OVERRUN (R29). With YLEFT at 0, any instruction other than YIELD or DONE raises fault 0x10 and ends the launch. -/
  | yieldDeadlineOverrun
  /-- DISPATCH (R31). When a firing context and a slot are free, the core takes the first eligible item by class and ageing and starts its firing. -/
  | dispatch
  /-- RESUMPTION (R27). A waiting firing whose condition now holds resumes ahead of every dispatch class, as an acquire. -/
  | resumption
  /-- DEADLOCK_PROBE_SEND (R47). After each 65,536 cycles of an unchanged wait, the firing sends a probe along each wait-for edge. -/
  | deadlockProbeSend
  /-- DEADLOCK_PROBE_RECEIVE (R47). A probe is forwarded if a waiting firing has a smaller key, discarded otherwise, or makes its owner the victim when it returns. -/
  | deadlockProbeReceive
  /-- LAUNCH_START (R39). The launch unit arbitrates eligible heads, checks the record, reads the patches, assigns LAUNCHID and fans out the entry pips. -/
  | launchStart
  /-- LAUNCH_COMPLETION (R40). With the live count at zero and all commands done, the unit removes bindings, releases, ORs the set mask and writes success. -/
  | launchCompletion
  /-- LAUNCH_END_BY_FAULT (R42). A terminal fault stops every firing of the launch, discards queued pips and commands, and records the code once started commands complete. -/
  | launchEndByFault
  /-- PAGE_FAULT_ENTRY_POST (R338). A suspended firing posts its page-fault entry once the ring has room. -/
  | pageFaultEntryPost
  /-- PAGE_FAULT_RESUME (R338). A ticket written to resume restarts the suspended firing at EPC, or after rbegin inside a region. -/
  | pageFaultResume
  /-- PAGE_FAULT_REFUSE (R338). A ticket written to refuse ends the launch with code 0x08. -/
  | pageFaultRefuse
  /-- LAUNCH_QUEUE_TAIL_WRITE (R254). A host write of a tail register releases at system scope and queues records, or sets overrun. -/
  | launchQueueTailWrite
  /-- LAUNCH_QUEUE_STOP (R256). Setting the stop bit halts the starting of the queue's records. -/
  | launchQueueStop
  /-- LAUNCH_QUEUE_STOPPED (R256). Stopped becomes set once no record of the queue is being started. -/
  | launchQueueStopped
  /-- LAUNCH_QUEUE_RESTART (R256). Clearing the stop bit lets the queue run again. -/
  | launchQueueRestart
  /-- LAUNCH_QUEUE_OVERRUN_CLEAR (R254). Writing 1 to the overrun bit clears it. -/
  | launchQueueOverrunClear
  /-- LAUNCH_QUEUE_HEAD_WRITE (R256). A head write while stopped removes records and writes their completion words as removed. -/
  | launchQueueHeadWrite
  /-- EVENT_VECTOR_SET_WINDOW_WRITE (R302). A host write ORs a word into the event vector and retests the launch heads. -/
  | eventVectorSetWindowWrite
  /-- EVENT_VECTOR_CLEAR_WINDOW_WRITE (R302). A host write clears the written bits of the event vector. -/
  | eventVectorClearWindowWrite
  /-- RUN_CONTROL_WRITE (R341). Writing 1 to a core's run-control register releases a halted core. -/
  | runControlWrite
  /-- TRANSLATION_INVALIDATION (R290). A write of the invalidation register drops the matching translations in core buffers and die caches. -/
  | translationInvalidation
  /-- INVALIDATION_DONE (R290). Done becomes set once the entries are dropped and every command checked over the range has completed. -/
  | invalidationDone
  /-- L2_PURGE (R287). A purge-register write cleans and invalidates every L2 line of the range. -/
  | l2Purge
  /-- L2_PURGE_DONE (R287). Busy clears when the purge has finished, and held host accesses proceed. -/
  | l2PurgeDone
  /-- ADDRESS_RANGE_ENTRY_WRITE (R286). A write of an address-range entry is used, or is ignored or skipped with error set when the entry or the time is wrong. -/
  | addressRangeEntryWrite
  /-- REGISTER_WRITE (R3). A write to a device register with no behaviour of its own stores the value and ignores the reserved bits. -/
  | registerWrite
  /-- TRANSLATION_WALK (R158). A walker completes a walk and installs a translation, or raises fault 0x08 or 0x09 at the access that missed. -/
  | translationWalk
  /-- MSC_MISS_FILL (R161). The stack controller fetches requested and predicted sectors for a memory-side cache miss and answers the request. -/
  | mscMissFill
  /-- SCRUB (R18). The scrubber reads a granule and writes back a correction unless a newer foreground write arrived meanwhile. -/
  | scrub
  /-- PAGE_RETIREMENT (R346). Hendeotte drains the fault-address queue, appends bad-page entries and tells the driver. -/
  | pageRetirement
  /-- REPLICA_DECISION (R348). With all posts of a step collected, Hendeotte releases or keeps the replicas' holds. -/
  | replicaDecision
  /-- REPLICA_TIMEOUT (R349). When a replica has not posted within the timeout, MSI-X vector 2 is raised and the missing replica is reported. -/
  | replicaTimeout
  /-- HOST_WRITE (R201). A host write enters at the memory-side cache after invalidating the home L2 line. -/
  | hostWrite
  /-- HOST_READ (R200). A host read returns data from the memory-side cache. -/
  | hostRead
  /-- HOST_MAILBOX_DOORBELL (R360). A host doorbell write hands a mailbox request to Hendeotte, as a release at system scope. -/
  | hostMailboxDoorbell
  /-- DEVICE_MAILBOX_DOORBELL (R360). Hendeotte's doorbell write posts a reply and raises MSI-X vector 0. -/
  | deviceMailboxDoorbell
  /-- RANVIK_FLIT_RECEIVE (R353). A port receives a flit, retries it on a CRC failure, drops unknown kinds, and delivers or merges it by kind and channel. -/
  | ranvikFlitReceive
  /-- LANE_FAILURE (R19). The calibration lane takes over a failed data lane and the failure is reported. -/
  | laneFailure
  /-- LINK_TRAINING (R350). The host port trains to the highest common generation, width and protocol. -/
  | linkTraining
  /-- RANVIK_PORT_TRAINING (R352). A Ranvik port trains to 224 or 112 Gb/s per lane. -/
  | ranvikPortTraining
  /-- ETHERNET_WRITE (R357). A RoCEv2 or Ultra Ethernet write reaches device memory. -/
  | ethernetWrite
  /-- TEXT_FRAME_RECEIVE (R331). A port accepts a text frame into its next receive slot or drops it, then notifies the bound handler. -/
  | textFrameReceive
  /-- TEXT_NOTICE_RESEND (R358). A refused or deferred frame notice is resent, and after 1,024 refusals the frame is dropped. -/
  | textNoticeResend
  /-- TRANSMIT_ENTRY_SEND (R359). For each doorbell increment the port sends the next transmit entry and writes its completion word. -/
  | transmitEntrySend
  /-- POWER_ON (R363). Bring-up runs the ROM, boot verification, HBM training, SerDes calibration, self-test and the bad-page load. -/
  | powerOn
  /-- POWER_OFF (R20). Power removal stops everything except the flash. -/
  | powerOff
  /-- IDLE_ENTRY (R362). After 1 ms with no work or traffic, the package gates the arithmetic clock and puts HBM in self-refresh. -/
  | idleEntry
  /-- WAKE (R362). A host write, tail write, event write or port arrival wakes the package in 2 µs, applying held writes in order. -/
  | wake
  /-- OVER_TEMPERATURE (R362). Passing the cold-plate limit holds every context. -/
  | overTemperature
  /-- CRITICAL_TEMPERATURE (R362). At the critical temperature the package signals the board to remove power. -/
  | criticalTemperature
  /-- TEXT_COMMAND_ACCEPT (R324). A tokeniser or detokeniser engine accepts a text command from the issuing logical core's copy queue into its 32-entry request queue, which frees the copy-queue entry. -/
  | textCommandAccept
  /-- ARITHMETIC_CLOCK_CYCLE (R313). Each cycle of the arithmetic clock advances every core's CYCLE by one, wrapping modulo 2^64. -/
  | arithmeticClockCycle
  /-- ETHERNET_PORT_TRAINING (R357). An Ethernet port trains to 800 GbE or 400 GbE. -/
  | ethernetPortTraining
  /-- TELEMETRY_ALARM (R351). Telemetry or wear monitoring crosses an alarm condition and raises MSI-X vector 3. -/
  | telemetryAlarm
deriving DecidableEq, Repr

end Sys2Proof
end

