-- ==== Sys2Proof/Machine/State.lean ====
section
/-! DEFINITION. The state of the package as plain data, the reasons a step can stop, and the state after reset.
Each structure names the rules whose state sheets it holds. Sparse tables (log 2, DESIGN CHOICE) stand for the fixed numbers of units:
an entry that is not listed holds the reset value of its unit. -/

namespace Sys2Proof.Machine

open Sys2Proof

/-! ## Why a step stops -/

/-- Reasons of a stop that is no behaviour of the package. `step` meets none: a move that cannot take place changes nothing (log 1). -/
inductive Fault where
  /-- `exec` was asked for an instruction while the issuing firing does not run (R23). Raised by every encoded row. Safe: the package
  issues nothing then. -/
  | noFiring
deriving DecidableEq, Repr

/-- Reasons of a refusal. -/
inductive Refusal where
  /-- The instruction has no meaning in this model yet. Raised by the dispatch of a row not reached. Safe. -/
  | notModelled (mnemonic : String)
deriving DecidableEq, Repr

/-! ## Pips and waits -/

/-- A pip: four words (R21). -/
structure Pip where
  w0 : Word
  w1 : Word
  w2 : Word
  w3 : Word
deriving DecidableEq, Repr

/-- Where a pip waits, and what its firing owes when it is done (R22, R259). -/
inductive Source where
  /-- A launch entry pip, a pinned spawn or a pinned join pip (class 4). -/
  | pinned
  /-- The launch entry pip: s4 and s5 are set too (R25). -/
  | entry
  /-- A message in mailbox entry `i` (class 1). -/
  | message (i : Nat)
  /-- A trigger that fired (class 2). -/
  | trigger
  /-- Actor `i` (class 3). -/
  | actor (i : Nat)
  /-- A free pip (class 5). -/
  | free
  /-- Not a pip: the yielded firing in context `n`, which competes in class 4 (R26). -/
  | yielded (n : Nat)
deriving DecidableEq, Repr

/-- A queued pip with its counts (R24, R32). -/
structure QPip where
  pip    : Pip
  source : Source
  /-- The launch it belongs to (a cluster task queue is shared by launches). -/
  launch : Nat
  /-- Its priority as raised by ageing. -/
  prio   : Nat
  /-- Pass count, 0 to 255. -/
  pass   : Nat
  /-- Age count, 0 to 1,024. -/
  age    : Nat
deriving DecidableEq, Repr

/-- A message on its way or held (R262 to R264). -/
structure Msg where
  launch : Nat
  target : Nat
  tag    : Byte
  dev    : BitVec 18
  sender : BitVec 16
  ticket : BitVec 32
  epoch  : BitVec 32
  /-- The first ticket of the sender in its epoch (R269). -/
  first  : BitVec 32
  data   : List Byte
  /-- Physical address of the send-status word, if one is named, and whether it is host memory. -/
  status : Option (Nat × Bool)
  /-- The key of the logical core of this device that sent it; none for a message of another device or of a port. -/
  from_  : Option Nat
deriving DecidableEq, Repr

/-- An item of the outbound buffer (R257). -/
inductive Out where
  | pip (q : QPip) (target : Option Nat) (cluster : Nat)
  | msg (m : Msg)
  /-- A message to another device (R356). -/
  | far (m : Msg) (dst : BitVec 18)
deriving DecidableEq, Repr

/-- A resource for which an instruction waits at its issue; it is tried again when the resource may be there. -/
inductive Need where
  | matrixQueue
  | copyQueue
  /-- A free operand slot (R236). -/
  | slot
  /-- A tile that tset or tclr may take (R276). -/
  | tileFree (t : Nat)
  /-- A tile that the fill issued in order `ord` may take (R231, R279). -/
  | tileFill (t ord : Nat)
  /-- A slot tile that orelease may free (R237). -/
  | tileUnused (t : Nat)
  /-- A tile becoming ready (vsample, R134). -/
  | tileReady (t : Nat)
  /-- Room in the channel of out end `n` (R268). -/
  | channelSpace (n : Nat)
  /-- The wake bit (R341). -/
  | wake
  /-- The order of commits of a deterministic launch (R216). -/
  | commitOrder
  /-- Acceptance of the messages of the logical core with tickets before `n` (R270). -/
  | sendsAccepted (n : BitVec 32)
deriving DecidableEq, Repr

/-- What a waiting firing waits for (R26, R27). -/
inductive Wait where
  | none
  | need (n : Need)
  /-- cwait (R299): the counter at physical address `pa`. -/
  | counter (pa : Nat) (va : Word) (target : Word) (dst : BitVec 6)
  /-- twait (R280). -/
  | tile (t : Nat) (phase : Option Bool)
  /-- evwait (R303). -/
  | event (word : Nat) (mask : Word)
  /-- tbar (R309): the generation that must complete. -/
  | barrier (team : Nat) (gen : Nat)
  /-- An outbound item for what the instruction made at its issue (R257, R264). -/
  | item (o : Out)
  /-- An outbound item is free for it. -/
  | metItem (o : Out)
  /-- The condition came to hold; a cwait keeps the word as it read it. -/
  | met (word : Word) (dst : BitVec 6)
  /-- A twait whose tile was found poisoned, or a cwait whose counter was: the fault 0x0A is taken at resumption. -/
  | metPoison (addr : Word)
deriving DecidableEq, Repr

/-- The state of a firing context (R24). `yielded` is a live firing that competes for a slot, and `runnable` one whose wait
is over. -/
inductive FState where
  | free
  | running
  | waiting
  | runnable
  | yielded
  | suspended
deriving DecidableEq, Repr

/-- A guard slot (R225). -/
inductive Guard where
  | isTrue
  | isFalse
  | unresolved
deriving DecidableEq, Repr

/-! ## The firing context and its slot storage -/

/-- The product-polynomial accumulator with PSTATE (R138 to R140). -/
structure Poly where
  coeff     : Vector (BitVec 32) 64
  degree    : BitVec 6
  scale     : BitVec 32
  truncated : Bool
  inexact   : Bool
  nonfinite : Bool
deriving DecidableEq, Repr

/-- One line of the write-hold buffer (R202): physical line number, byte mask, data, recorded stamp. -/
structure HoldLine where
  line  : Nat
  mask  : Word
  data  : BitVec 512
  stamp : Word
deriving DecidableEq, Repr

/-- The region storage of a firing slot (R202). An open region never leaves its slot, so it stands with the firing. -/
structure Region where
  isOpen  : Bool
  hold    : List HoldLine
  /-- Read set: physical line number and recorded stamp. -/
  reads   : List (Nat × Word)
  snap    : Vector Word 64
  /-- YLEFT noted at rbegin (R209). -/
  yleft   : BitVec 21
  /-- Address of the instruction after rbegin. -/
  resume  : Word
  /-- Instructions retired in the attempt (R207). -/
  retired : Nat
deriving DecidableEq, Repr

/-- A firing context (R23 to R25, R90, R96, R113, R114, R139, R149, R202, R225, R313). -/
structure Firing where
  /-- Number of the context: 2 · (logical core key) + context number. -/
  key      : Nat
  st       : FState
  wait     : Wait
  regs     : Vector Word 64
  vregs    : Vector VWord 32
  kregs    : Vector PWord 16
  guards   : Vector Guard 8
  poly     : Poly
  flags    : BitVec 5
  round    : BitVec 3
  yleft    : BitVec 21
  pc       : Word
  cause    : BitVec 20
  epc      : BitVec 48
  faddr    : Word
  drawc    : Word
  regseq   : Word
  regstat  : Word
  /-- GSTAT[23:0]; bits [25:24] are read from the logical core's accumulators (R226). -/
  gstat    : BitVec 24
  region   : Region
  /-- STATUS[8:7]. -/
  prio     : BitVec 2
  /-- STATUS[5]. -/
  pinned   : Bool
  /-- STATUS[0]. -/
  service  : Bool
  pip      : Pip
  source   : Source
  /-- Firing sequence F (R149). -/
  seqno    : BitVec 32
  /-- In a trap-service firing, the sequence number of the firing that trapped (R341). -/
  outer    : BitVec 32
  /-- Slot it runs in, while it has one. -/
  slot     : Option Nat
  /-- It lives in its switch record and not in a slot (R342). -/
  away     : Bool
  /-- Page-fault ticket of a suspended firing, once its entry is posted, with the faulting address and access code (R338). -/
  ticket   : Option (BitVec 32)
  pfAddr   : BitVec 48
  pfAccess : BitVec 2
  /-- Cycles waited with no change of the condition, and probes sent (R47). -/
  waited   : Nat
  probes   : Nat
  /-- Number of its current wait: a probe that comes back is compared with it (R47). -/
  waitNo   : Nat
deriving DecidableEq, Repr

/-! ## Engine commands -/

/-- The guard of a command, bound at issue (R227). -/
inductive GuardRef where
  | free
  | known (b : Bool)
  | pending
deriving DecidableEq, Repr

/-- Page attributes (R157) with the host bit of the entry (R288). -/
structure Attrs where
  host  : Bool
  ptrap : Bool
  nt    : Bool
  sc    : Bool
  exec  : Bool
  write : Bool
deriving DecidableEq, Repr

/-- A checked piece of an access, within one 64-byte granule. -/
structure Spot where
  va   : Nat
  n    : Nat
  pa   : Nat
  attr : Attrs
  /-- Kind of a peer window. -/
  win  : Option Nat
  /-- Target logical core of a peer window. -/
  lk   : Nat
deriving DecidableEq, Repr

/-- One translated range held by a command from its issue checks (R252, R290): virtual base, length, physical base,
and whether it is host memory. -/
structure PageMap where
  va   : Nat
  len  : Nat
  pa   : Nat
  host : Bool
deriving DecidableEq, Repr

/-- Where a copy reads or writes: virtual addresses through pages checked at issue, or a tile of the issuing core. -/
inductive Place where
  | mem (va : Nat) (pages : List PageMap)
  | tile (t : Nat) (off : Nat)
deriving DecidableEq, Repr

/-- A layout record as cpyt reads it (R282), with its four dimensions in lists. -/
structure Layout where
  fmt       : Nat
  base      : Nat
  fill      : BitVec 32
  transpose : Bool
  pitch     : Nat
  inter     : Nat
  ext       : List Nat
  win       : List Nat
  stride    : List Nat
  org       : List Int
  scales    : Nat
deriving DecidableEq, Repr

/-- A captured command (R220, R221, R324). `ctr` is the counter that it names, as its address was checked at issue. -/
inductive Work where
  | ofill (ta tb fmt k : Nat) (scaled : Bool)
  | mma (ta tb acc prio : Nat) (masked : Bool)
  | mmask (block : BitVec 4224)
  | adrain (ta fmt acc : Nat)
  | azero (acc : Nat)
  | cpy (src dst : Place) (len : Nat) (ctr : Option PageMap) (queue : Nat) (ordered : Bool)
  | cpyt (rec : Layout) (pages : List PageMap) (dst : Place) (ctr : Option PageMap) (queue : Nat) (ordered : Bool)
  /-- `near`: the neighbours as membership stood at issue (R36), each with the side from which its strip comes. -/
  | halo (ta : Nat) (near : List (Nat × Nat)) (queue base depth nr nc : Nat)
  /-- `head`: the vocabulary header, as its address was checked at issue (R290). -/
  | tkn (src : Nat) (pages : List PageMap) (len vocab : Nat) (head : List Spot) (specials : Bool) (chan : Nat) (ctr : Option PageMap)
  | dtkn (ids : Nat) (pages : List PageMap) (count vocab : Nat) (head : List Spot) (flush : Bool) (block base cap : Nat)
      (blockPages outPages : List PageMap)
deriving DecidableEq, Repr

/-- A border strip on its way (R248): the receiver (logical core key), its side index, the element size, the receiver's row
length in elements, and the corner, height and width of the strip in the receiver's tile with its bytes. -/
structure Strip where
  lc    : Nat
  side  : Nat
  elem  : Nat
  pitch : Nat
  row   : Nat
  col   : Nat
  rows  : Nat
  cols  : Nat
  /-- Each byte with whether it was read from a poisoned granule (R249). -/
  data  : List (Byte × Bool)
deriving DecidableEq, Repr

/-- A queued or running command. -/
structure Cmd where
  work    : Work
  guard   : GuardRef
  gnum    : Nat
  /-- Issuing firing: its context and its sequence number, its instruction's address (R223, R227). -/
  fk      : Nat
  seqno   : BitVec 32
  epc     : BitVec 48
  /-- Issue order within the logical core. -/
  order   : Nat
  started : Bool
  /-- k-steps done, and mma completions of the octave while it was a candidate and not running (R234). -/
  ksteps  : Nat
  passed  : Nat
  /-- Poison met (R249). -/
  poison  : Bool
  /-- Strips of a halo still to be delivered (R248). -/
  strips  : List Strip
deriving DecidableEq, Repr

/-- A tile-table entry (R274). -/
structure Tile where
  kind     : Nat
  state    : Nat
  phase    : Bool
  poison   : Bool
  discard  : Bool
  scaled   : Bool
  fmt      : Nat
  arrived  : Nat
  expected : Nat
  base     : Nat
  size     : Nat
  k        : Nat
  uses     : Nat
deriving DecidableEq, Repr

/-! ## Messages and channels -/

/-- A mailbox entry in use (R261). -/
structure MboxEntry where
  tag      : Byte
  code     : Word
  sender   : Word
  delivery : Nat
  epoch    : BitVec 32
deriving DecidableEq, Repr

/-- An outbound item with its number; `full` says that its target was found full and it waits to be resent. -/
structure OutItem where
  num  : Nat
  what : Out
  full : Bool
  /-- The outcome is known and its status store is still to be made. -/
  decided : Bool
deriving DecidableEq, Repr

/-- A channel end (R266). -/
structure ChanEnd where
  isIn     : Bool
  ring     : Nat
  logCap   : Nat
  peer     : Nat
  peerEnd  : Nat
  /-- In end: arrived; out end: sent. -/
  moved    : Nat
  /-- In end: consumed; out end: space. -/
  freed    : Nat
  /-- An out end held by a text command (R327). -/
  held     : Bool
deriving DecidableEq, Repr

/-- An actor (R267, R283): its code, its specs as (out, end, rate), and whether it is ready or alive. -/
structure Actor where
  code  : Word
  specs : List (Bool × Nat × Nat)
  ready : Bool
  alive : Bool
  age   : Nat
deriving DecidableEq, Repr

/-- An armed trigger (R300). -/
structure Trigger where
  pa        : Nat
  threshold : Word
  pip       : Pip
deriving DecidableEq, Repr

/-- A combine packet, or an entry of a combining table (R271): `value` and `count` merge. -/
structure Combine where
  launch : Nat
  root   : Nat
  x      : Nat
  isMax  : Bool
  group  : Nat
  n      : Nat
  value  : Word
  count  : Nat
  /-- It carries a contribution of another device (its release is at system scope). -/
  far    : Bool
  /-- Genmer router in which it stands, and whether it has one of that router's 64 combining entries (R12, R13). -/
  router : Nat
  entry  : Bool
  /-- It has made its one hop inside the quadrant (R13). -/
  moved  : Bool
deriving DecidableEq, Repr

/-! ## Logical cores -/

/-- A logical core (R35, R148, R149, R202, R222, R257, R261, R266, R271, R275, R300, R341). -/
structure LCore where
  launch    : Nat
  index     : Nat
  pcore     : Nat
  hosting   : Nat
  share     : Nat
  seed      : Word
  amax      : BitVec 33
  regionCtr : Word
  retired   : Bool
  starts    : BitVec 32
  tiles     : Tbl Tile
  mbox      : Tbl MboxEntry
  depths    : List Nat
  binds     : Tbl Word
  park      : List Msg
  /-- Accepted arrivals of a deterministic launch whose window has not closed, with their mailbox entries, or parked (R269). -/
  heldMsgs  : List (Msg × Option Nat)
  accepted  : Word
  refused   : Word
  ticket    : BitVec 32
  team      : Option Nat
  epoch     : BitVec 32
  /-- The send ticket as the epoch began. -/
  epochTicket : BitVec 32
  window    : BitVec 32
  /-- Keys of the members counted for the open window, and the markers met: (sender's key, epoch). -/
  counted   : List Nat
  markers   : List (Nat × BitVec 32)
  trigs     : List Trigger
  ends      : Tbl ChanEnd
  actors    : Tbl Actor
  actorLast : Nat
  pinned    : List QPip
  arrivals  : List QPip
  fired     : List QPip
  outbound  : List OutItem
  outNext   : Nat
  /-- Join pips made at a done that wait for an outbound item, in their order (R257). -/
  joins     : List Out
  matq      : List Cmd
  copyq     : List Cmd
  copySeq   : BitVec 32
  issued    : Nat
  /-- Contexts whose wait is over, in the order in which their conditions came to hold (R27). -/
  resume    : List Nat
  wake      : Bool
  combs     : List Combine
  ovf0      : Bool
  ovf1      : Bool
  mask      : BitVec 4224
deriving DecidableEq, Repr

/-! ## Physical cores, octaves, streamers, text engines -/

/-- A line of an L1 (R156): whether it is of host memory, its line number and the bytes it holds. -/
structure L1Line where
  host : Bool
  line : Nat
  data : BitVec 512
deriving DecidableEq, Repr

/-- A cached translation (R158): context, page base and size, physical base, attributes. -/
structure Trans where
  ctx  : Nat
  va   : Nat
  size : Nat
  pa   : Nat
  attr : Attrs
deriving DecidableEq, Repr

/-- A firing slot (R24, R342): the resident context, and whether it is issuing. -/
structure Slot where
  resident : Option Nat
  busy     : Bool
deriving DecidableEq, Repr

/-- A physical core (R24, R31, R156, R158, R341). -/
structure PCore where
  slot0   : Slot
  slot1   : Slot
  halted  : Bool
  l1      : List L1Line
  tbuf    : List Trans
  /-- Context the core last served, plus one; 0 before any (R156). -/
  served  : Nat
  /-- Logical core dispatched last, by index, plus one (R31). -/
  last    : Nat
  /-- CYCLE of this core less the cycles that the package's clock has counted: what this core alone has counted besides (R10, R313). -/
  skew    : Word
  /-- Slot that issued last, plus one, and whether a slot has issued in the running cycle (R23). -/
  lastSlot : Nat
  ran     : Bool
deriving DecidableEq, Repr

/-- An operand slot: its control, data and scale store (R156, R229). -/
structure OpSlot where
  owner  : Option Nat
  fmt    : Option Nat
  k      : Nat
  scaled : Bool
  data   : BitVec 65536
  scales : BitVec 4096
  /-- Poisoned 64-byte granules of data and scale store. -/
  poison : List Nat
deriving DecidableEq, Repr

/-- A line of an octave's instruction cache (R72, R87): whether it lies in host memory, its line number, the context and LAUNCHID that a line
with a patch site is tagged with, beside the number of the line in the launch's code, and its bytes, the overlay in place. -/
structure ILine where
  host : Bool
  line : Nat
  tag  : Option (Nat × BitVec 32 × Nat)
  data : BitVec 512
  /-- The halfwords at which a patch site stands that does not fit. -/
  misfits : BitVec 32
deriving DecidableEq, Repr

/-- The shared units of an octave: the matrix unit (R232, R234, R236) and the instruction cache (R8, R72). -/
structure Octave where
  /-- The lines of the 64 KiB instruction cache, oldest first. -/
  icache    : List ILine
  slots     : Tbl OpSlot
  /-- Firings waiting to claim a slot, in arrival order. -/
  claims    : List Nat
  /-- The running mma: logical core key and issue order. -/
  array     : Option (Nat × Nat)
  /-- The core granted last, plus one; 0 before any. -/
  granted   : Nat
  grantRun  : Nat
  /-- The command on the fill-and-drain path. -/
  path      : Option (Nat × Nat)
  /-- The core served last on the path, plus one; 0 before any. -/
  pathLast  : Nat
deriving DecidableEq, Repr

/-- A streamer (R243, R244): four queues of requests (logical core key, command), running commands, the queue served last. -/
structure Streamer where
  queues  : List (List (Nat × Cmd))
  running : List (Nat × Cmd)
  /-- The queue served last, plus one; 0 before any. -/
  last    : Nat
deriving DecidableEq, Repr

/-- A text engine (R324 to R329): its queue, and what is left of the running command's output. -/
structure TextEngine where
  queue   : List (Nat × Cmd)
  running : Option (Nat × Cmd)
  /-- Ids still to be written to the channel (tkn). -/
  ids     : List (BitVec 32)
deriving DecidableEq, Repr

/-! ## Launches and contexts -/

/-- A patch of the code: site in halfwords, field code, value (R85, R86). -/
structure Patch where
  site  : Nat
  field : Nat
  value : Word
deriving DecidableEq, Repr

/-- A live launch (R24, R34, R84, R86, R96, R253). -/
structure Launch where
  ctx        : Nat
  launchId   : BitVec 32
  paramVA    : Word
  compVA     : Word
  gridX      : Nat
  gridY      : Nat
  det        : Bool
  replay     : Bool
  prio       : Nat
  seed       : Word
  setMask    : BitVec 256
  codeVA     : Word
  codeLen    : Nat
  regions    : Bool
  matrix     : Bool
  bound      : BitVec 21
  patches    : List Patch
  /-- Physical core, hosting exponent and share of each logical core, by index (R285). -/
  place      : List (Nat × Nat × Nat)
  live       : Nat
  /-- The fault code that ends the launch (R42). -/
  ending     : Option Code
deriving DecidableEq, Repr

/-- A launch queue (R24, R254). -/
structure LQueue where
  base    : Word
  size    : Nat
  stop    : Bool
  stopped : Bool
  overrun : Bool
  head    : BitVec 32
  tail    : BitVec 32
  /-- Class of the head as raised by being passed over, and its pass count (R39). -/
  raised  : Nat
  pass    : Nat
deriving DecidableEq, Repr

/-- A range unit (R304). -/
structure RangeUnit where
  next    : Nat
  remain  : Nat
  chunk   : Nat
  divisor : Nat
deriving DecidableEq, Repr

/-- A member of a team (R307, R308): logical core key, position, whether it is awaited in the open generation and whether
it has arrived. -/
structure Member where
  lc      : Nat
  x       : Nat
  y       : Nat
  awaited : Bool
  arrived : Bool
deriving DecidableEq, Repr

/-- A team with its barrier counter (R307). `grid` is GX, GY and the periodicities, when one is declared. -/
structure Team where
  members : List Member
  grid    : Option (Nat × Nat × Bool × Bool)
  span    : Bool
  gen     : BitVec 32
  arrived : Nat
  /-- Span-1: the local generation is complete and its arrival was sent; devices or groups whose arrivals were met and not used up, one
  entry for each arrival (R310). -/
  sent    : Bool
  far     : List (BitVec 18)
  /-- Releases of span-1 generations that this device has seen since its context was paired: which of them a probe is about (R47). -/
  rounds  : BitVec 32
deriving DecidableEq, Repr

/-- A post of a replica (R348, R349): the set word under which it was made, its step and digest, whether the hold that it placed stands, and
whether its step has been decided against it. -/
structure Post where
  set     : Word
  step    : Word
  digest  : Word
  holds   : Bool
  decided : Bool
deriving DecidableEq, Repr

/-- A context (R84 to R86, R99, R222, R254, R302, R304, R307, R314, R338, R339, R349, R356). -/
structure Context where
  root      : Word
  queues    : Tbl LQueue
  nextId    : BitVec 32
  events    : BitVec 256
  units     : Tbl RangeUnit
  teams     : Tbl Team
  almBase   : Word
  almCap    : Word
  almIndex  : Word
  almMode   : Bool
  consumed  : List Nat
  service   : Word
  svcArg    : Word
  trapArea  : Word
  switchArea : Word
  faultAddr : Word
  pfHead    : BitVec 32
  pfTail    : BitVec 32
  pfNext    : BitVec 32
  pfRing    : Tbl (Word × Word)
  weight    : BitVec 4
  pairing   : Word
  /-- A pairing value written while a launch was live (R356). -/
  pairNext  : Option Word
  repStep   : Word
  repDigest : Word
  repSet    : Word
  repTimeout : BitVec 32
  /-- Posts under a set in force that are not decided, or were decided against this context, oldest first. -/
  posts     : List Post
  /-- Hendeotte holds the context for a reason of its own (R20, R349). -/
  held      : Bool
deriving DecidableEq, Repr

/-! ## Memories -/

/-- A line of an L2 slice (R156, R204): line number, which of its two 32-byte sectors are valid, stamp, and whether it is newer than the
memory-side cache. -/
structure L2Line where
  line  : Nat
  valid : BitVec 2
  stamp : Word
  dirty : Bool
deriving DecidableEq, Repr

/-- A 2 KiB line of a memory-side cache (R156, R161): valid 32-byte halves, used and dirty 64-byte sectors. -/
structure MscLine where
  line  : Nat
  valid : BitVec 64
  used  : BitVec 32
  dirty : BitVec 32
deriving DecidableEq, Repr

/-- The memories (R155, R156, R161 to R163, R347). Addresses are physical; the lists of bytes are in canonical form. -/
structure Memories where
  /-- The bytes as their homes hold them: HBM as the L2 slices answer, and the on-chip windows of kinds 0, 1 and 5. -/
  home   : List Host.Cell
  /-- HBM as the memory-side caches hold it, which the host reads (R162). -/
  side   : List Host.Cell
  /-- HBM as the arrays hold it. -/
  array  : List Host.Cell
  /-- Host memory, by bus address (R288). -/
  host   : List Host.Cell
  poison : List Nat
  l2     : List L2Line
  /-- Stamp counter of each slice (R204). -/
  stamps : Tbl Word
  msc    : List MscLine
  /-- Footprint predictor of each stack: line tag and sectors, latest written last (R161). -/
  predictor : Tbl (List (Nat × BitVec 32))
  /-- Corrected-error counts of frames per stack, latest counted last (R347). -/
  soft   : Tbl (List (Nat × Nat))
deriving DecidableEq, Repr

/-! ## What is on its way -/

/-- Bytes of a put within one granule: physical address, host memory, SC page. -/
structure PutPart where
  pa   : Nat
  host : Bool
  sc   : Bool
  data : List Byte
deriving DecidableEq, Repr

/-- A put that has issued and not been performed (R169). -/
structure PendingPut where
  fk     : Nat
  seqno  : BitVec 32
  launch : Nat
  /-- Context and physical core of the firing that issued it. -/
  ctx    : Nat
  pcore  : Nat
  /-- Its bytes, none once they are written. -/
  parts  : List PutPart
  /-- It writes host memory: its increment is a release at system scope (R169). -/
  far    : Bool
  /-- Address of the counter that it increments, and whether that lies on an SC page. -/
  ctr    : Option (Nat × Bool)
deriving DecidableEq, Repr

/-- The store of a send-status word (R264). -/
structure StatusWrite where
  /-- Context of the sender. -/
  ctx   : Nat
  pa    : Nat
  host  : Bool
  value : Word
  lc    : Nat
  num   : Nat
deriving DecidableEq, Repr

/-- An entry on its way into a channel ring (R268), with the firing context whose chput it is; none for a tokeniser's. -/
structure ChanEntry where
  fk    : Option Nat
  lc    : Nat
  inEnd : Nat
  /-- Number of the entry in its channel, taken at issue. -/
  index : Nat
  data  : BitVec 512
deriving DecidableEq, Repr

/-- The edge along which a probe travels (R46): from a waiting firing of this device in its wait `waitNo`, or from another device into a
span-1 team, as `rounds` releases have been seen. -/
inductive ProbeEdge where
  | wait (fk waitNo : Nat)
  | team (ctx team : Nat) (rounds : BitVec 32)
deriving DecidableEq, Repr

/-- A deadlock probe (R47): the key it carries, the firing that owns it, and the logical core it reaches. -/
structure Probe where
  dev    : BitVec 18
  lcore  : Nat
  ctxno  : Nat
  fk     : Option Nat
  target : Nat
  /-- The number of the owner's wait. -/
  waitNo : Nat
  edge   : ProbeEdge
deriving DecidableEq, Repr

/-- A flit in a Ranvik port unit, and whether it has one of the port's 64 combining entries (R355). -/
structure OutFlit where
  port  : Nat
  flit  : Flit
  entry : Bool
deriving DecidableEq, Repr

/-- Packets and operations in flight (R14). -/
structure Net where
  puts    : List PendingPut
  status  : List StatusWrite
  entries : List ChanEntry
  /-- Space updates: producer logical core, out end, new space count (R267). -/
  spaces  : List (Nat × Nat × Nat)
  /-- Markers: keys of the target and of the sender, epoch (R270). -/
  markers : List (Nat × Nat × BitVec 32)
  combs   : List Combine
  probes  : List Probe
  /-- Flits waiting in the Ranvik port units, oldest first (R353, R355). -/
  flits   : List OutFlit
  /-- Flits that a port has put on its link, oldest first (R353). -/
  wire    : List (Nat × Flit)
  /-- Walks that the 64 walkers of each die are making: context and page (R158). -/
  walks   : Tbl (List (Nat × Nat))
deriving DecidableEq, Repr

/-! ## The package outside the compute dies -/

/-- A text port (R358, R359). -/
structure Port where
  rxRing  : Word
  rxSlots : Word
  bound   : Word
  txRing  : Word
  txCount : Word
  doorbell : Word
  dropped : Word
  pairing : Word
  rxNext  : Nat
  txSent  : Nat
  /-- Notices not yet delivered: slot number and refusals met. -/
  notices : List (Nat × Nat)
  /-- Trained rate of the port in Gb/s, 0 before training (R357). -/
  rate    : Nat
  /-- The calibration lane is free, and it is calibrated (R17, R19). -/
  spare   : Bool
  calibrated : Bool
deriving DecidableEq, Repr

/-- A text frame that a port has sent (R359): port, destination handle, bytes. -/
structure SentFrame where
  port   : Nat
  handle : BitVec 32
  data   : List Byte
deriving DecidableEq, Repr

/-- A Ranvik port (R17, R19, R352, R353). -/
structure RPort where
  /-- Trained lane rate in Gb/s, 0 before training. -/
  rate   : Nat
  spare  : Bool
  calibrated : Bool
  /-- Sequence number of the next flit sent, and of the next flit taken. -/
  sent   : BitVec 32
  expect : BitVec 32
  /-- By virtual channel: credits in use at the far end, and credits owed to it. -/
  used   : Tbl Nat
  owed   : Tbl Nat
deriving DecidableEq, Repr

/-- The host link (R350): generation, width, and the CXL version in tenths, 0 without CXL; all 0 before training. -/
structure Link where
  gen   : Nat
  width : Nat
  cxl   : Nat
deriving DecidableEq, Repr

/-- A power state (R362). -/
inductive Power where
  | off
  | active
  | gated
  /-- Boot verification failed: the management core stays in its ROM (R361). -/
  | rom
deriving DecidableEq, Repr

/-- An entry of the address-range table (R286). -/
structure RangeEntry where
  base  : Word
  limit : Word
  ctl   : Word
  error : Bool
deriving DecidableEq, Repr

/-- The rest of the package (R285 to R287, R290, R291, R339, R345, R351 to R362). -/
structure Package where
  power      : Power
  /-- The board was signalled to remove power (R362). -/
  removePower : Bool
  device     : BitVec 18
  window     : Word
  /-- BAR 2 maps 2^bar2 bytes, 28 to 39 (R351). -/
  bar2       : Nat
  absent     : List Nat
  /-- Stacks that failed training (R363). -/
  deadStacks : List Nat
  ranges     : Tbl RangeEntry
  purgeBase  : Word
  purgeLen   : Word
  purgeBusy  : Bool
  /-- Invalidation register of each die: context, address, length, done (R290). -/
  invals     : Tbl (Nat × Word × Word × Bool)
  fqHead     : BitVec 32
  fqTail     : BitVec 32
  fqLost     : BitVec 32
  fqRing     : Tbl (Word × Word)
  badPages   : List Word
  /-- Frames retired that the full list could not record (R291). -/
  unrecorded : List Word
  softLimit  : Nat
  /-- Context failed over to a frame the driver was told of (R346). -/
  told       : List Word
  /-- MSI-X vectors raised, oldest first (R351). -/
  msix       : List Nat
  mailIn     : Tbl Word
  mailOut    : Tbl Word
  bellIn     : Word
  bellOut    : Word
  request    : Bool
  ports      : Tbl Port
  /-- Frames the text ports have sent, oldest first. -/
  frames     : List SentFrame
  ranvik     : Tbl RPort
  link       : Link
  /-- The firmware image in flash, and the one that runs (R20, R361). -/
  flash      : FlashImage
  image      : FlashImage
  /-- The granule at which the scrubber of each stack goes on (R17). -/
  scrubAt    : Tbl Nat
  /-- Flits of unknown kinds dropped and counted in telemetry (R353). -/
  dropped    : Nat
  lanesLost  : List Nat
  /-- Writes held during a wake (R362): whether the management core made it, address and bytes, in arrival order. -/
  heldWrites : List (Bool × Word × List Byte)
  /-- The bytes the last host read returned (R200), and the last read of the management core (R155). -/
  hostData   : List Byte
  mgmtData   : List Byte
deriving DecidableEq, Repr

/-! ## Steps of other agents -/

/-- What an event step is about and what comes with it. -/
structure Subject where
  /-- The unit: a core, logical core, octave, streamer, engine, queue, context, port, firing, launch or item in flight. -/
  unit    : Nat
  /-- A number within the unit. -/
  item    : Nat
  value   : Word
  value2  : Word
  data    : List Byte
  yes     : Bool
  finding : ScrubFinding
  boot    : BootResult
  mail    : MailReply
  flit    : Flit
deriving DecidableEq, Repr

/-- What comes about beside the steps of the opcode table: the outside, the driver, wear and the links act on the package, or a unit makes
one of the choices that the manual leaves to it. -/
inductive Happening where
  /-- A SECDED error that cannot be corrected in an on-chip memory, at a physical address (R156, R163, R345). -/
  | memoryError (pa : Nat)
  /-- The same in granule `g` of an operand slot of an octave (R251). -/
  | slotError (octave slot g : Nat)
  /-- An octave drops line `i` of its instruction cache (R72). -/
  | cacheDrop (octave i : Nat)
  /-- The driver ends a context and creates it anew (R99, R302, R304). -/
  | contextMade (c : Nat)
  /-- Hendeotte sets the limit of corrected errors (R347). -/
  | softLimit (n : Nat)
  /-- Flash is programmed with an image (R361). -/
  | flashed (image : FlashImage)
  /-- A port recalibrates its calibration lane (R17); `ethernet` as in the numbering of LANE_FAILURE. -/
  | calibrated (ethernet : Bool) (port : Nat)
  /-- The host resizes BAR 2 (R351). -/
  | barSized (n : Nat)
  /-- A RoCEv2 read of device memory (R357). -/
  | ethernetRead (pa n : Nat)
  /-- A port puts flit `i` of those that wait on its link (R353). -/
  | flitSent (i : Nat)
  /-- Flit `i` of those that wait takes another port (R354). -/
  | flitRouted (i port : Nat)
  /-- Combine packet `i` goes to another router (R13). -/
  | combineHop (i router : Nat)
  /-- A walker of a die begins a walk (R158). -/
  | walkStart (die ctx va : Nat)
  /-- A physical core counts a cycle of its own, beside those of the package's clock (R10). -/
  | coreCycle (p : Nat)
  /-- The management core reads `n` bytes of an on-chip window or of the registers, or writes the subject's data there (R155). -/
  | mgmtRead (pa n : Nat)
  | mgmtWrite (pa : Nat)
deriving DecidableEq, Repr

/-- Which agent moves next (log 1, DESIGN CHOICE): a step of another agent, something that comes about beside the table, or the firing in
context `fk` issues one instruction. -/
inductive Move where
  | event (i : Instr) (about : Subject)
  | happen (h : Happening) (about : Subject)
  | issue (fk : Nat)
deriving DecidableEq, Repr

/-! ## The whole -/

/-- The state of the package. -/
structure State where
  /-- The firing context from which the next instruction issues; it stands here and not in `firings`. -/
  f        : Firing
  firings  : Tbl Firing
  lcores   : Tbl LCore
  launches : Tbl Launch
  nextLaunch : Nat
  pcores   : Tbl PCore
  octaves  : Tbl Octave
  tasks    : Tbl (List QPip)
  streamers : Tbl Streamer
  tokenisers : Tbl TextEngine
  detokenisers : Tbl TextEngine
  contexts : Tbl Context
  /-- Launch unit: context and queue started last, as 16 · context + queue, plus one (R39). -/
  lastStart : Nat
  mem      : Memories
  net      : Net
  /-- Translation cache of each die (R158). -/
  tcache   : Tbl (List Trans)
  /-- Cycles of the package's clock since bring-up; a core's CYCLE is this count plus its skew (R10, R313). -/
  cycle    : Word
  pkg      : Package
  agenda   : List Move
  subject  : Subject
  /-- With nothing on the agenda, one probe arrival or resend takes place in a cycle (log 1): whether it has. -/
  polled   : Bool
deriving DecidableEq, Repr

/-! ## Reset -/

def Pip.zero : Pip := { w0 := 0, w1 := 0, w2 := 0, w3 := 0 }

/-- PCLR leaves the polynomial 1 (R138). -/
def Poly.one : Poly :=
  { coeff := (Vector.replicate 64 0).set 0 0x3F800000, degree := 0, scale := 0, truncated := false, inexact := false,
    nonfinite := false }

def Region.closed : Region :=
  { isOpen := false, hold := [], reads := [], snap := Vector.replicate 64 0, yleft := 0, resume := 0, retired := 0 }

/-- A free firing context (R24, R25). -/
def Firing.idle (key : Nat) : Firing :=
  { key := key, st := .free, wait := .none, regs := Vector.replicate 64 0, vregs := Vector.replicate 32 0,
    kregs := (Vector.replicate 16 0).set 0 (BitVec.allOnes 512), guards := Vector.replicate 8 .isTrue, poly := .one,
    flags := 0, round := 0, yleft := 0, pc := 0, cause := 0, epc := 0, faddr := 0, drawc := 0, regseq := 0, regstat := 0,
    gstat := 0, region := .closed, prio := 0, pinned := false, service := false, pip := .zero, source := .pinned,
    seqno := 0, outer := 0, slot := none, away := false, ticket := none, pfAddr := 0, pfAccess := 0, waited := 0, probes := 0, waitNo := 0 }

def Tile.undefined : Tile :=
  { kind := 0, state := 0, phase := false, poison := false, discard := false, scaled := false, fmt := 0, arrived := 0,
    expected := 0, base := 0, size := 0, k := 0, uses := 0 }

/-- A logical core at launch start, before its table and placement are entered. -/
def LCore.fresh : LCore :=
  { launch := 0, index := 0, pcore := 0, hosting := 0, share := 0, seed := 0, amax := 0, regionCtr := 0, retired := false,
    starts := 0, tiles := [], mbox := [], depths := [16, 16, 16, 16], binds := [], park := [], heldMsgs := [], accepted := 0,
    refused := 0, ticket := 0, team := none, epoch := 0, epochTicket := 0, window := 0, counted := [], markers := [], trigs := [], ends := [],
    actors := [], actorLast := 0, pinned := [], arrivals := [], fired := [], outbound := [], outNext := 0, joins := [], matq := [],
    copyq := [], copySeq := 0, issued := 0, resume := [], wake := false, combs := [], ovf0 := false, ovf1 := false,
    mask := 0 }

def Slot.empty : Slot := { resident := none, busy := false }

def PCore.fresh : PCore :=
  { slot0 := .empty, slot1 := .empty, halted := false, l1 := [], tbuf := [], served := 0, last := 0, skew := 0,
    lastSlot := 0, ran := false }

/-- An unclaimed slot. -/
def OpSlot.unclaimed : OpSlot :=
  { owner := none, fmt := none, k := 0, scaled := false, data := 0, scales := 0, poison := [] }

def Octave.fresh : Octave :=
  { icache := [], slots := [], claims := [], array := none, granted := 0, grantRun := 0, path := none, pathLast := 0 }

def Streamer.fresh : Streamer := { queues := [[], [], [], []], running := [], last := 0 }

def TextEngine.fresh : TextEngine := { queue := [], running := none, ids := [] }

/-- A launch queue at reset: one entry of 2^1 records, running (R254). -/
def LQueue.fresh : LQueue :=
  { base := 0, size := 1, stop := false, stopped := false, overrun := false, head := 0, tail := 0, raised := 0, pass := 0 }

def RangeUnit.fresh : RangeUnit := { next := 0, remain := 0, chunk := 1, divisor := 1 }

def Team.empty : Team :=
  { members := [], grid := none, span := false, gen := 0, arrived := 0, sent := false, far := [], rounds := 0 }

/-- A context as the driver creates it (R99, R222, R254, R302). -/
def Context.fresh : Context :=
  { root := 0, queues := [], nextId := 1, events := 0, units := [], teams := [], almBase := 0, almCap := 0, almIndex := 0,
    almMode := false, consumed := [], service := 0, svcArg := 0, trapArea := 0, switchArea := 0, faultAddr := 0, pfHead := 0,
    pfTail := 0, pfNext := 0, pfRing := [], weight := 1, pairing := 0, pairNext := none, repStep := 0, repDigest := 0,
    repSet := 0, repTimeout := 0, posts := [], held := false }

def Memories.empty : Memories :=
  { home := [], side := [], array := [], host := [], poison := [], l2 := [], stamps := [], msc := [], predictor := [],
    soft := [] }

def Net.empty : Net :=
  { puts := [], status := [], entries := [], spaces := [], markers := [], combs := [], probes := [], flits := [], wire := [], walks := [] }

def Port.fresh : Port :=
  { rxRing := 0, rxSlots := 0, bound := 0, txRing := 0, txCount := 0, doorbell := 0, dropped := 0, pairing := 0, rxNext := 0,
    txSent := 0, notices := [], rate := 0, spare := true, calibrated := true }

/-- A Ranvik port before training; bring-up calibrates it (R363). -/
def RPort.fresh : RPort :=
  { rate := 0, spare := true, calibrated := true, sent := 0, expect := 0, used := [], owed := [] }

def Link.untrained : Link := { gen := 0, width := 0, cxl := 0 }

def RangeEntry.fresh : RangeEntry := { base := 0, limit := 0, ctl := 0, error := false }

/-- The package right after bring-up (R363). -/
def Package.fresh : Package :=
  { power := .active, removePower := false, device := 0, window := 0, bar2 := 39, absent := [], deadStacks := [], ranges := [],
    purgeBase := 0, purgeLen := 0, purgeBusy := false, invals := [], fqHead := 0, fqTail := 0, fqLost := 0, fqRing := [],
    badPages := [], unrecorded := [], softLimit := 8, told := [], msix := [], mailIn := [], mailOut := [], bellIn := 0,
    bellOut := 0, request := false, ports := [], frames := [], ranvik := [], link := .untrained,
    flash := .empty, image := .empty, scrubAt := [], dropped := 0, lanesLost := [], heldWrites := [], hostData := [], mgmtData := [] }

def Subject.none : Subject :=
  { unit := 0, item := 0, value := 0, value2 := 0, data := [], yes := false, finding := .clean,
    boot := { absentCores := [], failedStacks := [] }, mail := .bytes [], flit := .zero }

/-- The machine right after bring-up: no launch, no context set up, no firing, every memory empty (R363). -/
def State.reset : State :=
  { f := .idle 0, firings := [], lcores := [], launches := [], nextLaunch := 0, pcores := [], octaves := [], tasks := [],
    streamers := [], tokenisers := [], detokenisers := [], contexts := [], lastStart := 0, mem := .empty, net := .empty,
    tcache := [], cycle := 0, pkg := .fresh, agenda := [], subject := .none, polled := false }

end Sys2Proof.Machine
end

