-- ==== Sys2Proof/Machine/Memory.lean ====
section
/-! DEFINITION. Memory as a list of (address, byte) pairs in one canonical form: addresses strictly rising, no entry equal to
what an unlisted address reads as, which is zero (log 8, DESIGN CHOICE). -/

namespace Sys2Proof.Machine

open Sys2Proof

/-- The byte at an address. -/
def Mem.get (m : List Host.Cell) (a : Nat) : Byte :=
  match m with
  | [] => 0
  | (k, v) :: r => if k = a then v else Mem.get r a

/-- The cells of `n` addresses from `a` on. -/
def Mem.within (m : List Host.Cell) (a n : Nat) : List Host.Cell := m.filter fun c => decide (a ≤ c.1) && decide (c.1 < a + n)

/-- `n` bytes from an address upward. -/
def Mem.read (m : List Host.Cell) (a n : Nat) : List Byte :=
  let r := Mem.within m a n
  (List.range n).map fun i => Mem.get r (a + i)

/-- The cells of bytes that stand from an address upward; a zero needs none. -/
def Mem.cells (a : Nat) (bs : List Byte) : List Host.Cell :=
  match bs with
  | [] => []
  | b :: r => if b = 0 then Mem.cells (a + 1) r else (a, b) :: Mem.cells (a + 1) r

/-- Writes bytes from an address upward. -/
def Mem.write (m : List Host.Cell) (a : Nat) (bs : List Byte) : List Host.Cell :=
  (m.filter fun c => decide (c.1 < a)) ++ Mem.cells a bs ++ m.filter fun c => decide (a + bs.length ≤ c.1)

/-- Makes `n` addresses read zero. -/
def Mem.clear (m : List Host.Cell) (a n : Nat) : List Host.Cell := m.filter fun c => !(decide (a ≤ c.1) && decide (c.1 < a + n))

/-- Sets the byte at an address. -/
def Mem.set (m : List Host.Cell) (a : Nat) (b : Byte) : List Host.Cell := Mem.write m a [b]

/-- Every address of the list is above `a`. -/
def Mem.above (a : Nat) (m : List Host.Cell) : Bool := m.all fun c => decide (a < c.1)

/-- The canonical form. -/
def Mem.wf (m : List Host.Cell) : Bool :=
  match m with
  | [] => true
  | (k, v) :: r => v != 0 && Mem.above k r && Mem.wf r

/-- The 64-bit word at an address (R2). -/
def Mem.word (m : List Host.Cell) (a : Nat) : Word := leWord (Mem.read m a 8)

/-- All memories are in canonical form. -/
def Memories.wf (m : Memories) : Bool := Mem.wf m.home && Mem.wf m.side && Mem.wf m.array && Mem.wf m.host

end Sys2Proof.Machine
end

