-- ==== Sys2Proof/Machine/Units.lean ====
section
/-! DEFINITION. Reading and writing one unit of the state: firings, logical cores, launches, physical cores, contexts (R23, R24,
R35). A logical core has the key 65536 · (launch key) + index, a firing context 2 · (logical core key) + number. -/

namespace Sys2Proof.Machine

open Sys2Proof

/-- The outcome of a step of this machine. -/
abbrev Outcome := Host.Outcome State Fault Refusal

/-- A launch that is not there. -/
def Launch.none : Launch :=
  { ctx := 0, launchId := 0, paramVA := 0, compVA := 0, gridX := 1, gridY := 1, det := false, replay := false, prio := 0,
    seed := 0, setMask := 0, codeVA := 0, codeLen := 0, regions := false, matrix := false, bound := 1, patches := [],
    place := [], live := 0, ending := .none }

/-- NCORE of a launch (R34). -/
def Launch.ncore (l : Launch) : Nat := l.gridX * l.gridY

def lcKey (launch index : Nat) : Nat := launch * 65536 + index
def firingKey (lc n : Nat) : Nat := 2 * lc + n
def lcOf (fk : Nat) : Nat := fk / 2
def launchOfLc (lk : Nat) : Nat := lk / 65536

/-- The firing in context `k`. -/
def State.firing (s : State) (k : Nat) : Firing :=
  if k = s.f.key then s.f else { Tbl.get (Firing.idle k) s.firings k with key := k }

def State.setFiring (s : State) (k : Nat) (g : Firing) : State :=
  if k = s.f.key then { s with f := g } else { s with firings := Tbl.set s.firings k g }

def State.modFiring (s : State) (k : Nat) (h : Firing → Firing) : State := s.setFiring k (h (s.firing k))

/-- Every firing context that is listed, the issuing one first. -/
def State.allFirings (s : State) : List Firing :=
  s.f :: (s.firings.filter fun e => e.1 ≠ s.f.key).map fun e => { e.2 with key := e.1 }

def State.lc (s : State) (k : Nat) : LCore := Tbl.get .fresh s.lcores k
def State.setLc (s : State) (k : Nat) (c : LCore) : State := { s with lcores := Tbl.set s.lcores k c }
def State.modLc (s : State) (k : Nat) (h : LCore → LCore) : State := s.setLc k (h (s.lc k))

def State.launch (s : State) (k : Nat) : Launch := Tbl.get .none s.launches k
def State.setLaunch (s : State) (k : Nat) (l : Launch) : State := { s with launches := Tbl.set s.launches k l }
def State.modLaunch (s : State) (k : Nat) (h : Launch → Launch) : State := s.setLaunch k (h (s.launch k))

def State.pcore (s : State) (k : Nat) : PCore := Tbl.get .fresh s.pcores k
def State.modPCore (s : State) (k : Nat) (h : PCore → PCore) : State :=
  { s with pcores := Tbl.set s.pcores k (h (s.pcore k)) }

def State.context (s : State) (k : Nat) : Context := Tbl.get .fresh s.contexts k
def State.modContext (s : State) (k : Nat) (h : Context → Context) : State :=
  { s with contexts := Tbl.set s.contexts k (h (s.context k)) }

def State.octave (s : State) (k : Nat) : Octave := Tbl.get .fresh s.octaves k
def State.modOctave (s : State) (k : Nat) (h : Octave → Octave) : State :=
  { s with octaves := Tbl.set s.octaves k (h (s.octave k)) }

def State.streamer (s : State) (k : Nat) : Streamer := Tbl.get .fresh s.streamers k
def State.modStreamer (s : State) (k : Nat) (h : Streamer → Streamer) : State :=
  { s with streamers := Tbl.set s.streamers k (h (s.streamer k)) }

def Context.queue (c : Context) (q : Nat) : LQueue := Tbl.get .fresh c.queues q
def Context.team (c : Context) (t : Nat) : Team := Tbl.get .empty c.teams t
def Context.setTeam (c : Context) (t : Nat) (x : Team) : Context := { c with teams := Tbl.set c.teams t x }

/-- The logical core, launch and context of the issuing firing. -/
def State.myLc (s : State) : Nat := lcOf s.f.key
def State.myLaunch (s : State) : Nat := launchOfLc s.myLc
def State.me (s : State) : LCore := s.lc s.myLc
def State.job (s : State) : Launch := s.launch s.myLaunch
def State.ctxId (s : State) : Nat := s.job.ctx

/-- Number of a firing context within its logical core (STATUS[6], R97). -/
def Firing.number (g : Firing) : Nat := g.key % 2

/-- The die of a physical core (R99). -/
def dieOf (pcore : Nat) : Nat := pcore / 2048
/-- The cluster of a physical core, 0 to 15 over the package. -/
def clusterOf (pcore : Nat) : Nat := pcore / 256
/-- The octave of a physical core (24 octaves of eight cores in a cluster). -/
def octaveOf (pcore : Nat) : Nat := (pcore / 256) * 24 + (pcore % 256) / 8

/-- Bytes of the scratchpad share of a logical core (R34). -/
def LCore.shareSize (c : LCore) : Nat := 131072 / 2 ^ c.hosting

/-- Physical address of a byte of an on-chip window (R155). -/
def windowPA (pcore kind off : Nat) : Nat :=
  0x400000000000 + (pcore / 2048) * 2 ^ 36 + ((pcore / 256) % 8) * 2 ^ 33 + (pcore % 256) * 2 ^ 25 + kind * 2 ^ 21 + off

/-- Physical address of byte `off` of the scratchpad share of a logical core. -/
def LCore.sharePA (c : LCore) (off : Nat) : Nat := windowPA c.pcore 0 (c.share * c.shareSize + off)
/-- Physical address of counter `i` of the counters page of a logical core. -/
def LCore.counterPA (c : LCore) (i : Nat) : Nat := windowPA c.pcore 5 (c.share * 4096 + 8 * i)
/-- Physical address of byte `off` of the accumulators of a core. -/
def LCore.accPA (c : LCore) (off : Nat) : Nat := windowPA c.pcore 1 off

/-- Peer-window address (R153). -/
def peerVA (lcIndex kind off : Nat) : Nat := 0x400000000000 + lcIndex * 2 ^ 24 + kind * 2 ^ 20 + off

/-- The cluster task queue (R257). -/
def State.taskQueue (s : State) (cl : Nat) : List QPip := Tbl.get [] s.tasks cl
def State.setTaskQueue (s : State) (cl : Nat) (l : List QPip) : State := { s with tasks := Tbl.set s.tasks cl l }

/-- The keys of the logical cores of a launch. -/
def State.coresOf (s : State) (launch : Nat) : List Nat :=
  (s.lcores.filter fun e => launchOfLc e.1 = launch).map fun e => e.1

/-- Raises an MSI-X vector (R351). -/
def State.raise (s : State) (vector : Nat) : State := { s with pkg := { s.pkg with msix := s.pkg.msix ++ [vector] } }

/-- The device number of the package (R354). -/
def State.device (s : State) : BitVec 18 := s.pkg.device

end Sys2Proof.Machine
end

