-- ==== Sys2Proof/Machine/Home.lean ====
section
/-! DEFINITION. Physical memory at its homes: L2 slices with their line stamps, memory-side caches, DRAM, poison and
memory-error events (R155 to R163, R204, R344, R345, R347). Which line a full cache gives up is log 4. -/

namespace Sys2Proof.Machine

open Sys2Proof

/-! ## Physical address classes (R155) -/

def isHbm (pa : Nat) : Bool := decide (pa < 0x8000000000)

/-- Die, cluster, core, kind and offset of an address in the window range. -/
def windowCore (pa : Nat) : Nat :=
  let o := pa - 0x400000000000
  o / 2 ^ 36 % 2 * 2048 + o / 2 ^ 33 % 8 * 256 + o / 2 ^ 25 % 256
def windowKind (pa : Nat) : Nat := (pa - 0x400000000000) / 2 ^ 21 % 16
def windowOff (pa : Nat) : Nat := (pa - 0x400000000000) % 2 ^ 21

/-! ## Sizes of the arrays (R11, R156): per core a scratchpad and two accumulators, per octave 64 operand slots of 8 KiB, per slice and per
memory-side cache their sets and ways -/

abbrev scratchpadBytes : Nat := 131072
abbrev accumulatorBytes : Nat := 32768
abbrev operandSlots : Nat := 64
abbrev l2Sets : Nat := 1024
abbrev l2Ways : Nat := 24
abbrev mscSets : Nat := 1024
abbrev mscWays : Nat := 16

/-- Bytes of a window of a physical core by its kind (R153, R155): the windows of hosted logical cores lie side by side (log 13, DEDUCED). -/
def physWindowSize (kind : Nat) : Nat :=
  if kind = 0 then scratchpadBytes else if kind = 1 then accumulatorBytes else if kind = 2 then 65536 else if kind = 3 then 8192
  else if kind = 4 then 2048 else if kind = 5 then 32768 else 0

/-- An address of an on-chip window: cores 0 to 191 of a cluster, kinds 0 to 5, within the window's size (R155). -/
def isWindowPA (pa : Nat) : Bool :=
  decide (0x400000000000 ≤ pa) && decide (pa < 0x402000000000) && decide (windowCore pa % 256 < 192) &&
    decide (windowOff pa < physWindowSize (windowKind pa))
def isDeviceReg (pa : Nat) : Bool := decide (0x7F0000000000 ≤ pa) && decide (pa < 0x800000000000)

/-! ## Homes (R159, R160) -/

/-- Does a valid entry break a limit of R286? -/
def RangeEntry.broken (e : RangeEntry) : Bool :=
  let b := e.base.toNat
  let l := e.limit.toNat
  let j := fld e.ctl 29 24
  let n := fld e.ctl 14 8
  let f := fld e.ctl 6 0
  decide (l ≤ b) || b % 65536 != 0 || l % 65536 != 0 || b / 2 ^ 38 != (l - 1) / 2 ^ 38 || decide (96 < f + n) || decide (j < 6) ||
    decide (30 < j) || decide (n < 1) || decide (96 < n) || decide (95 < f)

/-- An entry that R159 uses: valid set, and every limit of R286 kept. A write at a wrong time, which sets error too (R287), leaves it in use. -/
def RangeEntry.used (e : RangeEntry) : Bool := bit e.ctl.toNat 63 && !e.broken

def RangeEntry.holds (e : RangeEntry) (pa : Nat) : Bool :=
  e.used && decide (e.base.toNat ≤ pa) && decide (pa < e.limit.toNat)

/-- The default hash of R159. -/
def defaultSlice (pa : Nat) : Nat := ((bits pa 21 6 ^^^ bits pa 37 22) * 96) / 65536

/-- The slice named by an address-range entry. -/
def RangeEntry.slice (e : RangeEntry) (pa : Nat) : Nat :=
  fld e.ctl 6 0 + ((pa - e.base.toNat) / 2 ^ fld e.ctl 29 24) % fld e.ctl 14 8

/-- The home slice of an address, 0 to 191: 96 · die + slice. -/
def State.sliceOf (s : State) (pa : Nat) : Nat :=
  (pa / 2 ^ 38) % 2 * 96 +
    (match s.pkg.ranges.find? fun e => e.2.holds pa with
     | some e => e.2.slice pa
     | none => defaultSlice pa)

/-- The home stack of an address, 0 to 7 (R160). -/
def stackOf (pa : Nat) : Nat := (pa / 2 ^ 38) % 2 * 4 + (bits pa 12 11 ^^^ bits pa 30 29)

/-! ## Memory errors (R344, R345) -/

/-- Corrected errors counted for the 64 KiB frame of an address (R347). -/
def State.softCount (s : State) (pa : Nat) : Nat :=
  match (Tbl.get [] s.mem.soft (stackOf pa)).find? fun e => e.1 = pa / 65536 with
  | some e => e.2
  | none => 0

/-- Appends an entry to the fault-address queue, or counts it as lost, and raises vector 1 (R345, R351). -/
def State.faultEntry (s : State) (kind : Nat) (who : Option Nat) (outside : Bool) (pa : Nat) : State :=
  let p := s.pkg
  if p.fqTail - p.fqHead = 256 then { s with pkg := { p with fqLost := p.fqLost + 1 } }
  else
    let w0 := 2 ^ 63 + kind * 2 ^ 60 + (who.getD 0) * 2 ^ 54 + (if outside then 2 ^ 53 else 0) + (pa / 64 * 64) % 2 ^ 48
    let w1 := s.softCount pa * 2 ^ 32
    let q : State :=
      { s with pkg := { p with fqTail := p.fqTail + 1,
                               fqRing := Tbl.set p.fqRing (p.fqTail.toNat % 256) (BitVec.ofNat 64 w0, BitVec.ofNat 64 w1) } }
    q.raise 1

/-- The asynchronous memory-error event of a context; a write that belongs to no context posts none (R344). -/
def State.memError (s : State) (kind : Nat) (who : Option Nat) (pa : Nat) : State :=
  let q := s.faultEntry kind who who.isNone pa
  match who with
  | none => q
  | some c =>
    let q := q.modContext c fun x => { x with events := x.events ||| (1 <<< 253 : BitVec 256) }
    { q with lcores := q.lcores.map fun e =>
        if (q.launch (launchOfLc e.1)).ctx = c then (e.1, { e.2 with wake := true }) else e }

/-- An operand slot has no physical address; an entry about one names the first address beyond HBM, where no memory is (log 19, DESIGN
CHOICE). -/
def slotPA : Nat := 0x8000000000

/-! ## Poison (R163) -/

def State.poisoned (s : State) (pa : Nat) : Bool := s.mem.poison.contains (pa / 64)
def State.setPoison (s : State) (pa : Nat) : State :=
  if s.poisoned pa then s else { s with mem := { s.mem with poison := (pa / 64) :: s.mem.poison } }
def State.clearPoison (s : State) (pa : Nat) : State :=
  { s with mem := { s.mem with poison := s.mem.poison.filter fun g => g ≠ pa / 64 } }

/-! ## The memory-side cache (R161, R162) -/

/-- The 32-byte halves of the 64-byte sectors in a mask. -/
def halvesOf (sectors : BitVec 32) : BitVec 64 :=
  BitVec.ofNat 64 ((List.range 32).foldl (fun a i => if sectors.getLsbD i then a + 3 * 4 ^ i else a) 0)

/-- The sectors that a mask of halves touches. -/
def sectorsOf (halves : BitVec 64) : BitVec 32 :=
  BitVec.ofNat 32 ((List.range 32).foldl
    (fun a i => if halves.getLsbD (2 * i) || halves.getLsbD (2 * i + 1) then a + 2 ^ i else a) 0)

/-- Copies granule `g` (64 bytes) of the memory-side view to the array. -/
def Memories.toArray (m : Memories) (g : Nat) : Memories :=
  { m with array := Mem.write m.array (64 * g) (Mem.read m.side (64 * g) 64) }

/-- Copies granule `g` of the home view to the memory-side view. -/
def Memories.toSide (m : Memories) (g : Nat) : Memories :=
  { m with side := Mem.write m.side (64 * g) (Mem.read m.home (64 * g) 64) }

/-- The 22-bit tag of a line in the footprint predictor (R156): the low bits of its number (log 4, DESIGN CHOICE). -/
def predictorTag (line : Nat) : Nat := line % 4194304

/-- The footprint predictor of a stack after a line left the cache: its mask replaces the entry of its tag, written last. -/
def predict (l : List (Nat × BitVec 32)) (tag : Nat) (used : BitVec 32) : List (Nat × BitVec 32) :=
  let r := l.filter fun e => e.1 ≠ tag
  (if r.length < 4096 then r else r.drop 1) ++ [(tag, used)]

/-- Evicts a line of a memory-side cache (R161): its dirty sectors go to the array, its used mask to the predictor. -/
def State.mscEvict (s : State) (ln : MscLine) : State :=
  let st := stackOf (2048 * ln.line)
  let m := (List.range 32).foldl
    (fun m i => if ln.dirty.getLsbD i then m.toArray (32 * ln.line + i) else m) s.mem
  { s with mem := { m with msc := m.msc.filter fun l => l.line ≠ ln.line,
                           predictor := Tbl.set m.predictor st (predict (Tbl.get [] m.predictor st) (predictorTag ln.line) ln.used) } }

/-- The resident line of a 2 KiB line number. -/
def State.mscLine (s : State) (l : Nat) : Option MscLine := s.mem.msc.find? fun e => e.line = l

/-- Answers a request for the halves `need` of a line: on a miss the predicted sectors are fetched too, and a full set of sixteen lines
gives up its oldest first. A line's set is its number modulo 1,024 (log 4, DESIGN CHOICE). -/
def State.mscRequest (s : State) (l : Nat) (need : BitVec 64) : State :=
  let st := stackOf (2048 * l)
  match s.mscLine l with
  | some e =>
    let e := { e with valid := e.valid ||| need, used := e.used ||| sectorsOf need }
    { s with mem := { s.mem with msc := s.mem.msc.map fun x => if x.line = l then e else x } }
  | none =>
    let mine := s.mem.msc.filter fun e => e.line % mscSets = l % mscSets && stackOf (2048 * e.line) = st
    let s := if mine.length < mscWays then s else (match mine.head? with | some e => s.mscEvict e | none => s)
    let p := ((Tbl.get [] s.mem.predictor st).find? fun e => e.1 = predictorTag l).elim 0 fun e => e.2
    { s with mem := { s.mem with msc := s.mem.msc ++
        [{ line := l, valid := need ||| halvesOf p, used := sectorsOf need, dirty := 0 }] } }

/-- Both halves of the granule of an address, within its 2 KiB line. -/
def granuleHalves (pa : Nat) : BitVec 64 := BitVec.ofNat 64 (3 * 4 ^ ((pa / 64) % 32))

/-- A write of the granule of an address has reached the memory-side cache: its sector is valid, used and dirty. -/
def State.mscDirty (s : State) (pa : Nat) : State :=
  let s := s.mscRequest (pa / 2048) (granuleHalves pa)
  { s with mem := { s.mem with msc := s.mem.msc.map fun x =>
      if x.line = pa / 2048 then { x with dirty := x.dirty ||| BitVec.ofNat 32 (2 ^ ((pa / 64) % 32)) } else x } }

/-- mflush cleans a granule of the memory-side cache to the array (R167). -/
def State.mscClean (s : State) (pa : Nat) : State :=
  let m := s.mem.toArray (pa / 64)
  { s with mem := { m with msc := m.msc.map fun x =>
      if x.line = pa / 2048 then { x with dirty := x.dirty &&& ~~~(BitVec.ofNat 32 (2 ^ ((pa / 64) % 32))) } else x } }

/-! ## L2 lines and stamps (R156, R204); a line is a 64-byte granule -/

def State.l2Line (s : State) (g : Nat) : Option L2Line := s.mem.l2.find? fun e => e.line = g

/-- The next stamp of the slice that holds a granule. -/
def State.newStamp (s : State) (g : Nat) : Word × State :=
  let sl := s.sliceOf (64 * g)
  let v := Tbl.get 0 s.mem.stamps sl + 1
  (v, { s with mem := { s.mem with stamps := Tbl.set s.mem.stamps sl v } })

/-- A dirty line is cleaned to the memory-side cache and stays (R162). -/
def State.l2Clean (s : State) (g : Nat) : State :=
  match s.l2Line g with
  | some e =>
    if e.dirty then
      let s := s.mscDirty (64 * g)
      let m := s.mem.toSide g
      { s with mem := { m with l2 := m.l2.map fun x => if x.line = g then { x with dirty := false } else x } }
    else s
  | none => s

/-- A line leaves its slice, cleaned first. -/
def State.l2Drop (s : State) (g : Nat) : State :=
  let s := s.l2Clean g
  { s with mem := { s.mem with l2 := s.mem.l2.filter fun x => x.line ≠ g } }

/-- The 32-byte sectors of one line that `n` bytes at an address meet. -/
def sectorMask (pa n : Nat) : BitVec 2 :=
  (if pa % 64 < 32 then 1 else 0) ||| (if 32 < pa % 64 + n then 2 else 0)

/-- The halves of a 2 KiB line that the sectors of a line are. -/
def sectorHalves (g : Nat) (need : BitVec 2) : BitVec 64 := need.zeroExtend 64 <<< (2 * (g % 32))

/-- The sectors `need` of a line are resident afterwards. A missing line is filled from the memory-side cache with a fresh stamp, and a
full set of 24 lines gives up its oldest first; a line's set is its number modulo 1,024 (log 4, DESIGN CHOICE). A missing sector of a
resident line is filled without a new stamp (log 4, DEDUCED). -/
def State.l2Fill (s : State) (g : Nat) (need : BitVec 2) : State :=
  match s.l2Line g with
  | some e =>
    if need &&& ~~~e.valid = 0 then s
    else
      let s := s.mscRequest (g / 32) (sectorHalves g (need &&& ~~~e.valid))
      { s with mem := { s.mem with l2 := s.mem.l2.map fun x => if x.line = g then { x with valid := x.valid ||| need } else x } }
  | none =>
    let mine := s.mem.l2.filter fun e => e.line % l2Sets = g % l2Sets && s.sliceOf (64 * e.line) == s.sliceOf (64 * g)
    let s := if mine.length < l2Ways then s else (match mine.head? with | some e => s.l2Drop e.line | none => s)
    let s := s.mscRequest (g / 32) (sectorHalves g need)
    let (v, s) := s.newStamp g
    { s with mem := { s.mem with l2 := s.mem.l2 ++ [{ line := g, valid := need, stamp := v, dirty := false }] } }

/-- The stamp of a line at home, with the sectors `need` filled if need be. -/
def State.lineStamp (s : State) (g : Nat) (need : BitVec 2) : Word × State :=
  let s := s.l2Fill g need
  ((s.l2Line g).elim 0 fun e => e.stamp, s)

/-- Sectors of a line have been written at its home. -/
def State.l2Written (s : State) (g : Nat) (need : BitVec 2) : State :=
  let s := s.l2Fill g need
  let (v, s) := s.newStamp g
  { s with mem := { s.mem with l2 := s.mem.l2.map fun x => if x.line = g then { x with stamp := v, dirty := true } else x } }

/-- Every dirty line is cleaned: a release at system scope has completed (R162, R186). The stores of other harts go with those of the
releasing one; when a dirty line is cleaned is open (R194; log 3, DESIGN CHOICE). -/
def State.cleanAll (s : State) : State := (s.mem.l2.map fun e => e.line).foldl State.l2Clean s

/-! ## Writes and reads at home -/

/-- Bytes written at their home within one 64-byte granule (R162, R163): host memory, an on-chip window or HBM. A write of part
of a poisoned granule loses its bytes and posts the event of its context `who`. -/
def State.writeGranule (s : State) (who : Option Nat) (host : Bool) (pa : Nat) (bs : List Byte) : State :=
  if bs.isEmpty then s
  else if host then { s with mem := { s.mem with host := Mem.write s.mem.host pa bs } }
  else if s.poisoned pa && bs.length < 64 then
    let s := if isHbm pa then s.l2Written (pa / 64) (sectorMask pa bs.length) else s
    s.memError 2 who pa
  else
    let s := if s.poisoned pa then s.clearPoison pa else s
    let s : State := { s with mem := { s.mem with home := Mem.write s.mem.home pa bs } }
    if isHbm pa then s.l2Written (pa / 64) (sectorMask pa bs.length) else s

/-- Cuts bytes at the granule boundaries of their address. -/
def granules (fuel : Nat) (pa : Nat) (bs : List Byte) : List (Nat × List Byte) :=
  match fuel with
  | 0 => []
  | n + 1 =>
    if bs.isEmpty then []
    else
      let k := 64 - pa % 64
      (pa, bs.take k) :: granules n (pa + k) (bs.drop k)

/-- Bytes written at their home, granule by granule in ascending address order. -/
def State.writePhys (s : State) (who : Option Nat) (host : Bool) (pa : Nat) (bs : List Byte) : State :=
  (granules (bs.length + 1) pa bs).foldl (fun s g => s.writeGranule who host g.1 g.2) s

/-- Bytes as their home holds them. -/
def State.readHome (s : State) (host : Bool) (pa n : Nat) : List Byte :=
  Mem.read (if host then s.mem.host else s.mem.home) pa n

/-- The 64-bit word of a counter or table at its home. -/
def State.homeWord (s : State) (pa : Nat) : Word := leWord (s.readHome false pa 8)

/-- The lines of a range of HBM become resident (reads at home). -/
def State.fillRange (s : State) (pa n : Nat) : State :=
  if isHbm pa then (List.range ((pa + n - 1) / 64 + 1 - pa / 64)).foldl
      (fun s i => s.l2Fill (pa / 64 + i) (sectorMask (max pa (64 * (pa / 64 + i))) (min (pa + n) (64 * (pa / 64 + i) + 64) - max pa (64 * (pa / 64 + i))))) s else s

end Sys2Proof.Machine
end

