-- ==== Sys2Proof/Machine/RegRead.lean ====
section
/-! DEFINITION. Reading the device registers (R254, R285 to R290, R302, R307, R314, R338, R339, R341, R345, R349, R351, R354, R356,
R358, R360). What no rule gives is reserved and reads as zero (R3). -/

namespace Sys2Proof.Machine

open Sys2Proof

def flag (b : Bool) (n : Nat) : Nat := if b then 2 ^ n else 0

/-- Word `i` of an event vector (R302). -/
def eventWord (v : BitVec 256) (i : Nat) : Word := v.extractLsb' (64 * i) 64

/-- A context is held while a post of it holds, or Hendeotte holds it (R348, R349). -/
def Context.isHeld (c : Context) : Bool := c.held || c.posts.any fun p => p.holds

/-- Queue control (R254). -/
def LQueue.control (q : LQueue) : Word :=
  BitVec.ofNat 64 (q.size + flag q.stop 8 + flag q.stopped 9 + flag q.overrun 10)

/-- The barrier counter of a team (R307). -/
def Team.counter (t : Team) : Word := BitVec.ofNat 64 (t.gen.toNat * 2 ^ 32 + t.arrived)

/-- The core-presence map word of 64 cores of a cluster, the fourth word reading zero (R285). -/
def State.presence (s : State) (cluster word : Nat) : Word :=
  if 2 < word then 0
  else BitVec.ofNat 64 ((List.range 64).foldl
    (fun a i => if s.pkg.absent.contains (cluster * 256 + 64 * word + i) then a else a + 2 ^ i) 0)

def State.port (s : State) (n : Nat) : Port := Tbl.get .fresh s.pkg.ports n

/-- Where a device register lies: its block, the unit within the block and the byte offset within the unit. -/
inductive RegBlock where
  | windowBase
  | deviceNumber
  | mailIn (word : Nat)
  | mailOut (word : Nat)
  | bellIn
  | bellOut
  | queue (ctx q word : Nat)
  | range (i word : Nat)
  | purge (word : Nat)
  | root (ctx word : Nat)
  | inval (die word : Nat)
  | event (ctx word : Nat)
  | eventSet (ctx word : Nat)
  | eventClear (ctx word : Nat)
  | barrier (ctx team word : Nat)
  | almanac (ctx word : Nat)
  | trap (ctx word : Nat)
  | faultQueue (word : Nat)
  | faultRing (i word : Nat)
  | run (pcore : Nat)
  | pairing (ctx : Nat)
  | port (p word : Nat)
  | weight (ctx : Nat)
  | presence (cluster word : Nat)
  | replica (ctx word : Nat)
  | launchFault (ctx : Nat)
  | pageQueue (ctx word : Nat)
  | pageRing (ctx i word : Nat)
  | plain
deriving DecidableEq, Repr

/-- The register of a physical address, by its offset in the device-register range, which is 2^40 bytes. Where the manual gives no address (the doorbells, the span of a team) log 9 names one (PRESUMED). -/
def regBlock (pa : Nat) : RegBlock :=
  let o := pa % 2 ^ 40
  let within (lo n : Nat) : Bool := decide (lo ≤ o) && decide (o < lo + n)
  let w := o / 8
  if !isDeviceReg pa then .plain
  else if o = 0x100 then .windowBase
  else if o = 0x108 then .deviceNumber
  else if within 0x1000 0x1000 then .mailIn ((o - 0x1000) / 8)
  else if within 0x2000 0x1000 then .mailOut ((o - 0x2000) / 8)
  else if o = 0x3000 then .bellIn
  else if o = 0x3008 then .bellOut
  else if within 0x100000 0x10000 then .queue ((o - 0x100000) / 1024) ((o / 64) % 16) (w % 8)
  else if within 0x200000 0x800 then .range ((o - 0x200000) / 32) (w % 4)
  else if within 0x200800 0x18 then .purge (w % 4)
  else if within 0x300000 0x400 then .root ((o - 0x300000) / 16) (w % 2)
  else if within 0x301000 0x2000 then .inval ((o - 0x301000) / 4096) (w % 512)
  else if within 0x400000 0x800 then .event ((o - 0x400000) / 32) (w % 4)
  else if within 0x410000 0x800 then .eventSet ((o - 0x410000) / 32) (w % 4)
  else if within 0x420000 0x800 then .eventClear ((o - 0x420000) / 32) (w % 4)
  else if within 0x500000 0x100000 then .barrier ((o - 0x500000) / 16384) ((o / 64) % 256) (w % 8)
  else if within 0x600000 0x800 then .almanac ((o - 0x600000) / 32) (w % 4)
  else if within 0x700000 0x800 then .trap ((o - 0x700000) / 32) (w % 4)
  else if within 0x800000 0x18 then .faultQueue (w % 4)
  else if within 0x801000 0x1000 then .faultRing ((o - 0x801000) / 16) (w % 2)
  else if within 0x900000 0x8000 then .run ((o - 0x900000) / 8)
  else if within 0xB00000 0x200 then .pairing ((o - 0xB00000) / 8)
  else if within 0xC00000 0x400 then .port ((o - 0xC00000) / 256) (w % 32)
  else if within 0xD00000 0x200 then .weight ((o - 0xD00000) / 8)
  else if within 0xD10000 0x200 then .presence ((o - 0xD10000) / 32) (w % 4)
  else if within 0xD20000 0x800 then .replica ((o - 0xD20000) / 32) (w % 4)
  else if within 0xD30000 0x200 then .launchFault ((o - 0xD30000) / 8)
  else if within 0x1000000 0x400000 then
    let c := (o - 0x1000000) / 65536
    let q := o % 65536
    if q < 0x20 then .pageQueue c (q / 8)
    else if 0x1000 ≤ q ∧ q < 0x5000 then .pageRing c ((q - 0x1000) / 16) (w % 2)
    else .plain
  else .plain

/-- The 64-bit device register that holds an address. -/
def State.regRead (s : State) (pa : Nat) : Word :=
  let pick (l : List Word) (i : Nat) : Word := l.getD i 0
  let pair (t : Tbl (Word × Word)) (i k : Nat) : Word := let e := Tbl.get (0, 0) t i; if k = 0 then e.1 else e.2
  match regBlock pa with
  | .windowBase => s.pkg.window
  | .deviceNumber => s.device.zeroExtend 64
  | .mailIn w => Tbl.get 0 s.pkg.mailIn w
  | .mailOut w => Tbl.get 0 s.pkg.mailOut w
  | .bellIn => s.pkg.bellIn
  | .bellOut => s.pkg.bellOut
  | .queue c q w =>
    let x := (s.context c).queue q
    pick [x.base, x.control, x.head.zeroExtend 64, x.tail.zeroExtend 64] w
  | .range i w =>
    let e := Tbl.get .fresh s.pkg.ranges i
    pick [e.base, e.limit, (e.ctl &&& ~~~(1 <<< 62 : Word)) ||| BitVec.ofNat 64 (flag e.error 62)] w
  | .purge w => pick [s.pkg.purgeBase, s.pkg.purgeLen, BitVec.ofNat 64 (flag s.pkg.purgeBusy 0)] w
  | .root c w => pick [(s.context c).root] w
  | .inval d w =>
    let e := Tbl.get (0, 0, 0, true) s.pkg.invals d
    pick [BitVec.ofNat 64 e.1, e.2.1, e.2.2.1, BitVec.ofNat 64 (flag e.2.2.2 0)] w
  | .event c w => eventWord (s.context c).events w
  | .eventSet _ _ => 0
  | .eventClear _ _ => 0
  | .barrier c t w => pick [((s.context c).team t).counter, BitVec.ofNat 64 (flag ((s.context c).team t).span 0)] w
  | .almanac c w =>
    let x := s.context c
    pick [x.almBase, x.almCap, x.almIndex, BitVec.ofNat 64 (flag x.almMode 0)] w
  | .trap c w =>
    let x := s.context c
    pick [x.service, x.svcArg, x.trapArea, x.switchArea] w
  | .faultQueue w => pick [s.pkg.fqHead.zeroExtend 64, s.pkg.fqTail.zeroExtend 64, s.pkg.fqLost.zeroExtend 64] w
  | .faultRing i w => pair s.pkg.fqRing i w
  | .run p => BitVec.ofNat 64 (flag (!(s.pcore p).halted) 0)
  | .pairing c => (s.context c).pairNext.getD (s.context c).pairing
  | .port p w =>
    let x := s.port p
    pick [x.rxRing, x.rxSlots, x.bound, x.txRing, x.txCount, x.doorbell, x.dropped, x.pairing] w
  | .weight c => (s.context c).weight.zeroExtend 64
  | .presence c w => s.presence c w
  | .replica c w =>
    let x := s.context c
    pick [x.repStep, x.repDigest, x.repSet, BitVec.ofNat 64 (x.repTimeout.toNat * 2 ^ 32 + flag x.isHeld 0)] w
  | .launchFault c => (s.context c).faultAddr
  | .pageQueue c w =>
    let x := s.context c
    pick [x.pfHead.zeroExtend 64, x.pfTail.zeroExtend 64] w
  | .pageRing c i w => pair (s.context c).pfRing i w
  | .plain => 0

/-- Bytes of the device registers that a driver's translation reaches (R155). -/
def State.regBytes (s : State) (pa n : Nat) : List Byte :=
  sliceBytes ((List.range ((pa % 8 + n + 7) / 8)).flatMap fun i => leBytes 8 (s.regRead (pa / 8 * 8 + 8 * i)).toNat) (pa % 8) n

/-- The word of a counter where it lies: at home, or in a device register that a driver's page shows. R294 puts a counter at a home slice or on a
counters page, and what one on a register page does is open: an increment reads and writes the register, and a wait or trigger looks at it (log 11,
DESIGN CHOICE). -/
def State.counterWord (s : State) (pa : Nat) : Word := if isDeviceReg pa then s.regRead pa else s.homeWord pa

end Sys2Proof.Machine
end

