-- ==== Sys2Proof/Machine/Wake.lean ====
section
/-! DEFINITION. What a change of state brings about at once: waiting firings whose condition now holds become runnable, counters at
their threshold fire triggers, actors whose counts suffice become ready, barrier generations complete (R26, R27, R267,
R299, R300, R308, R309). -/

namespace Sys2Proof.Machine

open Sys2Proof

/-! ## Slots and runnable firings -/

/-- A slot that holds the firing in context `fk` is given up; the context stays resident unless `gone`. -/
def Slot.release (sl : Slot) (fk : Nat) (gone : Bool) : Slot :=
  if sl.resident = some fk then { resident := if gone then none else some fk, busy := false } else sl

def State.freeSlot (s : State) (fk : Nat) (gone : Bool) : State :=
  (s.modFiring fk fun g => { g with slot := none }).modPCore (s.lc (lcOf fk)).pcore fun p =>
    { p with slot0 := p.slot0.release fk gone, slot1 := p.slot1.release fk gone }

/-- A waiting firing becomes runnable, last in the order of its logical core (R27). Only here, and where a wait begins, is its count of
cycles without a change of its condition 0 again: a counter that rises and a member that arrives without ending the wait are no such
change (R47; log 17, DESIGN CHOICE). -/
def State.runnable (s : State) (fk : Nat) (w : Wait) : State :=
  let s := s.modFiring fk fun g => { g with wait := w, st := .runnable, waited := 0, probes := 0 }
  s.modLc (lcOf fk) fun c => { c with resume := c.resume ++ [fk % 2] }

/-! ## Conditions of waits -/

def LCore.tile (c : LCore) (t : Nat) : Tile := Tbl.get .undefined c.tiles t
def LCore.setTile (c : LCore) (t : Nat) (x : Tile) : LCore := { c with tiles := Tbl.set c.tiles t x }

def Tile.isDefined (t : Tile) : Bool := t.kind != 0
def Tile.isSlot (t : Tile) : Bool := t.kind == 2
def Tile.isReady (t : Tile) : Bool := t.isDefined && t.state == 2

/-- A tile that tclr or orelease makes undefined: its phase stands (R276), and so does its use count, for the commands that name it are
still there (R274). -/
def Tile.clear (t : Tile) : Tile := { Tile.undefined with phase := t.phase, uses := t.uses }

/-- tset and tclr take their tile at once: an empty one whatever its use count, as R276's row of that state has it (log 15, DEDUCED: R231 has them
wait for use count 0). -/
def Tile.free (t : Tile) : Bool := !t.isDefined || t.state == 0 || (t.state == 2 && t.uses == 0)

/-- The commands of a logical core that are queued or running, wherever they are held. -/
def State.commandsOf (s : State) (lk : Nat) : List Cmd :=
  let c := s.lc lk
  let onStreamers := s.streamers.flatMap fun e =>
    ((e.2.queues.flatMap fun q => q) ++ e.2.running).filterMap fun r => if r.1 = lk then some r.2 else none
  c.matq ++ c.copyq ++ onStreamers

/-- Does a command name tile `t` as a source? -/
def Work.reads (w : Work) (t : Nat) : Bool :=
  match w with
  | .ofill _ tb _ _ _ => tb == t
  | .mma ta tb _ _ _ => ta == t || tb == t
  | .cpy (.tile x _) _ _ _ _ _ => x == t
  | .halo ta _ _ _ _ _ _ => ta == t
  | _ => false

/-- The tiles that a command names, once each (R231). -/
def Work.tiles (w : Work) : List Nat :=
  let src := match w with
    | .ofill ta tb _ _ _ => [ta, tb]
    | .mma ta tb _ _ _ => [ta, tb]
    | .adrain ta _ _ => [ta]
    | .cpy a b _ _ _ _ => (match a with | .tile x _ => [x] | _ => []) ++ (match b with | .tile x _ => [x] | _ => [])
    | .cpyt _ _ b _ _ _ => (match b with | .tile x _ => [x] | _ => [])
    | .halo ta _ _ _ _ _ _ => [ta]
    | _ => []
  src.eraseDups

/-- A fill issued in order `ord` may take its tile: no earlier command still reads it (R231). -/
def State.fillFree (s : State) (lk t ord : Nat) : Bool :=
  let x := (s.lc lk).tile t
  if x.state = 3 then false
  else if x.state = 2 then !((s.commandsOf lk).any fun k => k.work.reads t && decide (k.order < ord))
  else true

/-- Is an item a pip bound for a logical core? -/
def Out.pipTo (o : Out) (lk : Nat) : Bool := match o with | .pip _ (some k) _ => k == lk | _ => false

/-- Is a pip on its way to a logical core, in an outbound buffer or waiting for a place in one? It is queued from its spawn (R24, R40). -/
def State.pipBound (s : State) (lk : Nat) : Bool :=
  (s.lcores.any fun e => e.2.outbound.any (fun o => o.what.pipTo lk) || e.2.joins.any fun o => o.pipTo lk) ||
  s.allFirings.any fun g => g.st != .free && (match g.wait with | .item o => o.pipTo lk | .metItem o => o.pipTo lk | _ => false)

/-- The frontier of a logical core of a deterministic launch (R216); none is infinity. -/
def State.frontier (s : State) (lk : Nat) : Option (Nat × Nat) :=
  let c := s.lc lk
  let gs := [s.firing (firingKey lk 0), s.firing (firingKey lk 1)].filter fun g => g.st != .free
  match gs.find? fun g => g.region.isOpen || fld g.regstat 2 0 == 2 with
  | some g => some (g.regseq.toNat, c.index)
  | none =>
    if c.retired then none
    else
      if gs.isEmpty && c.pinned.isEmpty && c.arrivals.isEmpty && c.fired.isEmpty && !(c.heldMsgs.any fun m => m.2.isSome) &&
          !(c.actors.any fun a => a.2.ready) && !s.pipBound lk then none
      else some (c.regionCtr.toNat + 1, c.index)

/-- Every other logical core's frontier exceeds the key of this one's region (R216). -/
def State.commitTurn (s : State) (lk : Nat) (regseq : Nat) : Bool :=
  let me := (s.lc lk).index
  (s.coresOf (launchOfLc lk)).all fun k =>
    k == lk ||
      (match s.frontier k with
       | none => true
       | some (q, i) => decide (regseq < q) || (regseq == q && decide (me < i)))

/-- Arrivals in the park, those of windows still open among them. -/
def LCore.parkCount (c : LCore) : Nat := c.park.length + (c.heldMsgs.filter fun m => m.2.isNone).length

/-- Is an item a message that was issued before the send ticket stood at `n`, counted modulo 2^32? -/
def Out.sentBefore (o : Out) (n : BitVec 32) : Bool :=
  let before (m : Msg) : Bool := decide (0 < (n - m.ticket).toNat) && decide ((n - m.ticket).toNat < 2 ^ 31)
  match o with
  | .pip _ _ _ => false
  | .msg m => before m
  | .far m _ => before m

/-- Does a firing hold such a message, which waits for an outbound item (R257, R264)? -/
def Firing.waitsToSend (g : Firing) (n : BitVec 32) : Bool :=
  g.st != .free && (match g.wait with | .item o => o.sentBefore n | .metItem o => o.sentBefore n | _ => false)

/-- A yielded firing that competes in class 4, and no pip. -/
def QPip.isYielded (q : QPip) : Bool := match q.source with | .yielded _ => true | _ => false

/-- Is a slot of the octave of a core free? -/
def Octave.freeSlot (o : Octave) : Option Nat :=
  (List.range operandSlots).find? fun i => ((Tbl.find o.slots i).bind fun x => x.owner).isNone

/-- Is the resource there for which an instruction waits? A vsample whose tile was cleared meanwhile waits until it is defined and ready again (log
15, DESIGN CHOICE). -/
def State.needHolds (s : State) (g : Firing) (n : Need) : Bool :=
  let lk := lcOf g.key
  let c := s.lc lk
  match n with
  | .matrixQueue => decide (c.matq.length < 2)
  | .copyQueue => decide (c.copyq.length < 2)
  | .slot =>
    let o := s.octave (octaveOf c.pcore)
    o.claims.head? == some g.key && o.freeSlot.isSome
  | .tileFree t => (c.tile t).free
  | .tileFill t ord => s.fillFree lk t ord
  | .tileUnused t => !(c.tile t).isDefined || ((c.tile t).uses == 0 && (c.tile t).state != 1)
  | .tileReady t => (c.tile t).isReady
  | .channelSpace e =>
    (match Tbl.find c.ends e with
     | some x => decide (x.moved - x.freed < 2 ^ x.logCap)
     | none => true)
  | .wake => c.wake
  | .commitOrder => s.commitTurn lk g.regseq.toNat
  | .sendsAccepted n => !(c.outbound.any fun o => o.what.sentBefore n) && !((s.firing (firingKey lk (1 - g.key % 2))).waitsToSend n)

/-- The count of a counter word (R294). -/
def countOf (w : Word) : Nat := w.toNat % 2 ^ 63

/-- What a wait turns into when its condition holds. One for a resource is tried again as the firing resumes, so that a vsample whose tile has left
ready by then waits again (log 15, DESIGN CHOICE); the others stay met. -/
def State.waitOver (s : State) (g : Firing) : Option Wait :=
  match g.wait with
  | .need (.tileFill t ord) => if s.fillFree (lcOf g.key) t ord then some (.met (BitVec.ofNat 64 ord) 0) else none
  | .need (.sendsAccepted n) => if s.needHolds g (.sendsAccepted n) then some (.met 0 0) else none
  | .need n => if s.needHolds g n then some .none else none
  | .counter pa va target dst =>
    let w := if s.poisoned pa then 0 else s.counterWord pa
    if countOf target ≤ countOf w then
      (if w.getLsbD 63 && !target.getLsbD 63 then some (.metPoison va) else some (.met w dst))
    else none
  | .tile t ph =>
    let x := (s.lc (lcOf g.key)).tile t
    if x.isReady && (ph.isNone || ph == some x.phase) then
      (if x.poison then some (.metPoison 0) else some (.met 0 0))
    else none
  | .item o => if (s.lc (lcOf g.key)).outbound.length < 8 then some (.metItem o) else none
  | .event i m =>
    let v := eventWord (s.context (s.launch (launchOfLc (lcOf g.key))).ctx).events i
    if v &&& m = m then some (.met 0 0) else none
  | _ => none

/-- Waiting firings whose condition holds become runnable: of those whose conditions one step brings about, the issuing firing first and the
others in the order of the table (log 17, DESIGN CHOICE: R27 orders by the moment at which a condition came to hold). -/
def State.settleWaits (s : State) : State :=
  s.allFirings.foldl (fun s g =>
    if g.st = .waiting then (match s.waitOver g with | some w => s.runnable g.key w | none => s) else s) s

/-! ## Pips -/

def Pip.prio (p : Pip) : Nat := fld p.w0 63 62
def Pip.isPinned (p : Pip) : Bool := p.w0.getLsbD 61
def Pip.hasJoin (p : Pip) : Bool := p.w0.getLsbD 60
def Pip.code (p : Pip) : Nat := fld p.w0 47 0
def Pip.target (p : Pip) : Nat := fld p.w3 63 48
def Pip.cell (p : Pip) : Nat := fld p.w3 47 0

def QPip.make (p : Pip) (src : Source) (launch : Nat) : QPip :=
  { pip := p, source := src, launch := launch, prio := p.prio, pass := 0, age := 0 }

def State.addLive (s : State) (launch : Nat) (n : Nat) : State := s.modLaunch launch fun l => { l with live := l.live + n }

/-! ## Triggers and actors -/

/-- A trigger put before those of a list that have a greater threshold. -/
def insertTrigger (t : Trigger) : List Trigger → List Trigger
  | [] => [t]
  | u :: r => if countOf t.threshold < countOf u.threshold then t :: u :: r else u :: insertTrigger t r

/-- The armed triggers of a logical core whose counters reached their thresholds fire in the order in which they were reached (R31, R300); of those
that one write brings to their thresholds, the lower threshold first (log 17, DESIGN CHOICE). -/
def State.fireTriggers (s : State) (lk : Nat) : State :=
  let c := s.lc lk
  let hit (t : Trigger) : Bool := decide (countOf t.threshold ≤ countOf (s.counterWord t.pa))
  let go := (c.trigs.filter hit).foldl (fun l t => insertTrigger t l) []
  if go.isEmpty then s
  else
    let c := { c with trigs := c.trigs.filter fun t => !hit t,
                      fired := c.fired ++ go.map (fun t => QPip.make t.pip .trigger (launchOfLc lk)), wake := true }
    (s.setLc lk c).addLive (launchOfLc lk) go.length

def State.settleTriggers (s : State) : State := (s.lcores.map fun e => e.1).foldl State.fireTriggers s

/-- An actor's channel counts suffice (R267). -/
def LCore.actorCounts (c : LCore) (a : Actor) : Bool :=
  a.specs.all fun sp =>
    match Tbl.find c.ends sp.2.1 with
    | some e => if sp.1 then decide (sp.2.2 + (e.moved - e.freed) ≤ 2 ^ e.logCap) else decide (sp.2.2 ≤ e.moved - e.freed)
    | none => false

/-- Actors of a logical core that become ready enter the live count and set the wake bit (R24, R267, R341). One whose counts fall again before its
dispatch stays ready and is dispatched (log 17, DESIGN CHOICE). -/
def State.readyActors (s : State) (lk : Nat) : State :=
  let c := s.lc lk
  let new (a : Actor) : Bool := !a.ready && !a.alive && c.actorCounts a
  let n := (c.actors.filter fun e => new e.2).length
  if n = 0 then s
  else
    let c := { c with actors := c.actors.map (fun e => if new e.2 then (e.1, { e.2 with ready := true, age := 0 }) else e),
                      wake := true }
    (s.setLc lk c).addLive (launchOfLc lk) n

def State.settleActors (s : State) : State :=
  (s.lcores.map fun e => e.1).foldl (fun s k => if (s.launch (launchOfLc k)).ending.isNone then s.readyActors k else s) s

/-- Everything that a change of counters, tiles, events or queues brings about. -/
def State.settle (s : State) : State := s.settleActors.settleTriggers.settleWaits

/-! ## Teams (R307 to R309) -/

def Team.awaitedCount (t : Team) : Nat := (t.members.filter fun m => m.awaited).length
/-- The member at a position `(x + dx, y + dy)` from a member, coordinates wrapping where the grid is periodic (R308). -/
def Team.neighbour (t : Team) (m : Member) (dx dy : Int) : Option Member :=
  match t.grid with
  | none => none
  | some (gx, gy, px, py) =>
    let x : Int := if px then (m.x + dx) % gx else m.x + dx
    let y : Int := if py then (m.y + dy) % gy else m.y + dy
    if 0 ≤ x ∧ x < gx ∧ 0 ≤ y ∧ y < gy then t.members.find? fun k => (k.x : Int) == x && (k.y : Int) == y else none

/-- The neighbours of a logical core, north, south, west and east, each with the side from which its strip comes: 1 south, 0 north, 3
east, 2 west (R248). -/
def Team.receivers (t : Team) (m : Member) : List (Member × Nat) :=
  [(0, -1, 1), (0, 1, 0), (-1, 0, 3), (1, 0, 2)].filterMap fun (d : Int × Int × Nat) =>
    (t.neighbour m d.1 d.2.1).map fun k => (k, d.2.2)

def Team.member (t : Team) (lk : Nat) : Option Member := t.members.find? fun m => m.lc = lk

/-- The firings of a context that wait in a generation of a team retire it. -/
def State.releaseBarrier (s : State) (ctx team : Nat) : State :=
  s.allFirings.foldl (fun s g =>
    match g.wait with
    | .barrier t _ =>
      if g.st = .waiting && t == team && (s.launch (launchOfLc (lcOf g.key))).ctx == ctx then s.runnable g.key (.met 0 0) else s
    | _ => s) s

/-- The open generation completes: it rises by one, no member has arrived, and every member is awaited (R308, R309). -/
def State.completeGeneration (s : State) (ctx team : Nat) : State :=
  let t := (s.context ctx).team team
  let t := { t with gen := t.gen + 1, arrived := 0, sent := false, far := t.far.erase s.device, rounds := t.rounds + (if t.span then 1 else 0),
                    members := t.members.map fun m => { m with awaited := true, arrived := false } }
  (s.modContext ctx fun c => c.setTeam team t).releaseBarrier ctx team

/-- The pairing tag of a context (R356). -/
def Context.tag (c : Context) : Option (BitVec 32) :=
  if c.pairing.getLsbD 63 then some (c.pairing.extractLsb' 0 32) else none

/-- A pairing value takes effect: the releases that the context's teams have seen are counted anew (R47, R356). -/
def Context.pair (c : Context) (v : Word) : Context :=
  { c with pairing := v, pairNext := none, teams := Tbl.mapVals (fun _ t => { t with rounds := 0 }) c.teams }

/-- The context whose pairing register holds a tag, with a live launch of it (R356). -/
def State.paired (s : State) (tag : BitVec 32) : Option (Nat × Nat) :=
  (s.launches.find? fun e => (s.context e.2.ctx).tag == some tag && e.2.ending.isNone).map fun e => (e.2.ctx, e.1)

/-- The root device of the group of a device, the root of its pod, and a group root of its pod (R354, R355). -/
def groupRoot (d : BitVec 18) : BitVec 18 := d &&& 0x3FFE0
def podRoot (d : BitVec 18) : BitVec 18 := d &&& 0x3F800
def podGroupRoot (d : BitVec 18) (g : Nat) : BitVec 18 := podRoot d ||| BitVec.ofNat 18 (32 * g)

/-- A flit of this device; its number, credits and CRC are set when a port sends it (R353). -/
def State.flit (s : State) (kind vc : Nat) (dst : BitVec 18) (p : RanvikPacket) : Flit :=
  { kind := BitVec.ofNat 4 kind, vc := BitVec.ofNat 2 vc, credit := 0, src := s.device, dst := dst, number := 0, packet := p, crc := 0 }

/-- The other devices of the group of a device, and the other group roots of its pod. -/
def groupOthers (d : BitVec 18) : List (BitVec 18) :=
  ((List.range 32).map fun i => groupRoot d ||| BitVec.ofNat 18 i).filter fun x => x != d
def podOthers (d : BitVec 18) : List (BitVec 18) := ((List.range 64).map (podGroupRoot d)).filter fun x => x != d

/-- The group of a device: its pod and its group within the pod (R354). -/
def groupOf (d : BitVec 18) : BitVec 13 := d.extractLsb' 5 13

/-- Ports 0 to 30 join a device to the other members of its group: port i to the i-th of them, in ascending order of number (log 20, DESIGN
CHOICE). -/
def localPort (d m : BitVec 18) : Nat := if m.toNat % 32 < d.toNat % 32 then m.toNat % 32 else m.toNat % 32 - 1

/-- Ports 31 to 35 are the global links; those of a device whose groups pass a test. -/
def globalPorts (d : BitVec 18) (test : BitVec 13 → Bool) : List Nat := [31, 32, 33, 34, 35].filter fun p => test (Config.cabling d p)

/-- The ports by which a flit may leave a device for another (R354): inside its destination's group, straight to it; in another group than its
source's, on to the destination's group, by a link of this device or else of another member; in its source's group, the same, or through one
intermediate group; a flit that a member took over in the source's group leaves the group there. The direct ways come first. -/
def flitPorts (d src dst : BitVec 18) : List Nat :=
  let home (g : BitVec 13) : Bool := g == groupOf dst
  let between (g : BitVec 13) : Bool := g != groupOf dst && g != groupOf d
  let direct := globalPorts d home
  let through (test : BitVec 13 → Bool) : List Nat := ((groupOthers d).filter fun m => !(globalPorts m test).isEmpty).map (localPort d)
  if groupOf d = groupOf dst then [localPort d dst]
  else if groupOf d ≠ groupOf src then (if direct.isEmpty then through home else direct)
  else if d ≠ src then direct ++ globalPorts d between
  else (if direct.isEmpty then through home else direct) ++ globalPorts d between ++ through between

/-- The port that a flit takes at first; a cabling plan that gives none leaves it at port 31 (log 20, DESIGN CHOICE). -/
def portToward (d : BitVec 18) (f : Flit) : Nat := (flitPorts d f.src f.dst).headD 31

/-- The packets that merge in a port unit (R355). -/
def packetMerges (p : RanvikPacket) : Bool :=
  match p with
  | .combine .. => true
  | .barrierArrival .. => true
  | _ => false

/-- A flit waits in the unit of a port; it has a combining entry if it is of a kind that merges and one of the 64 is free (R355). -/
def State.enterPort (s : State) (port : Nat) (f : Flit) : State :=
  let taken := (s.net.flits.filter fun x => x.port = port && x.entry).length
  { s with net := { s.net with flits := s.net.flits ++ [{ port := port, flit := f, entry := packetMerges f.packet && decide (taken < 64) }] } }

def State.emit (s : State) (fs : List Flit) : State := fs.foldl (fun s f => s.enterPort (portToward s.device f) f) s

/-- The release of a span-1 generation at a device: a pod root passes it to the group roots, a group root to its group, and the
generation of the device completes (R310), unless its last member has left since the device's arrival (R308). -/
def State.spanRelease (s : State) (ctx team : Nat) (tag : BitVec 32) : State :=
  let d := s.device
  let to_ := (if podRoot d = d then podOthers d else []) ++ (if groupRoot d = d then groupOthers d else [])
  let s := s.emit (to_.map fun o => s.flit 3 2 o (.barrierRelease tag team))
  let t := (s.context ctx).team team
  if t.sent then s.completeGeneration ctx team
  else s.modContext ctx fun c => c.setTeam team { t with far := t.far.erase d, rounds := t.rounds + 1 }

/-- The arrivals that a root has met and that a stage needs are used up, one of each. -/
def Team.useUp (t : Team) (l : List (BitVec 18)) : Team := { t with far := l.foldl List.erase t.far }

/-- The group and global stages of a span-1 barrier at a group root (R310, R355): when every device of the group has arrived, the root
reports to the pod root, its own number in `far` marking that it did; the pod root releases when every group root has reported. -/
def State.spanStage (s : State) (ctx team : Nat) (tag : BitVec 32) : State :=
  let d := s.device
  let t := (s.context ctx).team team
  if !t.sent then s
  else if podRoot d = d then
    let need := groupOthers d ++ podOthers d
    if need.all fun o => t.far.contains o then
      (s.modContext ctx fun c => c.setTeam team (t.useUp need)).spanRelease ctx team tag
    else s
  else if !t.far.contains d && (groupOthers d).all (fun o => t.far.contains o) then
    (s.modContext ctx fun c => c.setTeam team { t.useUp (groupOthers d) with far := d :: (t.useUp (groupOthers d)).far }).emit
      [s.flit 3 2 (podRoot d) (.barrierArrival tag team [d])]
  else s

/-- A generation in which every awaited member has arrived: a span-0 team completes, a span-1 team reports its device's arrival
to its group root, once (R309, R310). A team of a context without a valid pairing tag reaches no other device (R356). -/
def State.checkBarrier (s : State) (ctx team : Nat) : State :=
  let t := (s.context ctx).team team
  if t.arrived = t.awaitedCount then
    if t.span then
      match (s.context ctx).tag with
      | none => s
      | some tag =>
        if t.sent then s
        else
          let s := s.modContext ctx fun c => c.setTeam team { t with sent := true }
          if groupRoot s.device = s.device then s.spanStage ctx team tag
          else s.emit [s.flit 3 2 (groupRoot s.device) (.barrierArrival tag team [s.device])]
    else s.completeGeneration ctx team
  else s

/-- A logical core leaves a team (R308): the last one empties it; otherwise its arrival is withdrawn and the generation may
complete. -/
def State.leaveTeam (s : State) (ctx team lk : Nat) : State :=
  let t := (s.context ctx).team team
  match t.member lk with
  | none => s
  | some m =>
    let t := { t with members := t.members.filter fun x => x.lc ≠ lk, arrived := if m.arrived then t.arrived - 1 else t.arrived }
    if t.members.isEmpty then
      let e := { Team.empty with span := t.span, far := t.far, rounds := t.rounds }
      (s.modContext ctx fun c => c.setTeam team e).releaseBarrier ctx team
    else (s.modContext ctx fun c => c.setTeam team t).checkBarrier ctx team

end Sys2Proof.Machine
end

