-- ==== Sys2Proof/Machine/Records.lean ====
section
/-! DEFINITION. Layouts in which state is shown as bytes, and the windows that show it: the system registers, the save record of a firing context (R97, R140, R226,
R340), tile-table words (R274) and the mailbox status window (R261). -/

namespace Sys2Proof.Machine

open Sys2Proof

/-! ## Registers of a firing -/

/-- STATUS (R97). -/
def State.statusOf (s : State) (g : Firing) : Word :=
  let l := s.launch (launchOfLc (lcOf g.key))
  BitVec.ofNat 64 (g.prio.toNat * 128 + g.number * 64 + flag g.pinned 5 + flag l.replay 4 + flag l.det 3 +
    flag g.region.isOpen 2 + flag g.service 0)

/-- PSTATE (R140). -/
def Poly.state (p : Poly) : Word :=
  BitVec.ofNat 64 (p.scale.toNat * 2 ^ 32 + flag p.nonfinite 10 + flag p.inexact 9 + flag p.truncated 8 + p.degree.toNat)

/-- A polynomial as the accumulator can hold one: no coefficient above its degree, and +0 for −0 (R138). -/
def Poly.canon (p : Poly) : Poly :=
  { p with coeff := Vector.ofFn fun i : Fin 64 =>
      if p.degree.toNat < i.1 || p.coeff[i] == 0x80000000#32 then 0 else p.coeff[i] }

/-- The polynomial accumulator from PSTATE and coefficients. -/
def Poly.ofState (w : Word) (coeff : Vector (BitVec 32) 64) : Poly :=
  Poly.canon { coeff := coeff, degree := w.extractLsb' 0 6, scale := w.extractLsb' 32 32, truncated := w.getLsbD 8,
               inexact := w.getLsbD 9, nonfinite := w.getLsbD 10 }

/-- GSTAT with its overflow copies (R226). -/
def State.gstatOf (s : State) (g : Firing) : Word :=
  let c := s.lc (lcOf g.key)
  BitVec.ofNat 64 (g.gstat.toNat + flag c.ovf0 24 + flag c.ovf1 25)

/-! ## The save record (R340) -/

def Guard.code : Guard → Nat
  | .isTrue => 0
  | .isFalse => 1
  | .unresolved => 2

def Guard.ofCode (n : Nat) : Guard := if n = 0 then .isTrue else if n = 1 then .isFalse else .unresolved

/-- g1 to g7 in bits [2N+1:2N]. -/
def guardBits (v : Vector Guard 8) : Nat :=
  (List.range 7).foldl (fun a i => a + (v.toList.getD (i + 1) .isTrue).code * 4 ^ (i + 1)) 0

/-- The 20,480 bytes of a save record, with the pc field given. -/
def State.record (s : State) (g : Firing) (pc : Word) : List Byte :=
  let word (w : Word) := leBytes 8 w.toNat
  (g.regs.toList.flatMap word) ++
  ([pc, s.statusOf g, g.cause.zeroExtend 64, g.epc.zeroExtend 64, g.faddr, g.flags.zeroExtend 64, g.round.zeroExtend 64,
    g.yleft.zeroExtend 64, g.drawc, g.regseq, g.regstat, s.gstatOf g, g.poly.state].flatMap word) ++
  leBytes 8 (guardBits g.guards) ++ List.replicate 400 0 ++
  (g.poly.coeff.toList.flatMap fun c => leBytes 4 c.toNat) ++ List.replicate 768 0 ++
  (g.kregs.toList.flatMap fun k => leBytes 64 k.toNat) ++ List.replicate 1024 0 ++
  (g.vregs.toList.flatMap fun v => leBytes 512 v.toNat)

/-- The firing context that a save record holds: every field of R340 is taken from the bytes, the identity, region storage and
scheduling state from `g`; reserved bits are ignored, the polynomial keeps its form, and s0 and k0 read as always. A record whose ROUND field is
6 or 7 leaves the ROUND that was held (log 21, DESIGN CHOICE: R96 speaks of srw alone). -/
def Firing.ofRecord (g : Firing) (b : List Byte) : Firing :=
  let w (off : Nat) : Word := recWord b off
  let st := w 0x208
  { g with
    regs := Vector.ofFn fun i : Fin 64 => if i.1 = 0 then 0 else w (8 * i.1),
    pc := w 0x200, cause := (w 0x210).truncate 20 &&& 0xFFF3F, epc := (w 0x218).truncate 48, faddr := w 0x220,
    flags := (w 0x228).truncate 5, round := (if (w 0x230).toNat % 8 < 6 then (w 0x230).truncate 3 else g.round), yleft := (w 0x238).truncate 21, drawc := w 0x240,
    regseq := w 0x248, regstat := w 0x250 &&& ~~~(0xFFF0 : Word), gstat := (w 0x258).truncate 24 &&& 0xFF00FE,
    prio := st.extractLsb' 7 2, pinned := st.getLsbD 5, service := st.getLsbD 0,
    guards := Vector.ofFn fun i : Fin 8 =>
      if i.1 = 0 then .isTrue else Guard.ofCode ((w 0x268).toNat / 4 ^ i.1 % 4),
    poly := Poly.ofState (w 0x260) (Vector.ofFn fun i : Fin 64 => BitVec.ofNat 32 (recNat b (0x400 + 4 * i.1) 4)),
    kregs := Vector.ofFn fun i : Fin 16 =>
      if i.1 = 0 then BitVec.allOnes 512 else BitVec.ofNat 512 (recNat b (0x800 + 64 * i.1) 64),
    vregs := Vector.ofFn fun i : Fin 32 => BitVec.ofNat 4096 (recNat b (0x1000 + 512 * i.1) 512) }

/-! ## The tile table (R274) -/

def Tile.word0 (t : Tile) : Word :=
  if t.kind = 0 then 0
  else BitVec.ofNat 64 (t.expected * 2 ^ 40 + t.arrived * 2 ^ 16 + t.fmt * 2 ^ 11 + flag t.scaled 10 + flag t.discard 9 +
    flag t.poison 8 + flag t.phase 7 + t.state * 32 + t.kind * 8)

def Tile.word1 (t : Tile) : Word :=
  if t.kind = 0 then 0
  else BitVec.ofNat 64 (t.uses * 2 ^ 48 + t.k * 2 ^ 39 + t.size * 2 ^ 18 + t.base)

/-- The tile-table window (kind 3). -/
def LCore.tileBytes (c : LCore) : List Byte :=
  (List.range 64).flatMap fun i => leBytes 8 (c.tile i).word0.toNat ++ leBytes 8 (c.tile i).word1.toNat

/-! ## The mailbox status window (R261) -/

/-- The class of a tag. -/
def tagClass (t : Byte) : Nat := t.toNat / 64

def LCore.classCount (c : LCore) (k : Nat) : Nat := (c.mbox.filter fun e => tagClass e.2.tag = k).length
def LCore.depth (c : LCore) (k : Nat) : Nat := c.depths.getD k 16

/-- What the mailbox status window shows of a logical core. -/
def LCore.statusBytes (c : LCore) : List Byte :=
  let one (n : Nat) : List Byte := leBytes 1 n
  ((List.range 4).flatMap fun k => one (c.classCount k)) ++ ((List.range 4).flatMap fun k => one (c.depth k)) ++
  one c.parkCount ++ one c.mbox.length ++ List.replicate 6 0 ++
  leBytes 32 (c.binds.foldl (fun a e => a + 2 ^ e.1) 0) ++
  leBytes 8 c.accepted.toNat ++ leBytes 8 c.refused.toNat ++ List.replicate 192 0

/-! ## What the windows of a core show (R155, R340) -/

/-- The logical core with share `i` of a physical core. -/
def State.sharer (s : State) (pcore i : Nat) : Option Nat :=
  (s.lcores.find? fun e => e.2.pcore = pcore && e.2.share = i).map fun e => e.1

/-- The context that place `i` of the kind 2 window shows (R340): the one with number `i` of the contexts resident in the two slots, or
with slots that hold contexts of one number, of two logical cores, that of slot `i` (log 21, DEDUCED). -/
def PCore.shown (p : PCore) (i : Nat) : Option Nat :=
  let same := (p.slot0.resident.map fun k => k % 2) == (p.slot1.resident.map fun k => k % 2)
  if same then (if i = 0 then p.slot0.resident else p.slot1.resident)
  else ([p.slot0.resident, p.slot1.resident].filterMap id).find? fun k => k % 2 = i

/-- Bytes of the kind 2 window of a core; a place with no context shows zeros, and so does a core that is not halted. -/
def State.contextBytes (s : State) (pcore off n : Nat) : List Byte :=
  let p := s.pcore pcore
  match (if p.halted then p.shown (off / 32768) else none) with
  | some k => sliceBytes (s.record (s.firing k) (s.firing k).pc) (off % 32768) n
  | none => List.replicate n 0

/-- The bytes of a window that is no memory (kinds 2, 3 and 4). -/
def State.windowBytes (s : State) (kind lk off n : Nat) : List Byte :=
  if kind = 2 then s.contextBytes (s.lc lk).pcore off n
  else if kind = 3 then sliceBytes (s.lc lk).tileBytes off n
  else sliceBytes (s.lc lk).statusBytes off n

/-- Bytes at a physical address of an on-chip window (R155): memory as it stands, the other kinds as their windows show them. -/
def State.physWindow (s : State) (pa n : Nat) : List Byte :=
  let kind := windowKind pa
  let size := if kind = 3 then 1024 else 256
  if kind = 2 then s.contextBytes (windowCore pa) (windowOff pa) n
  else if kind = 3 || kind = 4 then
    match s.sharer (windowCore pa) (windowOff pa / size) with
    | some lk => s.windowBytes kind lk (windowOff pa % size) n
    | none => List.replicate n 0
  else s.readHome false pa n

/-- Bytes within a granule as a unit of the package reads them through a table: of host memory, of a device register, of an on-chip window, or at
their home (R155). -/
def State.physBytes (s : State) (host : Bool) (pa n : Nat) : List Byte :=
  if host then s.readHome true pa n
  else if isDeviceReg pa then s.regBytes pa n
  else if isWindowPA pa then s.physWindow pa n
  else s.readHome false pa n

end Sys2Proof.Machine
end

