-- ==== Sys2Proof/Machine/Stop.lean ====
section
/-! DEFINITION. Guards and discarded commands (R227, R231), the end of a launch (R40, R42, R343). -/

namespace Sys2Proof.Machine

open Sys2Proof

/-! ## Discarding commands -/

/-- The tile that a command fills. -/
def Work.fills (w : Work) : Option Nat :=
  match w with
  | .ofill ta _ _ _ _ => some ta
  | .adrain ta _ _ => some ta
  | .cpy _ (.tile t _) _ _ _ _ => some t
  | .cpyt _ _ (.tile t _) _ _ _ => some t
  | _ => none

/-- The use counts of a command's tiles change by its issue, completion or discard (R231, R275); the count of a tile that is cleared
meanwhile goes on, for the command still names it (R274). -/
def LCore.use (c : LCore) (w : Work) (up : Bool) : LCore :=
  w.tiles.foldl (fun c t =>
    let x := c.tile t
    c.setTile t { x with uses := if up then x.uses + 1 else x.uses - 1 }) c

/-- The tile entries that no command names become undefined. -/
def LCore.dropTiles (c : LCore) : LCore := { c with tiles := Tbl.mapVals (fun _ t => if t.uses = 0 then t.clear else t) c.tiles }

/-- A command names its tiles no more. Once its launch has ended by a fault, and its unstarted commands are discarded, an entry becomes undefined as
the last started command that names it completes (R42, R276). -/
def State.unuse (s : State) (lk : Nat) (w : Work) : State :=
  let s := s.modLc lk fun c => c.use w false
  if (s.launch (launchOfLc lk)).ending.isSome then s.modLc lk LCore.dropTiles else s

/-- A command whose guard resolved false is removed: the discard bit of the tile it would fill is set, and GSTAT of the issuing firing
records it while that firing is alive (R227, R274). -/
def State.discardGuarded (s : State) (lk : Nat) (k : Cmd) : State :=
  let s := s.unuse lk k.work
  let s := s.modLc lk fun c =>
    match k.work.fills with
    | some t => if (c.tile t).isDefined then c.setTile t { c.tile t with discard := true } else c
    | none => c
  let g := s.firing k.fk
  if g.st ≠ .free && g.seqno == k.seqno then
    let n := fld (g.gstat.zeroExtend 64) 23 16
    let low := g.gstat &&& 0x00FFFF
    let v := (low ||| BitVec.ofNat 24 (2 ^ k.gnum)) ||| BitVec.ofNat 24 ((min 255 (n + 1)) * 65536)
    s.setFiring k.fk { g with gstat := v }
  else s

/-- The first command of a queue that has not started, if its guard is known to be false. -/
def falseHead : List Cmd → Option Cmd
  | [] => none
  | k :: r => if k.started then falseHead r else (if k.guard = .known false then some k else none)

/-- Removes falsely guarded commands from the heads of the two queues of a logical core (R227). -/
def State.pruneQueues (s : State) (lk : Nat) : Nat → State
  | 0 => s
  | n + 1 =>
    let c := s.lc lk
    match falseHead c.matq, falseHead c.copyq with
    | some k, _ =>
      ((s.setLc lk { c with matq := c.matq.filter fun x => x.order ≠ k.order }).discardGuarded lk k).pruneQueues lk n
    | none, some k =>
      ((s.setLc lk { c with copyq := c.copyq.filter fun x => x.order ≠ k.order }).discardGuarded lk k).pruneQueues lk n
    | none, none => s

def State.prune (s : State) (lk : Nat) : State := s.pruneQueues lk 8

/-- A guard arming of a firing is resolved: commands bound to it learn its value (R227). -/
def State.resolveGuard (s : State) (fk : Nat) (n : Nat) (b : Bool) : State :=
  let g := s.firing fk
  let learn (k : Cmd) : Cmd :=
    if k.fk = fk && k.seqno == g.seqno && k.gnum == n && k.guard = .pending then { k with guard := .known b } else k
  let s := s.modLc (lcOf fk) fun c => { c with matq := c.matq.map learn, copyq := c.copyq.map learn }
  let s := s.modFiring fk fun g =>
    { g with guards := Vector.ofFn fun i : Fin 8 => if i.1 = n then (if b then .isTrue else .isFalse) else g.guards[i] }
  s.prune (lcOf fk)

/-- Every unresolved guard of a firing that ends is resolved false. -/
def State.resolveAll (s : State) (fk : Nat) : State :=
  (List.range 7).foldl (fun s i =>
    if (s.firing fk).guards.toList.getD (i + 1) .isTrue = .unresolved then s.resolveGuard fk (i + 1) false else s) s

/-! ## The end of a launch -/

/-- A firing stops: its context is free, its region is discarded, its slot is given up (R42, R343). -/
def State.stopFiring (s : State) (fk : Nat) : State :=
  let s := s.modFiring fk fun g => { g with st := .free, wait := .none, ticket := none, away := false,
                                            region := { g.region with isOpen := false, hold := [], reads := [] } }
  s.freeSlot fk true

/-- Queued pips, messages and commands of a logical core are discarded; started commands stay (R42). -/
def State.clearCore (s : State) (lk : Nat) : State :=
  let c := s.lc lk
  let gone := c.matq.filter (fun k => !k.started) ++ c.copyq
  let c := gone.foldl (fun c k => c.use k.work false) c
  let c := { c with matq := c.matq.filter fun k => k.started, copyq := [], pinned := [], arrivals := [], fired := [],
                    park := [], heldMsgs := [], mbox := [], outbound := [], joins := [], trigs := [], binds := [], resume := [],
                    actors := c.actors.map fun e => (e.1, { e.2 with ready := false, alive := false }) }
  s.setLc lk c

/-- Requests of a launch that a streamer or text engine has not started are discarded. -/
def State.clearRequests (s : State) (launch : Nat) : State :=
  let mine (r : Nat × Cmd) : Bool := launchOfLc r.1 == launch
  let queued := (s.streamers.flatMap fun e => e.2.queues.flatMap fun q => q.filter mine) ++
    (s.tokenisers.flatMap fun e => e.2.queue.filter mine) ++ (s.detokenisers.flatMap fun e => e.2.queue.filter mine)
  let s := queued.foldl (fun s r => s.unuse r.1 r.2.work) s
  let text (t : TextEngine) : TextEngine := { t with queue := t.queue.filter fun r => !mine r }
  { s with streamers := Tbl.mapVals (fun _ x => { x with queues := x.queues.map fun q => q.filter fun r => !mine r }) s.streamers,
           tokenisers := Tbl.mapVals (fun _ t => text t) s.tokenisers,
           detokenisers := Tbl.mapVals (fun _ t => text t) s.detokenisers,
           tasks := Tbl.mapVals (fun _ l => l.filter fun p => p.launch ≠ launch) s.tasks,
           octaves := Tbl.mapVals (fun _ o => { o with claims := o.claims.filter fun f => launchOfLc (lcOf f) ≠ launch }) s.octaves }

/-- The tile entries of a launch that no command names become undefined. -/
def State.clearTiles (s : State) (launch : Nat) : State := (s.coresOf launch).foldl (fun s k => s.modLc k LCore.dropTiles) s

/-- A launch ends by a fault (R42): its firings stop, its queued pips and commands are discarded, the tile entries that no started command names
become undefined (R276), and its code is kept for the completion word, which is written once the started commands have completed (LAUNCH_END_BY_FAULT). A launch that ends
already keeps its first code. -/
def State.endLaunch (s : State) (launch : Nat) (code : Code) : State :=
  match Tbl.find s.launches launch with
  | none => s
  | some l =>
    if l.ending.isSome then s
    else
      let s := s.setLaunch launch { l with ending := some code, live := 0 }
      let fks := (s.allFirings.filter fun g => launchOfLc (lcOf g.key) = launch && g.st ≠ .free).map fun g => g.key
      let s := fks.foldl State.stopFiring s
      let s := (s.coresOf launch).foldl State.clearCore s
      (s.clearRequests launch).clearTiles launch

/-- Are commands of a launch still queued or running? -/
def State.hasCommands (s : State) (launch : Nat) : Bool :=
  let mine (r : Nat × Cmd) : Bool := launchOfLc r.1 == launch
  (s.coresOf launch).any (fun k => !(s.lc k).matq.isEmpty || !(s.lc k).copyq.isEmpty) ||
  s.streamers.any (fun e => (e.2.queues.any fun q => q.any mine) || e.2.running.any mine) ||
  s.tokenisers.any (fun e => e.2.queue.any mine || e.2.running.any mine) ||
  s.detokenisers.any (fun e => e.2.queue.any mine || e.2.running.any mine)

/-- The logical cores of a launch leave every team of its context. -/
def State.leaveAll (s : State) (ctx : Nat) (lks : List Nat) : State :=
  lks.foldl (fun s k => ((s.context ctx).teams.map fun e => e.1).foldl (fun s t => s.leaveTeam ctx t k) s) s

/-- A launch that has ended leaves the package (R40, R42, R237, R276, R308, R356): its cores leave their teams, its slots are freed, the
instruction-cache lines tagged with it are dropped (R87), its tables and firings go, and a pairing value that was waiting takes effect. -/
def State.removeLaunch (s : State) (launch : Nat) : State :=
  let ctx := (s.launch launch).ctx
  let id := (s.launch launch).launchId
  let lks := s.coresOf launch
  let s := s.leaveAll ctx lks
  let free (x : OpSlot) : OpSlot :=
    match x.owner with
    | some k => if launchOfLc k = launch then { x with owner := none, fmt := none } else x
    | none => x
  let mine (k : Nat) : Bool := launchOfLc (lcOf k) == launch
  let s : State :=
    { s with octaves := Tbl.mapVals (fun _ o => { o with slots := Tbl.mapVals (fun _ x => free x) o.slots,
                                                         icache := o.icache.filter fun l => (l.tag.map fun t => (t.1, t.2.1)) ≠ some (ctx, id) }) s.octaves,
             lcores := s.lcores.filter fun e => launchOfLc e.1 ≠ launch,
             firings := s.firings.filter fun e => !mine e.1,
             launches := Tbl.erase s.launches launch,
             net := { s.net with combs := s.net.combs.filter (fun p => p.launch ≠ launch),
                                 probes := s.net.probes.filter fun p => launchOfLc p.target ≠ launch } }
  if s.launches.any fun e => e.2.ctx = ctx then s
  else s.modContext ctx fun c =>
    match c.pairNext with
    | some v => c.pair v
    | none => c

end Sys2Proof.Machine
end

