-- ==== Sys2Proof/Machine/Translate.lean ====
section
/-! DEFINITION. Translation: the walk of the tables, the translation caches, and the pieces of a range (R152, R156 to R158, R288, R289, R363). -/

namespace Sys2Proof.Machine

open Sys2Proof

/-! ## Translation -/

/-- The outcome of a walk: a translation, no present entry (0x08), or a broken entry (0x09). -/
inductive Walk where
  | ok (t : Trans)
  | absent
  | denied
deriving DecidableEq, Repr

/-- Attributes of a table entry (R288). -/
def Attrs.ofEntry (e : Nat) : Attrs :=
  { host := bit e 63, ptrap := bit e 6, nt := bit e 5, sc := bit e 4, exec := bit e 3, write := bit e 2 }

/-- No page stands behind a peer window: every permission is left to R154. -/
def Attrs.window : Attrs := { host := false, ptrap := true, nt := false, sc := false, exec := false, write := true }

/-- log2 of the bytes that one entry of a level spans. -/
def levelShift (level : Nat) : Nat := if level = 0 then 16 else 12 + 9 * level

/-- Walks from the table at `table` down (R288, R289). Tables are read as the memory-side cache holds them, or in host memory. -/
def State.walkFrom (s : State) (ctx va : Nat) (driver : Bool) : Nat → Bool → Nat → Walk
  | level, host, table =>
    let sh := levelShift level
    let idx := (va / 2 ^ sh) % (if level = 0 then 32 else 512)
    let e := leNat (Mem.read (if host then s.mem.host else s.mem.side) (table + 8 * idx) 8)
    let addr := bits e 46 8 * 256
    let isHost := bit e 63
    if !bit e 0 then .absent
    else if bits e 62 47 ≠ 0 || bit e 7 then .denied
    else if bit e 1 then
      if level = 3 || addr % 2 ^ sh ≠ 0 then .denied
      else if !isHost && !isHbm addr && !(driver && (isWindowPA addr || isDeviceReg addr)) then .denied
      else .ok { ctx := ctx, va := va / 2 ^ sh * 2 ^ sh, size := 2 ^ sh, pa := addr, attr := Attrs.ofEntry e }
    else
      match level with
      | 0 => .denied
      | next + 1 =>
        if addr % (if next = 0 then 256 else 4096) ≠ 0 then .denied
        else if !isHost && !isHbm addr && !(driver && (isWindowPA addr || isDeviceReg addr)) then .denied
        else s.walkFrom ctx va driver next isHost addr

/-- The memory of a die with a stack that failed training stays unmapped (R363). -/
def State.dieDead (s : State) (pa : Nat) : Bool := isHbm pa && s.pkg.deadStacks.any fun k => k / 4 == pa / 2 ^ 38

/-- A walk from the root of a context; an invalid root is no present entry. -/
def State.walk (s : State) (ctx va : Nat) : Walk :=
  let r := (s.context ctx).root.toNat
  if bit r 0 then
    match s.walkFrom ctx va (bit r 1) 3 false (bits r 46 12 * 4096) with
    | .ok t => if !t.attr.host && s.dieDead t.pa then .denied else .ok t
    | w => w
  else .absent

def Trans.covers (t : Trans) (ctx va : Nat) : Bool :=
  t.ctx == ctx && decide (t.va ≤ va) && decide (va < t.va + t.size)

/-- A translation from the core's buffer, its die's cache, or a walk (R158). -/
def State.translate (s : State) (pcore ctx va : Nat) : Walk :=
  match ((s.pcore pcore).tbuf ++ Tbl.get [] s.tcache (dieOf pcore)).find? fun t => t.covers ctx va with
  | some t => .ok t
  | none => s.walk ctx va

/-- Keeps the last `n` entries. -/
def keepLast {α : Type} (n : Nat) (l : List α) : List α := l.drop (l.length - n)

/-- A die's translation cache with one more entry: 512 entries are held for 1 GiB pages (R156, R158). -/
def cacheTrans (l : List Trans) (t : Trans) : List Trans :=
  if l.contains t then l
  else
    let l := l ++ [t]
    let big := keepLast 512 (l.filter fun x => x.size = 2 ^ 30)
    let small := keepLast (16384 - 512) (l.filter fun x => x.size ≠ 2 ^ 30)
    small ++ big

/-- A used translation enters the die's cache and the core's buffer of sixteen; what the die's cache drops leaves every buffer of the
die. -/
def State.noteTrans (s : State) (pcore : Nat) (t : Trans) : State :=
  let die := dieOf pcore
  let old := Tbl.get [] s.tcache die
  let new := cacheTrans old t
  let gone := old.filter fun x => !new.contains x
  let s : State :=
    { s with tcache := Tbl.set s.tcache die new,
             pcores := if gone.isEmpty then s.pcores
               else Tbl.mapVals (fun p x => if dieOf p = die then { x with tbuf := x.tbuf.filter fun e => !gone.contains e } else x) s.pcores }
  s.modPCore pcore fun p => { p with tbuf := if p.tbuf.contains t then p.tbuf else keepLast 16 (p.tbuf ++ [t]) }

/-! ## Pieces of a range -/

def Spot.host (p : Spot) : Bool := p.attr.host

/-- Cuts a range at granule boundaries. -/
def cut (fuel va n : Nat) : List (Nat × Nat) :=
  match fuel with
  | 0 => []
  | f + 1 => if n = 0 then [] else let k := min n (64 - va % 64); (va, k) :: cut f (va + k) (n - k)

/-- The pieces of `n` bytes at an address. -/
def pieces (va n : Nat) : List (Nat × Nat) := cut (n / 64 + 2) va n

end Sys2Proof.Machine
end

