-- ==== Sys2Proof/Machine/RegWrite.lean ====
section
/-! DEFINITION. Writing the device registers, by whoever reaches them (R3, R155, R253 to R256, R286, R287, R290, R302, R338, R341, R345, R349, R351, R354, R356, R358,
R360). -/

namespace Sys2Proof.Machine

open Sys2Proof

/-! ## The unit's own accesses -/

/-- Pieces of a range through the tables of a context, or the first address that does not translate (R86). A write through a driver's page of an on-chip
window other than memory and counters fails too (R154, R155; log 11, DEDUCED). -/
def State.unitLocate (s : State) (ctx : Nat) (write : Bool) : List (Nat × Nat) → Except Nat (List Spot)
  | [] => .ok []
  | (va, n) :: r =>
    if 0x400000000000 ≤ va then .error va
    else
      match s.walk ctx va with
      | .ok t =>
        let p : Spot := { va := va, n := n, pa := t.pa + (va - t.va), attr := t.attr, win := none, lk := 0 }
        if write && (!t.attr.write || (!t.attr.host && isWindowPA p.pa && windowKind p.pa != 0 && windowKind p.pa != 5)) then .error va
        else (s.unitLocate ctx write r).map fun ps => p :: ps
      | _ => .error va

/-- The pieces of a read, or the address that failed: one that does not translate, or a poisoned granule (log 17, DEDUCED). -/
def State.unitSpots (s : State) (ctx va n : Nat) : Except Nat (List Spot) :=
  match s.unitLocate ctx false (pieces va n) with
  | .error a => .error a
  | .ok ps =>
    match ps.find? fun p => !p.host && s.poisoned p.pa with
    | some p => .error p.va
    | none => .ok ps

/-- Reads bytes, or says which address failed. -/
def State.unitRead (s : State) (ctx va n : Nat) : Except Nat (List Byte) :=
  (s.unitSpots ctx va n).map fun ps => ps.flatMap fun p => s.physBytes p.host p.pa p.n

/-- Writes a word that the host can read at once, or a device register, which `reg` writes; says which address failed. -/
def State.unitWord (s : State) (reg : State → Nat → Word → State) (ctx va : Nat) (v : Word) : Except Nat State :=
  if va % 8 ≠ 0 then .error va
  else
    (s.unitLocate ctx true (pieces va 8)).map fun ps =>
      ps.foldl (fun s p =>
        if !p.host && isDeviceReg p.pa then reg s p.pa v
        else (s.writePhys (some ctx) p.host p.pa (leBytes 8 v.toNat)).l2Clean (p.pa / 64)) s

/-- An address for which no firing exists goes to the launch-fault address register (R86). -/
def State.noteLaunchFault (s : State) (ctx va : Nat) : State := s.modContext ctx fun c => { c with faultAddr := BitVec.ofNat 64 va }

/-- The completion word is written, or its address noted; MSI-X vector 64 + context is raised (R255, R351), and what waits on a counter there is
tested (R299, R300). -/
def State.completionVia (s : State) (reg : State → Nat → Word → State) (ctx va : Nat) (v : Word) : State :=
  let t := match s.unitWord reg ctx va v with
    | .ok t => t
    | .error a => s.noteLaunchFault ctx a
  (t.raise (64 + ctx)).settle

/-- A completion word (R255). -/
def completionOf (launchId : Nat) (removed : Bool) (code : Nat) : Word :=
  BitVec.ofNat 64 (launchId * 2 ^ 32 + flag removed 16 + 2 ^ 15 + code)

/-! ## Records (R253) -/

/-- VA of record i of a queue. -/
def LQueue.recordVA (q : LQueue) (i : BitVec 32) : Nat := q.base.toNat + 128 * (i.toNat % 2 ^ q.size)

/-- Fields of a record. -/
structure Rec where
  header : Nat
  param  : Nat
  compl  : Nat
  remap  : Nat
  gridX  : Nat
  gridY  : Nat
  attrs  : Nat
  seed   : Word
  wait   : BitVec 256
  mask   : BitVec 256
  /-- A reserved byte is not zero. -/
  bad    : Bool
deriving DecidableEq, Repr

def Rec.ofBytes (b : List Byte) : Rec :=
  { header := recNat b 0 8, param := recNat b 8 8, compl := recNat b 16 8, remap := recNat b 24 8, gridX := recNat b 32 4,
    gridY := recNat b 36 4, attrs := recNat b 40 2, seed := recWord b 48, wait := BitVec.ofNat 256 (recNat b 64 32),
    mask := BitVec.ofNat 256 (recNat b 96 32), bad := recNat b 42 6 != 0 || recNat b 56 8 != 0 || recNat b 40 2 / 16 != 0 }

/-! ## Launch queues (R254, R256) -/

/-- May a tail hold this value? -/
def LQueue.fits (q : LQueue) (tail : BitVec 32) : Bool := decide ((tail - q.head).toNat ≤ 2 ^ q.size)

/-- A tail is written: one that would overrun the queue is ignored and sets overrun. -/
def LQueue.setTail (q : LQueue) (tail : BitVec 32) : LQueue := if q.fits tail then { q with tail := tail } else { q with overrun := true }

def State.modQueue (s : State) (ctx n : Nat) (f : LQueue → LQueue) : State :=
  s.modContext ctx fun c => { c with queues := Tbl.set c.queues n (f (c.queue n)) }

/-- A head leaves its queue. -/
def State.advanceHead (s : State) (ctx q : Nat) : State :=
  s.modQueue ctx q fun x => { x with head := x.head + 1, raised := 0, pass := 0 }

/-- A write of the tail. -/
def State.writeTail (s : State) (ctx q : Nat) (v : Word) : State := s.modQueue ctx q fun x => x.setTail (v.truncate 32)

/-- How far a head write moves the head, if it does: within the records of a stopped queue (log 11, DEDUCED). -/
def LQueue.passes (x : LQueue) (v : BitVec 32) : Nat :=
  if x.stopped && decide ((v - x.head).toNat ≤ (x.tail - x.head).toNat) then (v - x.head).toNat else 0

/-- The records that a head write passes over leave their queue one after the other, each with its completion word. One that cannot be read has none:
no word is written for it, no address noted and no vector raised (log 11, DESIGN CHOICE: R256 does not say what becomes of it, and R255's rows are
about the head that the unit starts). A completion word may itself write a device register, the queue's own among them: how far there is still to go
is looked at anew for each record. -/
def State.removeRecords (s : State) (reg : State → Nat → Word → State) (ctx q : Nat) (v : BitVec 32) : Nat → State
  | 0 => s
  | n + 1 =>
    let x := (s.context ctx).queue q
    if x.passes v = 0 then s
    else
      let b := s.unitRead ctx (x.recordVA x.head) 128
      let s := s.advanceHead ctx q
      (match b with
       | .error _ => s
       | .ok b => s.completionVia reg ctx (Rec.ofBytes b).compl (completionOf 0 true 0)).removeRecords reg ctx q v n

/-- The control register: size, stop, and the overrun bit that a 1 clears. Clearing stop clears stopped too. -/
def LQueue.writeControl (x : LQueue) (v : Word) : LQueue :=
  let n := fld v 3 0
  let x := if 1 ≤ n ∧ n ≤ 12 then { x with size := n } else x
  let x := { x with stop := v.getLsbD 8, stopped := x.stopped && v.getLsbD 8 }
  if v.getLsbD 10 then { x with overrun := false } else x

/-! ## Event vectors (R302) -/

/-- A mask at word i of an event vector. -/
def eventMask (i : Nat) (m : Word) : BitVec 256 := m.zeroExtend 256 <<< (64 * i)

def State.setEvents (s : State) (ctx : Nat) (m : BitVec 256) : State := s.modContext ctx fun c => { c with events := c.events ||| m }
def State.clearEvents (s : State) (ctx : Nat) (m : BitVec 256) : State := s.modContext ctx fun c => { c with events := c.events &&& ~~~m }

/-! ## The page-fault queue (R338) -/

/-- The context of a firing. -/
def State.ctxOf (s : State) (fk : Nat) : Nat := (s.launch (launchOfLc (lcOf fk))).ctx

/-- The suspended firing of a context that holds a ticket. -/
def State.ticketHolder (s : State) (ctx : Nat) (ticket : Word) : Option Nat :=
  (s.allFirings.find? fun g =>
    g.st == .suspended && g.ticket == some (ticket.truncate 32) && s.ctxOf g.key == ctx && ticket.toNat < 2 ^ 32).map fun g => g.key

/-- A ticket written to resume: its firing becomes runnable; any other ticket is ignored. -/
def State.resumeTicket (s : State) (ctx : Nat) (ticket : Word) : State :=
  match s.ticketHolder ctx ticket with
  | some fk => (s.modFiring fk fun g => { g with ticket := none }).runnable fk .none
  | none => s

/-- A ticket written to refuse: the launch ends with code 0x08. -/
def State.refuseTicket (s : State) (ctx : Nat) (ticket : Word) : State :=
  match s.ticketHolder ctx ticket with
  | some fk => (s.endLaunch (launchOfLc (lcOf fk)) 0x08).settle
  | none => s

/-! ## Run control (R341), the address-range table (R286, R287), purge (R287), invalidation of translations (R158, R290) -/

/-- Writing 1 to the run-control register of a core releases it. -/
def State.runControl (s : State) (pcore : Nat) (v : Word) : State :=
  if v.getLsbD 0 then s.modPCore pcore fun p => { p with halted := false } else s

/-- May the table be written: no launch live, and every queue of every context stopped (R287)? -/
def State.tableOpen (s : State) : Bool :=
  s.launches.isEmpty && (List.range 64).all fun c => (List.range 16).all fun q => ((s.context c).queue q).stopped

/-- Base and limit hold address bits [38:0]. -/
def rangeAddress (v : Word) : Word := v &&& 0x7FFFFFFFFF

/-- A write of word `w` of entry `i`; at a wrong time it is ignored and sets error, and the entry goes on as it stands. -/
def State.writeRange (s : State) (i w : Nat) (v : Word) : State :=
  let e := Tbl.get .fresh s.pkg.ranges i
  let e' : RangeEntry :=
    if !s.tableOpen then { e with error := true }
    else
      let e := if w = 0 then { e with base := rangeAddress v } else if w = 1 then { e with limit := rangeAddress v }
        else if w = 2 then { e with ctl := v &&& 0x800000003F007F7F } else e
      { e with error := bit e.ctl.toNat 63 && e.broken }
  if 3 ≤ w then s else { s with pkg := { s.pkg with ranges := Tbl.set s.pkg.ranges i e' } }

/-- A purge begins: every line of the range leaves its slice, cleaned. -/
def State.purge (s : State) (base len : Word) : State :=
  let s : State := { s with pkg := { s.pkg with purgeBase := base, purgeLen := len, purgeBusy := true } }
  ((s.mem.l2.filter fun e => decide (base.toNat ≤ 64 * e.line + 63) && decide (64 * e.line < base.toNat + len.toNat)).map fun e =>
    e.line).foldl State.l2Drop s

/-- A cached translation meets a range of a context. -/
def Trans.meets (t : Trans) (ctx va len : Nat) : Bool := t.ctx == ctx && decide (t.va < va + len) && decide (va < t.va + t.size)

/-- An invalidation begins on a die: its core buffers and its cache drop what meets the range. -/
def State.invalidate (s : State) (die ctx : Nat) (va len : Word) : State :=
  let keep (t : Trans) : Bool := !t.meets ctx va.toNat len.toNat
  { s with pkg := { s.pkg with invals := Tbl.set s.pkg.invals die (ctx, va, len, false) },
           tcache := Tbl.set s.tcache die ((Tbl.get [] s.tcache die).filter keep),
           pcores := Tbl.mapVals (fun p x => if dieOf p = die then { x with tbuf := x.tbuf.filter keep } else x) s.pcores }

/-! ## Writes of the device registers (R3) -/

/-- The pairing register: a value written while a launch of the context is live waits for its end (R356). -/
def State.writePairing (s : State) (ctx : Nat) (v : Word) : State :=
  let v := v &&& 0x80000000FFFFFFFF
  if s.launches.any fun e => e.2.ctx == ctx then s.modContext ctx fun c => { c with pairNext := some v }
  else s.modContext ctx fun c => c.pair v

/-- A port register (R358), its reserved bits left zero (R3); the drop count is the port's own. -/
def Port.write (x : Port) (w : Nat) (v : Word) : Port :=
  match w with
  | 0 => { x with rxRing := v }
  | 1 => { x with rxSlots := v }
  | 2 => { x with bound := v &&& 0x3FFFFFFFFFFFF }
  | 3 => { x with txRing := v }
  | 4 => { x with txCount := v }
  | 5 => { x with doorbell := v }
  | 7 => { x with pairing := v &&& 0x80000000FFFFFFFF }
  | _ => x

def State.modPort (s : State) (p : Nat) (h : Port → Port) : State :=
  { s with pkg := { s.pkg with ports := Tbl.set s.pkg.ports p (h (s.port p)) } }

/-- The host's doorbell hands a request to Hendeotte (R360); what it releases is at the memory-side cache already (R201). -/
def State.ringIn (s : State) (v : Word) : State := { s with pkg := { s.pkg with bellIn := v, request := true } }

/-- A write of a queue register (R254); `head` writes the head. A base that is no multiple of 128 is taken as it is written, and the records are read
from there (log 11, DESIGN CHOICE: R254 says neither that its low bits are ignored nor that such a write is). -/
def State.writeQueue (s : State) (head : State → Nat → Nat → Word → State) (c q w : Nat) (v : Word) : State :=
  match w with
  | 0 => s.modQueue c q fun x => if x.stopped then { x with base := v } else x
  | 1 => s.modQueue c q fun x => x.writeControl v
  | 2 => head s c q v
  | 3 => s.writeTail c q v
  | _ => s

/-- A write of the words of a context that hold a value and nothing else: the root, the almanac, the trap registers, the weight. -/
def Context.write (x : Context) (b : RegBlock) (v : Word) : Context :=
  match b with
  | .root _ 0 => { x with root := v &&& 0x7FFFFFFFF003 }
  | .almanac _ 0 => { x with almBase := v }
  | .almanac _ 1 => { x with almCap := v }
  | .almanac _ 2 => { x with almIndex := v }
  | .almanac _ 3 => { x with almMode := v.getLsbD 0 }
  | .trap _ 0 => { x with service := v }
  | .trap _ 1 => { x with svcArg := v }
  | .trap _ 2 => { x with trapArea := v }
  | .trap _ 3 => { x with switchArea := v }
  | .weight _ => { x with weight := v.truncate 4 }
  | .replica _ 2 => { x with repSet := v &&& 0x80000003FFFFFFFF }
  | .replica _ 3 => { x with repTimeout := v.extractLsb' 32 32 }
  | .pageQueue _ 0 => { x with pfHead := v.truncate 32 }
  | _ => x

/-- The window base for a BAR 2 of 2^n bytes: an HBM address that is a multiple of its size; the bits that are none are ignored (R3, R351;
log 21, DEDUCED). -/
def State.setWindow (s : State) (v : Word) (n : Nat) : State :=
  { s with pkg := { s.pkg with bar2 := n, window := BitVec.ofNat 64 (v.toNat % 2 ^ 39 / 2 ^ n * 2 ^ n) } }

/-- A hold of a context is released on request, or by Hendeotte's own write: its posts hold it no more, and those whose step is still to be decided
stay to be compared (R348, R349). -/
def Context.unhold (x : Context) : Context :=
  { x with held := false, posts := (x.posts.filter fun p => !p.decided).map fun p => { p with holds := false } }

/-- A write of a device register; `mgmt` says that the management core makes it, and `head` writes the head of a launch queue. Reserved and read-only
bits are ignored. -/
def State.writeBlock (s : State) (head : State → Nat → Nat → Word → State) (mgmt : Bool) (b : RegBlock) (v : Word) : State :=
  let ctxWrite (c : Nat) : State := s.modContext c fun x => x.write b v
  match b with
  | .windowBase => s.setWindow v s.pkg.bar2
  | .deviceNumber => if mgmt then { s with pkg := { s.pkg with device := v.truncate 18 } } else s
  | .mailIn w => { s with pkg := { s.pkg with mailIn := Tbl.set s.pkg.mailIn w v } }
  | .mailOut w => if mgmt then { s with pkg := { s.pkg with mailOut := Tbl.set s.pkg.mailOut w v } } else s
  | .bellIn => s.ringIn v
  | .bellOut => if mgmt then ({ s with pkg := { s.pkg with bellOut := v, request := false } } : State).raise 0 else s
  | .queue c q w => s.writeQueue head c q w v
  | .range i w => s.writeRange i w v
  | .purge w =>
    if w = 0 then { s with pkg := { s.pkg with purgeBase := v } } else if w = 1 then s.purge s.pkg.purgeBase v else s
  | .root c _ => ctxWrite c
  | .inval d w =>
    let e := Tbl.get (0, 0, 0, true) s.pkg.invals d
    if w = 0 then { s with pkg := { s.pkg with invals := Tbl.set s.pkg.invals d (v.toNat % 64, e.2) } }
    else if w = 1 then { s with pkg := { s.pkg with invals := Tbl.set s.pkg.invals d (e.1, v, e.2.2) } }
    else if w = 2 then s.invalidate d e.1 e.2.1 v
    else s
  | .event _ _ => s
  | .eventSet c w => (s.setEvents c (eventMask w v)).settle
  | .eventClear c w => s.clearEvents c (eventMask w v)
  | .barrier c t w => if w = 1 then s.modContext c fun x => x.setTeam t { x.team t with span := v.getLsbD 0 } else s
  | .almanac c _ => ctxWrite c
  | .trap c _ => ctxWrite c
  | .faultQueue w => if mgmt && w == 0 then { s with pkg := { s.pkg with fqHead := v.truncate 32 } } else s
  | .faultRing _ _ => s
  | .run p => s.runControl p v
  | .pairing c => s.writePairing c v
  | .port p w => s.modPort p fun x => x.write w v
  | .weight c => ctxWrite c
  | .presence _ _ => s
  | .replica c w =>
    if mgmt && w == 3 then s.modContext c fun x => if v.getLsbD 0 then { x with held := true } else x.unhold else ctxWrite c
  | .launchFault _ => s
  | .pageQueue c w => if w = 2 then s.resumeTicket c v else if w = 3 then s.refuseTicket c v else ctxWrite c
  | .pageRing _ _ _ => s
  | .plain => s

/-- A head write; `n` bounds how deep head writes lie within head writes, which completion words on the queues' own registers make. -/
def State.writeHeadWithin : Nat → State → Nat → Nat → Word → State
  | 0, s, _, _, _ => s
  | n + 1, s, ctx, q, v =>
    let reg (s : State) (pa : Nat) (w : Word) : State := s.writeBlock (State.writeHeadWithin n) false (regBlock pa) w
    s.removeRecords reg ctx q (v.truncate 32) (((s.context ctx).queue q).passes (v.truncate 32))

/-- The records of the 1,024 queues: each head write within another one removes one at least. -/
def recordBound : Nat := 1024 * 4096

/-- A head write: ignored unless the queue is stopped, and unless it moves the head forward within its records (log 11, DEDUCED). -/
def State.writeHead (s : State) (ctx q : Nat) (v : Word) : State := State.writeHeadWithin (recordBound + 1) s ctx q v

/-- A write of the device register at an address. -/
def State.writeReg (s : State) (mgmt : Bool) (pa : Nat) (v : Word) : State := s.writeBlock State.writeHead mgmt (regBlock pa) v

/-- The completion word of a launch or a rejected record (R255). -/
def State.completionWord (s : State) (ctx va : Nat) (v : Word) : State := s.completionVia (fun s pa w => s.writeReg false pa w) ctx va v

/-- The register words of `n` bytes at an address, each with what it holds once the bytes are laid over it. -/
def State.regWords (s : State) (pa : Nat) (bs : List Byte) : List (Nat × Word) :=
  (List.range ((pa % 8 + bs.length + 7) / 8)).map fun i =>
    let w := pa / 8 * 8 + 8 * i
    let old := leBytes 8 (s.regRead w).toNat
    let lo := max w pa
    let hi := min (w + 8) (pa + bs.length)
    (w, leWord (old.take (lo - w) ++ (bs.drop (lo - pa)).take (hi - lo) ++ old.drop (hi - w)))

/-- A write to device registers by a hart, an engine or a put is made word by word in the step of the access, as any of its writes is (R155, R187,
R189, R195). -/
def State.sendRegister (s : State) (pa : Nat) (bs : List Byte) : State :=
  (s.regWords pa bs).foldl (fun s e => s.writeReg false e.1 e.2) s

/-! ## Writes of the host and the driver -/

/-- A write that arrives while the arithmetic clock is gated is held until the wake, with whether the management core made it (R362). -/
def State.hold (s : State) (mgmt : Bool) (pa : Nat) (bs : List Byte) : State :=
  { s with pkg := { s.pkg with heldWrites := s.pkg.heldWrites ++ [(mgmt, BitVec.ofNat 64 pa, bs)] } }

/-- A write of register words from an address on, by the host or the driver: it reaches its unit while the package is active, and while the clock is
gated it is held until the wake, which it brings about (R362). -/
def State.written (s : State) (pa : Nat) (ws : List Word) (h : State → State) : Outcome :=
  match s.pkg.power with
  | .active => .next (h s)
  | .gated => .next (s.hold false pa (ws.flatMap fun w => leBytes 8 w.toNat))
  | .off => .next s
  | .rom => .next s

/-- Register `w` of a launch queue (R254). A write of the control register whose size is none leaves the size. -/
def queueReg (ctx q w : Nat) : Nat := 0x7F0000100000 + 1024 * (ctx % 64) + 64 * (q % 16) + 8 * w

end Sys2Proof.Machine
end

