-- ==== Sys2Proof/Machine/Access.lean ====
section
/-! DEFINITION. Translation, the checks of an access, and plain loads and stores of a hart (R152 to R158, R164, R288, R289): every check
of an access is made before any byte moves. -/

namespace Sys2Proof.Machine

open Sys2Proof

/-! ## The checks of an access -/

/-- Who makes an access: context, launch, issuing core, service mode, firing (for its own pending puts). -/
structure Asker where
  ctx     : Nat
  launch  : Nat
  pcore   : Nat
  service : Bool
  fk      : Option Nat
deriving DecidableEq, Repr

def State.asker (s : State) : Asker :=
  { ctx := s.ctxId, launch := s.myLaunch, pcore := s.me.pcore, service := s.f.service, fk := some s.f.key }

/-- What an access does (R154, R157). -/
inductive Use where
  | load
  | store
  | put
  | stnt
  /-- An atomic of `n` bytes. -/
  | atomic (n : Nat)
  /-- The read of an arrival counter by cwait and ctrig (R298). -/
  | counter
  /-- A counter that a put or a copy increments (R169, R245). -/
  | increment
  | fetch
deriving DecidableEq, Repr

def Use.writes (u : Use) : Bool := match u with | .load => false | .counter => false | .fetch => false | _ => true

/-- A fault of an access: its code, its address and the access code of R338. -/
structure Flt where
  code : Code
  addr : Nat
  acc  : BitVec 2
deriving DecidableEq, Repr

def Use.access (u : Use) : BitVec 2 := match u with | .fetch => 0 | .load => 1 | .counter => 1 | _ => 2

/-- Size of a peer window (R153). -/
def State.windowSize (s : State) (lk kind : Nat) : Nat :=
  if kind = 0 then (s.lc lk).shareSize
  else if kind = 1 then 32768 else if kind = 2 then 65536 else if kind = 3 then 1024 else if kind = 4 then 256
  else if kind = 5 then 4096 else 0

/-- Physical address of a byte of a window: what hosted cores have each of their own lies side by side. -/
def State.windowAt (s : State) (lk kind off : Nat) : Nat :=
  let c := s.lc lk
  if kind = 0 then c.sharePA off
  else if kind = 3 then windowPA c.pcore 3 (c.share * 1024 + off)
  else if kind = 4 then windowPA c.pcore 4 (c.share * 256 + off)
  else if kind = 5 then windowPA c.pcore 5 (c.share * 4096 + off)
  else windowPA c.pcore kind off

/-- The first byte of some pieces that lies at `stop` or beyond it. -/
def firstBeyond (stop : Nat) (ps : List (Nat × Nat)) : Option Nat :=
  (ps.find? fun p => decide (stop < p.1 + p.2)).map fun p => max p.1 stop

/-- The checks of R154 for the pieces of an access to the peer window at `va`, where the first of them begins: the kind, target core and offset,
or the fault with its address, the first byte accessed that fails (R147, R164, R336; log 13, DEDUCED). -/
def State.windowCheck (s : State) (q : Asker) (u : Use) (va : Nat) (ps : List (Nat × Nat)) : Except (Code × Nat) (Nat × Nat × Nat) :=
  let o := va - 0x400000000000
  let l := o / 2 ^ 24
  let kind := (o / 2 ^ 20) % 16
  let off := o % 2 ^ 20
  let lk := lcKey q.launch l
  let beyond := firstBeyond (va - off + s.windowSize lk kind) ps
  if (s.launch q.launch).ncore ≤ l || 5 < kind then .error (0x09, va)
  else if beyond.isSome && kind = 2 && !q.service then .error (0x09, beyond.getD va)
  else if kind = 2 && !q.service then .error (0x05, va)
  else if kind = 2 && !(s.pcore (s.lc lk).pcore).halted then .error (0x09, va)
  else if u.writes && 1 ≤ kind && kind ≤ 4 then .error (0x09, va)
  else if u = .stnt || u = .fetch || ((u = .counter || u = .increment) && kind ≠ 5) then .error (0x09, va)
  else if u = .atomic 4 && kind = 5 then .error (0x09, va)
  else
    match beyond with
    | some a => .error (0x09, a)
    | none => .ok (kind, lk, off)

/-- The channel mirror of a declared end that bytes of a counters page meet (R266): in end c has index 496 + c, out end c 480 + c. -/
def LCore.mirrorAt (c : LCore) (off n : Nat) : Option Nat :=
  (c.ends.map fun e => (if e.2.isIn then 496 else 480) + e.1).find? fun i => decide (8 * i < off + n) && decide (off < 8 * i + 8)

/-- Bytes from the counter of a mirror that a write at a physical address of a counters page meets (R266): how far the address lies beyond the
counter's first byte. -/
def State.physMirror (s : State) (pa n : Nat) : Option Int :=
  if isWindowPA pa && windowKind pa == 5 then
    match s.sharer (windowCore pa) (windowOff pa / 4096) with
    | some lk => ((s.lc lk).mirrorAt (windowOff pa % 4096) n).map fun i => ((windowOff pa % 4096 : Nat) : Int) - ((8 * i : Nat) : Int)
    | none => none
  else none

/-- The permission of a page (R157, R166, R168, R294). -/
def Attrs.allows (a : Attrs) (u : Use) : Bool :=
  match u with
  | .load => true
  | .fetch => a.exec
  | .store => a.write
  | .put => a.write
  | .stnt => a.write && a.nt && !a.sc
  | .atomic _ => a.write && !a.host
  | .counter => !a.host
  | .increment => a.write && !a.host

/-- Does a physical address answer a hart (R155): HBM, an on-chip window, which is written only where it is memory, or a device
register? -/
def reaches (u : Use) (pa : Nat) : Bool :=
  isHbm pa || isDeviceReg pa || (isWindowPA pa && (!u.writes || windowKind pa == 0 || windowKind pa == 5))

/-- One piece in the memory space: 0x08, then 0x09, then 0x16 for a mirror that a driver's page shows (R266). A piece of an access that runs from the memory space into the peer-window segment is
0x09 there, after the page checks of the pieces before it (R152; log 13, DEDUCED). -/
def State.locatePiece (s : State) (q : Asker) (u : Use) (va n : Nat) : Except Flt (Spot × Trans) :=
  if 0x400000000000 ≤ va then .error { code := 0x09, addr := va, acc := u.access }
  else
    match s.translate q.pcore q.ctx va with
    | .absent => .error { code := 0x08, addr := va, acc := u.access }
    | .denied => .error { code := 0x09, addr := va, acc := u.access }
    | .ok t =>
      let pa := t.pa + (va - t.va)
      if t.attr.allows u && (t.attr.host || reaches u pa) then
        match (if u.writes && !t.attr.host then s.physMirror pa n else none) with
        | some d => .error { code := 0x16, addr := ((va : Int) - d).toNat, acc := u.access }
        | none => .ok ({ va := va, n := n, pa := pa, attr := t.attr, win := none, lk := 0 }, t)
      else .error { code := 0x09, addr := va, acc := u.access }

/-- Pieces in ascending order, each within one granule, checked in that order; the translations used. -/
def State.locatePieces (s : State) (q : Asker) (u : Use) : List (Nat × Nat) → Except Flt (List Spot × List Trans)
  | [] => .ok ([], [])
  | (va, n) :: r =>
    match s.locatePiece q u va n with
    | .error e => .error e
    | .ok (p, t) =>
      match s.locatePieces q u r with
      | .error e => .error e
      | .ok (ps, ts) => .ok (p :: ps, t :: ts)

/-- A piece of an access to a peer window that begins at `va`, offset `off`. -/
def State.windowSpot (s : State) (kind lk va off : Nat) (p : Nat × Nat) : Spot :=
  { va := p.1, n := p.2, pa := s.windowAt lk kind (off + (p.1 - va)), attr := .window, win := some kind, lk := lk }

/-- The address checks of R164 steps 3 and 4 for the pieces of one access. -/
def State.locate (s : State) (q : Asker) (u : Use) (ps : List (Nat × Nat)) : Except Flt (List Spot × List Trans) :=
  match ps with
  | [] => .ok ([], [])
  | (va, _) :: _ =>
    if 0x410000000000 ≤ va then .error { code := 0x09, addr := va, acc := u.access }
    else if 0x400000000000 ≤ va then
      match s.windowCheck q u va ps with
      | .error c => .error { code := c.1, addr := c.2, acc := u.access }
      | .ok (kind, lk, off) =>
        match (if u.writes && kind = 5 then ps.findSome? fun p => (s.lc lk).mirrorAt (off + (p.1 - va)) p.2 else none) with
        | some i => .error { code := 0x16, addr := peerVA (lk % 65536) 5 (8 * i), acc := u.access }
        | none => .ok (ps.map (s.windowSpot kind lk va off), [])
    else s.locatePieces q u ps

/-- Notes the translations that an access used. -/
def State.noteAll (s : State) (q : Asker) (ts : List Trans) : State := ts.foldl (fun s t => s.noteTrans q.pcore t) s

/-- The first poisoned piece that a read must fault on: any through a window, others on poison-trap pages (R154, R157). -/
def State.poisonHit (s : State) (ps : List Spot) : Option Spot :=
  ps.find? fun p => !p.host && s.poisoned p.pa && (p.win.isSome || p.attr.ptrap)

/-! ## Channel entries that are still to arrive (R268) -/

/-- The mirror of a count is written at the counters page (R266). -/
def State.setMirror (s : State) (lk i n : Nat) : State :=
  s.writePhys (some (s.launch (launchOfLc lk)).ctx) false ((s.lc lk).counterPA i) (leBytes 8 n)

/-- Physical address of the place of an entry in its consumer's ring. -/
def ChanEntry.place (e : ChanEntry) (c : LCore) (x : ChanEnd) : Nat := c.sharePA (x.ring + 64 * (e.index % 2 ^ x.logCap))

/-- An entry is written into its consumer's ring, then the arrived count rises. -/
def State.enterRing (s : State) (e : ChanEntry) : State :=
  match Tbl.find (s.lc e.lc).ends e.inEnd with
  | none => s
  | some x =>
    let who := some (s.launch (launchOfLc e.lc)).ctx
    let s := s.writePhys who false (e.place (s.lc e.lc) x) (leBytes 64 e.data.toNat)
    let x := { x with moved := x.moved + 1 }
    let s := s.modLc e.lc fun c => { c with ends := Tbl.set c.ends e.inEnd x }
    (s.setMirror e.lc (496 + e.inEnd) x.moved).settle

/-- Are two entries of one channel? -/
def ChanEntry.sameEnd (e f : ChanEntry) : Bool := e.lc == f.lc && e.inEnd == f.inEnd

/-- The entries that a firing's release gathers, which are its own and those that come before one of them in its channel, and the others. -/
def gathered (fk : Nat) : List ChanEntry → List ChanEntry × List ChanEntry
  | [] => ([], [])
  | e :: r =>
    let g := gathered fk r
    if e.fk == some fk || r.any fun f => f.fk == some fk && e.sameEnd f then (e :: g.1, g.2) else (g.1, e :: g.2)

/-- The entries of a firing reach their rings, in their order (R37, R169, R189, R268). -/
def State.enterOwn (s : State) (fk : Nat) : State :=
  if s.net.entries.any fun e => e.fk == some fk then
    let g := gathered fk s.net.entries
    g.1.foldl State.enterRing { s with net := { s.net with entries := g.2 } }
  else s

/-- Does a piece of an access lie in the 64-byte line of an entry's place in its ring, or of the count that it raises? -/
def State.entryMeets (s : State) (e : ChanEntry) (p : Spot) : Bool :=
  match Tbl.find (s.lc e.lc).ends e.inEnd with
  | none => false
  | some x =>
    !p.host && (p.pa / 64 == e.place (s.lc e.lc) x / 64 || p.pa / 64 == (s.lc e.lc).counterPA (496 + e.inEnd) / 64)

/-! ## Puts that are still to be performed (R169) -/

/-- A line of HBM or of host memory leaves the L1 of a core. -/
def State.dropL1 (s : State) (pcore : Nat) (host : Bool) (line : Nat) : State :=
  s.modPCore pcore fun p => { p with l1 := p.l1.filter fun l => !(l.host == host && l.line == line) }

/-- A store that hits the core's L1 updates the line (R156). -/
def State.l1Update (s : State) (pcore : Nat) (host : Bool) (pa : Nat) (bs : List Byte) : State :=
  s.modPCore pcore fun p =>
    { p with l1 := p.l1.map fun l =>
        if l.host = host ∧ l.line = pa / 64 then
          let old := leBytes 64 l.data.toNat
          let o := pa % 64
          { l with data := BitVec.ofNat 512 (leNat (old.take o ++ bs ++ old.drop (o + bs.length))) }
        else l }

/-- The word that an increment leaves of a counter word: its count rises by one modulo 2^63, and its poison report stays or is set (R295). -/
def raisedCounter (w : Word) (poison : Bool) : Nat :=
  (countOf w + 1) % 2 ^ 63 + (if w.getLsbD 63 || poison then 2 ^ 63 else 0)

/-- One increment of a counter at its home; every wait and trigger on it is tested (R295, R299, R300). -/
def State.increment (s : State) (who : Option Nat) (pa : Nat) (poison : Bool) : State :=
  (s.writePhys who false pa (leBytes 8 (raisedCounter (s.homeWord pa) poison))).settle

/-- Bytes of an aligned word or cell that a unit writes at its home, or in the device registers that a driver's page shows (R155). -/
def State.writePlain (s : State) (who : Option Nat) (host : Bool) (pa : Nat) (bs : List Byte) : State :=
  if !host && isDeviceReg pa then s.sendRegister pa bs else s.writePhys who host pa bs

/-- One increment of the counter that a put or a command names (R295), which may lie on a page of device registers. -/
def State.raiseCounter (s : State) (who : Option Nat) (pa : Nat) (poison : Bool) : State :=
  (s.writePlain who false pa (leBytes 8 (raisedCounter (s.counterWord pa) poison))).settle

/-- The data of a put are written; the line of the issuing core's L1 takes them too, as the firing's own store does (R164, R187). -/
def State.writePut (s : State) (p : PendingPut) : State :=
  p.parts.foldl
    (fun s g => (if !g.host && isDeviceReg g.pa then s.sendRegister g.pa g.data
                 else (s.writeGranule (some p.ctx) g.host g.pa g.data).l1Update p.pcore g.host g.pa g.data).settle) s

/-- The counter of a put rises, a release that covers what comes before it: at system scope, if the put wrote host memory (R169, R190). The channel
entries of the firing that are on their way are all earlier, for a chput is a release itself. -/
def State.raisePut (s : State) (p : PendingPut) : State :=
  match p.ctr with
  | none => s
  | some (c, _) =>
    let s := s.enterOwn p.fk
    let s := if p.far then s.cleanAll else s
    let s := s.raiseCounter (some p.ctx) c false
    let s := s.l1Update p.pcore false c (s.readHome false c 8)
    if p.far then s.l2Clean (c / 64) else s

/-- What stays of a put whose data are written. -/
def PendingPut.written (p : PendingPut) : Option PendingPut := if p.ctr.isSome then some { p with parts := [] } else none

/-- Puts performed one after the other, each with its data and then its increment. Puts of one firing may come in any order where nothing
orders them (R169); those that a step performs together come in the order of their issue, in which an increment covers all that stands
before it (log 3, DESIGN CHOICE). -/
def State.performAll (s : State) (ps : List PendingPut) : State := ps.foldl (fun s p => (s.writePut p).raisePut p) s

/-- The first `n` puts of a firing, and the others. -/
def splitPuts (fk : Nat) : Nat → List PendingPut → List PendingPut × List PendingPut
  | 0, l => ([], l)
  | _ + 1, [] => ([], [])
  | n + 1, p :: r =>
    if p.fk = fk then let e := splitPuts fk n r; (p :: e.1, e.2) else let e := splitPuts fk (n + 1) r; (e.1, p :: e.2)

/-- The first `n` pending puts of a firing are performed. -/
def State.performFirst (s : State) (fk n : Nat) : State :=
  if n = 0 then s
  else
    let e := splitPuts fk n s.net.puts
    ({ s with net := { s.net with puts := e.2 } } : State).performAll e.1

/-- The number of the first puts of a firing up to and including the last that a test names; 0 without one. -/
def upToLast (fk : Nat) (need : PendingPut → Bool) (l : List PendingPut) : Nat :=
  let mine := l.filter fun x => x.fk = fk
  mine.length - (mine.reverse.takeWhile fun x => !need x).length

/-- Every pending put that a test picks is performed. -/
def State.drainPuts (s : State) (pick : PendingPut → Bool) : State :=
  if s.net.puts.any pick then
    ({ s with net := { s.net with puts := s.net.puts.filter fun x => !pick x } } : State).performAll (s.net.puts.filter pick)
  else s

/-- A put of the asking firing that is performed before its access to a piece: one that writes or counts in the piece's 64-byte line, or
on an SC page when the piece lies on one (R157, R164, R187, R195, R205). -/
def PendingPut.precedes (x : PendingPut) (q : Asker) (p : Spot) : Bool :=
  q.fk == some x.fk &&
    (x.parts.any (fun g => (g.host == p.host && g.pa / 64 == p.pa / 64) || (g.sc && p.attr.sc)) ||
     (match x.ctr with
      | some (c, sc) => (!p.host && c / 64 == p.pa / 64) || (sc && p.attr.sc)
      | none => false))

/-- The firing's own channel entries, and its own puts up to the last that comes before an access to these pieces, are performed in program order before
poison is tested or a byte moves (R187, R189, R195). -/
def State.drainOwn (s : State) (q : Asker) (ps : List Spot) : State :=
  match q.fk with
  | some fk =>
    let t := if s.net.entries.any fun e => e.fk == some fk && ps.any (s.entryMeets e) then s.enterOwn fk else s
    t.performFirst fk (upToLast fk (fun x => ps.any (x.precedes q)) t.net.puts)
  | none => s

/-- An access whose checks have passed: its translations are noted, and the firing's own puts before it are performed. -/
def State.reach (s : State) (q : Asker) (ps : List Spot) (ts : List Trans) : State := (s.noteAll q ts).drainOwn q ps

/-! ## Loads -/

/-- The line of an L1 as it was filled. -/
def State.l1Line (s : State) (pcore : Nat) (host : Bool) (line : Nat) : Option L1Line :=
  (s.pcore pcore).l1.find? fun l => l.host = host && l.line = line

/-- A load that misses fills its line; a full set of eight of the 512 lines gives up its oldest (R156). A line's set is its number modulo 64
(log 4, DESIGN CHOICE). -/
def State.l1Fill (s : State) (pcore : Nat) (host : Bool) (line : Nat) : State :=
  let data := BitVec.ofNat 512 (leNat (s.readHome host (64 * line) 64))
  s.modPCore pcore fun p =>
    let mine := p.l1.filter fun l => l.line % 64 = line % 64
    let keep := if mine.length < 8 then p.l1
      else (match mine.head? with | some o => p.l1.filter (fun l => !(l.host == o.host && l.line == o.line)) | none => p.l1)
    { p with l1 := keep ++ [{ host := host, line := line, data := data }] }

/-- One piece of a load of HBM or host memory: a plain one off an SC page may be answered by the core's L1, and fills it (R156, R188); any other
reads at home, and leaves no older line in the L1 for a later load of the core (R187). Host memory is in no L2 (R350). -/
def State.cachedLoad (s : State) (q : Asker) (plain : Bool) (p : Spot) : List Byte × State :=
  let line := p.pa / 64
  if plain && !p.attr.sc then
    match s.l1Line q.pcore p.host line with
    | some l => (sliceBytes (leBytes 64 l.data.toNat) (p.pa % 64) p.n, s)
    | none =>
      let s := (if p.host then s else s.l2Fill line 3).l1Fill q.pcore p.host line
      (s.readHome p.host p.pa p.n, s)
  else
    let s := (if p.host then s else s.l2Fill line (sectorMask p.pa p.n)).dropL1 q.pcore p.host line
    (s.readHome p.host p.pa p.n, s)

/-- One piece of a load, poison and faults already met: `plain` loads may be answered by the L1 (R156, R188); a poisoned granule
on a page without poison-trap reads as zeros and posts the event (R157). Poison is looked at before the L1, so that a line filled before its granule
was marked does not answer (log 3, DESIGN CHOICE: R163 has poison met in the L2, the memory-side cache and DRAM, and does not speak of an L1). -/
def State.loadSpot (s : State) (q : Asker) (plain : Bool) (p : Spot) : List Byte × State :=
  match p.win with
  | some kind =>
    if kind = 0 || kind = 1 || kind = 5 then (s.readHome false p.pa p.n, s)
    else (s.windowBytes kind p.lk ((p.va - 0x400000000000) % 2 ^ 20) p.n, s)
  | none =>
    if p.host then s.cachedLoad q plain p
    else if isDeviceReg p.pa then (s.regBytes p.pa p.n, s)
    else if s.poisoned p.pa then (List.replicate p.n 0, (s.memError 1 (some q.ctx) p.pa).settle)
    else if isHbm p.pa then s.cachedLoad q plain p
    else (s.physWindow p.pa p.n, s)

/-- The pieces of a load, in ascending order. -/
def State.loadSpots (s : State) (q : Asker) (plain : Bool) : List Spot → List Byte × State
  | [] => ([], s)
  | p :: r =>
    let (b, s) := s.loadSpot q plain p
    let (bs, s) := s.loadSpots q plain r
    (b ++ bs, s)

/-! ## Stores -/

/-- One piece of a store, performed at its home (log 3, DESIGN CHOICE). -/
def State.storeSpot (s : State) (q : Asker) (p : Spot) (bs : List Byte) : State :=
  if p.win.isNone && !p.host && isDeviceReg p.pa then s.sendRegister p.pa bs
  else
    let s := s.writeGranule (some q.ctx) p.host p.pa bs
    if p.win.isNone then s.l1Update q.pcore p.host p.pa bs else s

/-- The pieces of a store, each with its bytes; what waits on a counter is tested at each piece (R299, R300). -/
def State.storeSpots (s : State) (q : Asker) : List (Spot × List Byte) → State
  | [] => s
  | (p, bs) :: r => (s.storeSpot q p bs).settle.storeSpots q r

/-- Gives each piece its bytes of a run. -/
def dealBytes : List Spot → List Byte → List (Spot × List Byte)
  | [], _ => []
  | p :: r, bs => (p, bs.take p.n) :: dealBytes r (bs.drop p.n)

/-! ## Whole accesses by agents other than a firing's load or store -/

/-- Checks and reads `n` bytes with plain loads at home (no L1): an image, a record, a table. -/
def State.fetchBytes (s : State) (q : Asker) (va n : Nat) : Except Flt (List Byte × State) :=
  match s.locate q .load (pieces va n) with
  | .error e => .error e
  | .ok (ps, ts) =>
    let s := s.reach q ps ts
    match s.poisonHit ps with
    | some p => .error { code := 0x0A, addr := p.va, acc := 1 }
    | none => .ok (s.loadSpots q false ps)

/-- Checks and writes bytes. -/
def State.depositBytes (s : State) (q : Asker) (va : Nat) (bs : List Byte) : Except Flt State :=
  match s.locate q .store (pieces va bs.length) with
  | .error e => .error e
  | .ok (ps, ts) => .ok ((s.reach q ps ts).storeSpots q (dealBytes ps bs))

/-- An acquire at cluster scope or wider invalidates the issuing core's L1 (R190). -/
def State.emptyL1 (s : State) (pcore : Nat) : State := s.modPCore pcore fun p => { p with l1 := [] }

/-- A release of the issuing firing at device scope or narrower: its channel entries and its puts are performed, increments included (R169, R189,
R268); stores have reached their homes already. -/
def State.releaseDevice (s : State) : State :=
  (s.enterOwn s.f.key).performFirst s.f.key s.net.puts.length

/-- A release at system scope: besides, every store has reached the memory-side cache (R162, R186). -/
def State.releaseSystem (s : State) : State := s.releaseDevice.cleanAll

/-- A release at a scope code (0 core to 4 system). -/
def State.release (s : State) (scope : Nat) : State := if scope = 4 then s.releaseSystem else s.releaseDevice

/-- An acquire at a scope code. -/
def State.acquire (s : State) (scope : Nat) : State := if scope = 0 then s else s.emptyL1 s.me.pcore

end Sys2Proof.Machine
end

