-- ==== Sys2Proof/Machine/Ops.lean ====
section
/-! DEFINITION. The named operations of a firing: registers, retirement, region restart, taking a fault, the trap service and its return,
and the frame in which every instruction issues (R23, R29, R79, R89 to R92, R98, R207 to R210, R336 to R341). -/

namespace Sys2Proof.Machine

open Sys2Proof

/-! ## Registers -/

/-- A scalar register; s0 reads as zero at all times (R90). -/
def Firing.sreg (g : Firing) (n : BitVec 6) : Word := if n = 0 then 0 else g.regs[n.toNat]'n.isLt

/-- Writes a scalar register; a write to s0 is discarded (R90). -/
def Firing.setSreg (g : Firing) (n : BitVec 6) (v : Word) : Firing :=
  if n = 0 then g else { g with regs := g.regs.set n.toNat v n.isLt }

def Firing.vreg (g : Firing) (n : BitVec 5) : VWord := g.vregs[n.toNat]'n.isLt
def Firing.setVreg (g : Firing) (n : BitVec 5) (v : VWord) : Firing := { g with vregs := g.vregs.set n.toNat v n.isLt }

/-- A predicate register; k0 is all ones at all times (R114). -/
def Firing.kreg (g : Firing) (n : BitVec 4) : PWord := if n = 0 then BitVec.allOnes 512 else g.kregs[n.toNat]'n.isLt

/-- Writes a predicate register; k0 is never written (R114). -/
def Firing.setKreg (g : Firing) (n : BitVec 4) (v : PWord) : Firing :=
  if n = 0 then g else { g with kregs := g.kregs.set n.toNat v n.isLt }

def State.sreg (s : State) (n : BitVec 6) : Word := s.f.sreg n
def State.vreg (s : State) (n : BitVec 5) : VWord := s.f.vreg n
def State.kreg (s : State) (n : BitVec 4) : PWord := s.f.kreg n
def State.setSreg (s : State) (n : BitVec 6) (v : Word) : State := { s with f := s.f.setSreg n v }
def State.setVreg (s : State) (n : BitVec 5) (v : VWord) : State := { s with f := s.f.setVreg n v }
def State.setKreg (s : State) (n : BitVec 4) (v : PWord) : State := { s with f := s.f.setKreg n v }

/-- A scalar register named by a 5-bit field: s0 to s31 (R81). -/
def low (n : BitVec 5) : BitVec 6 := n.zeroExtend 6

/-- The vector register of a 6-bit field, whose values above 31 are refused at decode (R76). -/
def wide (n : BitVec 6) : BitVec 5 := n.truncate 5

/-- ORs flags into FLAGS (R54). -/
def State.raiseFlags (s : State) (fl : BitVec 5) : State := { s with f := { s.f with flags := s.f.flags ||| fl } }

/-! ## Retirement (R29, R89, R207) -/

/-- The firing after an instruction has retired and goes on at `pc`. -/
def Firing.retireTo (g : Firing) (pc : Word) : Firing :=
  { g with pc := pc, yleft := g.yleft - 1, wait := .none,
           region := { g.region with retired := if g.region.isOpen then g.region.retired + 1 else g.region.retired } }

def State.retireTo (s : State) (pc : Word) : State := { s with f := s.f.retireTo pc }

/-! ## Regions that end without a commit (R208 to R210) -/

/-- Writes the outcome field of REGSTAT (R203). -/
def withOutcome (r : Word) (o : Nat) : Word := (r &&& ~~~(7 : Word)) ||| BitVec.ofNat 64 o

/-- REGSTAT of one more attempt: [31:16] rises by one, saturating, and the outcome is open (R209). -/
def nextAttempt (r : Word) : Word :=
  let n := min 65535 (fld r 31 16 + 1)
  withOutcome ((r &&& ~~~(0xFFFF0000 : Word)) ||| BitVec.ofNat 64 (n * 65536)) 1

/-- A region starts again at the instruction after rbegin, from its snapshot (R209, R210). -/
def Firing.restart (g : Firing) : Firing :=
  { g with regs := g.region.snap, pc := g.region.resume, regstat := nextAttempt g.regstat, wait := .none,
           region := { g.region with isOpen := true, hold := [], reads := [], retired := 0 } }

def State.restart (s : State) : State := { s with f := s.f.restart }

/-- A firing whose region is pending after fault 0x08 opens it again when it resumes: its registers are those of the snapshot and its
pc is the instruction after rbegin (R210). -/
def Firing.reopen (g : Firing) : Firing :=
  if fld g.regstat 2 0 = 2 then
    { g with regstat := nextAttempt g.regstat,
             region := { isOpen := true, hold := [], reads := [], snap := g.regs, yleft := g.yleft, resume := g.pc, retired := 0 } }
  else g

/-- A region is discarded with an outcome (R209, R210). -/
def Firing.discardRegion (g : Firing) (o : Nat) : Firing :=
  { g with regstat := withOutcome g.regstat o, region := { g.region with isOpen := false, hold := [], reads := [] } }

/-- Every tracked line keeps its recorded stamp at home (R208, R209, R212). -/
def State.validates (s : State) (r : Region) : Bool :=
  let same (line : Nat) (stamp : Word) : Bool := (s.l2Line line).any fun e => e.stamp == stamp
  r.reads.all (fun x => same x.1 x.2) && r.hold.all fun h => same h.line h.stamp

/-! ## Taking a fault (R98, R208, R210, R336, R337) -/

/-- CAUSE, EPC and FADDR, written together. -/
def Firing.noteFault (g : Firing) (code : Code) (trapCode : BitVec 12) (addr : Word) : Firing :=
  { g with cause := BitVec.ofNat 20 (trapCode.toNat * 256 + code.toNat), epc := g.pc.truncate 48, faddr := addr }

/-- Fault 0x08: the firing is suspended with its whole context; an open region is closed with its snapshot and the YLEFT of rbegin restored,
to start again when the firing resumes (R210, R338). -/
def Firing.suspend (g : Firing) (addr : Word) (acc : BitVec 2) : Firing :=
  let g := { g with st := .suspended, wait := .none, ticket := none, pfAddr := addr.truncate 48, pfAccess := acc }
  if g.region.isOpen then
    { g.discardRegion 2 with regs := g.region.snap, yleft := g.region.yleft, pc := g.region.resume }
  else g

/-- Taking a fault. A fault other than 0x08 and 0x10 inside a region is taken only if the region validates (R208). 0x08 suspends the
firing; every other code ends the launch (0x14 and 0x15 come here only when no trap service takes them). -/
def State.takeFault (s : State) (code : Code) (trapCode : BitVec 12) (addr : Word) (acc : BitVec 2) : State :=
  if s.f.region.isOpen && code != 0x08 && code != 0x10 && !s.validates s.f.region then s.restart
  else
    let s : State := { s with f := s.f.noteFault code trapCode addr }
    if code = 0x08 then ({ s with f := s.f.suspend addr acc } : State).freeSlot s.f.key false
    else
      let s : State := if s.f.region.isOpen then { s with f := s.f.discardRegion 6 } else s
      let s : State := if code = 0x10 then { s with f := { s.f with yleft := 0 } } else s
      ((s.resolveAll s.f.key).stopFiring s.f.key).endLaunch s.myLaunch code

/-! ## The frame of issue (R79) -/

/-- What an instruction that issues does. -/
inductive Eff where
  /-- It retires and the firing goes on at the next instruction. -/
  | retire (s : State)
  /-- It retires and the firing goes on at `pc`. -/
  | jump (s : State) (pc : Word)
  /-- It raises a fault and has no effect (R89). -/
  | fault (code : Code) (addr : Word) (acc : BitVec 2)
  /-- It waits (R26): the firing gives up its slot. -/
  | wait (s : State) (w : Wait)
  /-- A region access met a conflict (R205, R212). -/
  | conflict
  /-- It leaves this state, program counter included. -/
  | leave (s : State)

/-- The release of an instruction comes before what it does next, which finds the registers as the firing's own earlier puts leave them (R187, R189). Where one of
them ended the launch nothing comes next (R42, R338). -/
def State.released (s : State) (next : State → Eff) : Eff :=
  let u := s.releaseDevice
  if u.f.st = .free then .leave u else next u

/-- An address fault as the effect of an instruction. -/
def Eff.ofFlt (e : Flt) : Eff := .fault e.code (BitVec.ofNat 64 e.addr) e.acc

/-- How an instruction issues: its bytes, prefix included; whether it may issue with YLEFT 0 (R29), whether it may be the
4,097th of a region attempt (R207), and whether it needs service mode (R79). -/
structure How where
  len     : Nat
  ends    : Bool
  closes  : Bool
  service : Bool
deriving DecidableEq, Repr

/-- A 32-bit instruction without any of these. -/
def How.word : How := { len := 4, ends := false, closes := false, service := false }

/-- A firing that waits gives up its slot and keeps its context (R26); one whose own put has ended its launch waits for nothing (R338). -/
def State.waitFor (s : State) (w : Wait) : State :=
  if s.f.st = .free then s
  else ({ s with f := { s.f with wait := w, st := .waiting, waited := 0, probes := 0, waitNo := s.f.waitNo + 1 } } : State).freeSlot s.f.key false

/-- The effect of an instruction of `len` bytes. A load that meets a changed stamp is not charged to YLEFT (log 22, DESIGN CHOICE: R205 and
R219 do not say). -/
def State.finish (s : State) (len : Nat) (e : Eff) : State :=
  match e with
  | .retire t => t.retireTo (s.f.pc + BitVec.ofNat 64 len)
  | .jump t pc => t.retireTo pc
  | .fault c a acc => s.takeFault c 0 a acc
  | .wait t w => t.waitFor w
  | .conflict => s.restart
  | .leave t => t

/-- An instruction issues: the faults of R79 steps 6 and 7, the limit of R207, then its own effect. -/
def State.issue (s : State) (h : How) (body : State → Eff) : Outcome :=
  if s.f.st ≠ .running then .fault .noFiring
  else if h.service && !s.f.service then .next (s.takeFault 0x05 0 0 0)
  else if s.f.yleft = 0 && !h.ends then .next (s.takeFault 0x10 0 0 0)
  else if s.f.region.isOpen && 4096 ≤ s.f.region.retired && !h.closes then .next (s.takeFault 0x0E 0 0 0)
  else .next (s.finish h.len (body s))

/-- A scalar instruction that computes one register (R91). -/
def State.compute (s : State) (d : BitVec 6) (v : Word) : Outcome := s.issue .word fun s => .retire (s.setSreg d v)

/-! ## The trap service (R339 to R341) -/

/-- Address of the record of the issuing firing's context in an area (R339). -/
def State.recordVA (s : State) (area : Word) : Nat :=
  (area.toNat + 20480 * (2 * s.me.index + s.f.number)) % 2 ^ 64

/-- The service firing starts in the same context (R25, R341), unless a put of its firing has ended the launch meanwhile (R338). -/
def State.startService (s : State) (record : Nat) : State :=
  if s.f.st = .free then s else
  let c := s.context s.ctxId
  let g := s.f
  let n := s.me.starts
  let g' := { Firing.idle g.key with
    st := .running, yleft := s.job.bound, pc := c.service, cause := g.cause, epc := g.epc, faddr := g.faddr,
    drawc := n.zeroExtend 64 <<< 32, prio := g.prio, pinned := g.pinned, service := true, pip := g.pip, source := g.source,
    seqno := n, outer := g.seqno, slot := g.slot }
  let s : State := { s with f := (g'.setSreg 1 (BitVec.ofNat 64 record)).setSreg 2 c.svcArg }
  s.modLc s.myLc fun c => { c with starts := c.starts + 1 }

/-- TRAP and BKPT (R341): with a service set and outside service mode the instruction retires, the context is written to its trap record and the
service firing starts; otherwise the launch ends. A record that cannot be written ends it with 0x09. -/
def State.trapEntry (s : State) (code : Code) (trapCode : BitVec 12) : State :=
  let c := s.context s.ctxId
  if s.f.service || c.service = 0 then s.takeFault code trapCode 0 0
  else
    let t : State := { s with f := (s.f.noteFault code trapCode 0).retireTo (s.f.pc + 4) }
    let va := t.recordVA c.trapArea
    match t.releaseDevice.depositBytes t.asker va (t.record t.f t.f.pc) with
    | .error _ => s.takeFault 0x09 0 (BitVec.ofNat 64 va) 0
    | .ok u => u.settle.startService va

/-- eret (R341): the trapped firing is restored from its record and goes on at the live EPC plus 4; an acquire at device scope. -/
def State.trapReturn (s : State) : Eff :=
  let va := s.recordVA (s.context s.ctxId).trapArea
  match s.fetchBytes s.asker va 20480 with
  | .error e => .ofFlt e
  | .ok (b, t) =>
    let g := t.f
    let r := g.ofRecord b
    .leave (({ t with f := { r with pc := g.epc.zeroExtend 64 + 4, service := false, seqno := g.outer, outer := 0, wait := .none } } :
      State).acquire 3)

end Sys2Proof.Machine
end

