-- ==== Sys2Proof/Machine/Flags.lean ====
section
/-! DEFINITION. The rounding mode of an instruction, the counter draws, FLAGS and AMAX as instructions change them (R54, R55, R57, R101,
R108, R120, R148 to R151). -/

namespace Sys2Proof.Machine

open Sys2Proof

/-! ## The draw function (R150) -/

/-- One round of D. -/
def drawRound (k : Word) : Word :=
  let k := k * 0xD6E8FEB86659FD93
  k ^^^ (k >>> 32)

/-- D: the 32-bit draw of a key. -/
def drawFn (k : Word) : Nat := (drawRound (drawRound (drawRound (drawRound k)))).toNat % 2 ^ 32

/-- The key of the counter draw `c`. -/
def counterKey (seed : Word) (index : Nat) (c : Word) : Word :=
  seed ^^^ 0x8000000000000000 ^^^ BitVec.ofNat 64 (index * 2 ^ 32) ^^^ BitVec.ofNat 64 (c.toNat % 2 ^ 32) ^^^
    (BitVec.ofNat 64 (c.toNat / 2 ^ 32) * 0xA24BAED4963EE407)

/-- The key of a region's commit draw. -/
def commitKey (seed : Word) (index : Nat) (regseq : Word) : Word :=
  seed ^^^ BitVec.ofNat 64 (index * 2 ^ 32 + regseq.toNat % 2 ^ 32)

/-- The counter draw `n` places after the current one. -/
def State.counterDraw (s : State) (n : Nat) : Nat :=
  drawFn (counterKey s.me.seed s.me.index (s.f.drawc + BitVec.ofNat 64 n))

/-- DRAWC advances by the draws taken. -/
def State.advanceDraws (s : State) (n : Nat) : State := { s with f := { s.f with drawc := s.f.drawc + BitVec.ofNat 64 n } }

/-! ## The mode (R55) -/

/-- The mode of an instruction whose rounding field is `r` (7 without one). -/
def State.mode (s : State) (r : BitVec 3) : Mode := Mode.ofCode (if r = 7 then s.f.round.toNat else r.toNat)

/-- The draw that rounding `n` of an instruction uses: none is taken unless the mode is STO. -/
def State.drawAt (s : State) (md : Mode) (n : Nat) : Nat := if md = .sto then s.counterDraw n else 0

/-- Effects at retirement of an instruction that rounded `n` times in its mode. -/
def State.rounded (s : State) (md : Mode) (n : Nat) (fl : BitVec 5) : State :=
  (if md = .sto then s.advanceDraws n else s).raiseFlags fl

/-- An instruction that rounds in its mode: under STO it faults in an open region (R151). -/
def State.rounding (s : State) (md : Mode) (body : Eff) : Eff :=
  if md = .sto && s.f.region.isOpen then .fault 0x0E 0 0 else body

/-! ## AMAX (R128, R148) -/

/-- AMAX with the magnitude of a value taken in: the larger f32 magnitude, or the NaN-seen bit. Every magnitude of a float or tapered
type is an f32 value. A NaN pattern that srw left in [31:0] is compared as a number, as every other pattern is (log 12, DESIGN CHOICE:
R148 does not say). -/
def takeAmax (a : BitVec 33) (x : FVal) : BitVec 33 :=
  if x.isNan then a ||| 0x100000000
  else
    let p := (Fmt.f32.round .rtz 0 x.abs).pat
    if a.toNat % 2 ^ 32 < p then BitVec.ofNat 33 (a.toNat / 2 ^ 32 * 2 ^ 32 + p) else a

def State.updateAmax (s : State) (lk : Nat) (xs : List FVal) : State :=
  s.modLc lk fun c => { c with amax := xs.foldl takeAmax c.amax }

end Sys2Proof.Machine
end

