-- ==== Sys2Proof/Machine/Static.lean ====
section
/-! DEFINITION. The checks of an instruction that need no state (R79 steps 2, 4 and 5): an element type that the entry does
not list (fault 0x01, R76, R121, R126, R171), a field out of its range (fault 0x02, R76, R81, R82), a register group that is not
aligned (fault 0x04, R118). -/

namespace Sys2Proof

/-- The width of an element of a vector type code (R48, R112): ta6 lies in an 8-bit container (R49). -/
def typeWidth (t : Nat) : Nat :=
  if t ≤ 1 then 8 else if t ≤ 3 then 16 else if t ≤ 6 then 32 else if t ≤ 8 then 16 else if t ≤ 10 then 8 else if t ≤ 12 then 4 else 64

/-- Group I of R121: i8, n8, i16, n16, i32, n32. -/
def tInt (t : BitVec 4) : Bool := decide (t.toNat ≤ 5)
/-- Groups I and Q of R121: with the 4-bit integers. -/
def tIntQ (t : BitVec 4) : Bool := tInt t || t.toNat == 11 || t.toNat == 12
/-- The types of vclmul (R121): n8, n16, n32. -/
def tUnsigned (t : BitVec 4) : Bool := t.toNat == 1 || t.toNat == 3 || t.toNat == 5
/-- Group F of R121: f32, bf16, f16. -/
def tFloat (t : BitVec 4) : Bool := t.toNat == 6 || t.toNat == 7 || t.toNat == 8
/-- The tapered types (R48). -/
def tTapered (t : BitVec 4) : Bool := t.toNat == 9 || t.toNat == 10
/-- Group A of R121: codes 0 to 12. -/
def tAny (t : BitVec 4) : Bool := decide (t.toNat ≤ 12)
/-- The types of vperm (R121): codes 0 to 10. -/
def tPerm (t : BitVec 4) : Bool := decide (t.toNat ≤ 10)
/-- The types of vquant (R121): i8, ta8, ta6, i4. -/
def tQuant (t : BitVec 4) : Bool := t.toNat == 0 || t.toNat == 9 || t.toNat == 10 || t.toNat == 11
/-- The types of gather and scatter (R171): codes 2 to 8. -/
def tGather (t : BitVec 4) : Bool := decide (2 ≤ t.toNat) && decide (t.toNat ≤ 8)
/-- vcvt (R121, R126): both types in group A, and w(src)/w(dst) is 1, 2 or 4. -/
def cvtTypes (dst src : BitVec 4) : Bool :=
  tAny dst && tAny src && [1, 2, 4].any fun q => typeWidth src.toNat == q * typeWidth dst.toNat
/-- vcvtw (R121, R126): both types in group A, and w(dst)/w(src) is 2 or 4. -/
def cvtwTypes (dst src : BitVec 4) : Bool :=
  tAny dst && tAny src && [2, 4].any fun q => typeWidth dst.toNat == q * typeWidth src.toNat
/-- A predicate field above 15 (R76, R81). -/
def badK (k : BitVec 5) : Bool := decide (15 < k.toNat)
/-- A predicate destination above 15 or k0 (R81). -/
def badKDest (k : BitVec 5) : Bool := badK k || k == 0

/-- The instruction names an element type that its entry does not list: fault 0x01 (R76). -/
def Instr.illegal : Instr → Bool
  | .add _ _ _ => false
  | .sub _ _ _ => false
  | .and _ _ _ => false
  | .or _ _ _ => false
  | .xor _ _ _ => false
  | .sll _ _ _ => false
  | .srl _ _ _ => false
  | .sra _ _ _ => false
  | .slt _ _ _ => false
  | .sltu _ _ _ => false
  | .min _ _ _ => false
  | .max _ _ _ => false
  | .minu _ _ _ => false
  | .maxu _ _ _ => false
  | .csel _ _ _ => false
  | .addi _ _ _ => false
  | .lui _ _ => false
  | .auipc _ _ => false
  | .mul _ _ _ => false
  | .mulh _ _ _ => false
  | .mulhu _ _ _ => false
  | .div _ _ _ => false
  | .divu _ _ _ => false
  | .rem _ _ _ => false
  | .remu _ _ _ => false
  | .clz _ _ => false
  | .ctz _ _ => false
  | .popc _ _ => false
  | .rev8 _ _ => false
  | .brev _ _ => false
  | .rotl _ _ _ => false
  | .rotr _ _ _ => false
  | .bext _ _ _ => false
  | .bins _ _ _ => false
  | .clmul _ _ _ => false
  | .clmulh _ _ _ => false
  | .draw _ _ => false
  | .fadd _ _ _ => false
  | .fsub _ _ _ => false
  | .fmul _ _ _ => false
  | .fdiv _ _ _ => false
  | .fsqrt _ _ => false
  | .fmin _ _ _ => false
  | .fmax _ _ _ => false
  | .feq _ _ _ => false
  | .flt _ _ _ => false
  | .fle _ _ _ => false
  | .fclass _ _ => false
  | .fcvtF32I64 _ _ => false
  | .fcvtI64F32 _ _ => false
  | .fcvtF32Fx64 _ _ => false
  | .fcvtFx64F32 _ _ => false
  | .frcp _ _ => false
  | .frsqrt _ _ => false
  | .frcps _ _ _ => false
  | .frsqrts _ _ _ => false
  | .fexp2 _ _ => false
  | .flog2 _ _ => false
  | .fmadd _ _ _ => false
  | .fmsub _ _ _ => false
  | .fnmadd _ _ _ => false
  | .fnmsub _ _ _ => false
  | .beq _ _ _ => false
  | .bne _ _ _ => false
  | .blt _ _ _ => false
  | .bge _ _ _ => false
  | .bltu _ _ _ => false
  | .bgeu _ _ _ => false
  | .btst _ _ _ => false
  | .btstz _ _ _ => false
  | .bz _ _ => false
  | .j _ => false
  | .jal _ _ => false
  | .jalr _ _ _ => false
  | .ldI8 _ _ _ => false
  | .ldN8 _ _ _ => false
  | .ldI16 _ _ _ => false
  | .ldN16 _ _ _ => false
  | .ldI32 _ _ _ => false
  | .ldN32 _ _ _ => false
  | .ld _ _ _ => false
  | .st8 _ _ _ => false
  | .st16 _ _ _ => false
  | .st32 _ _ _ => false
  | .st _ _ _ => false
  | .ldAcqN32 _ _ _ _ => false
  | .ldAcq _ _ _ _ => false
  | .stRel32 _ _ _ _ => false
  | .stRel _ _ _ _ => false
  | .stnt32 _ _ _ => false
  | .stnt _ _ _ => false
  | .amoswap _ _ _ _ => false
  | .amoaddI64 _ _ _ _ => false
  | .amoand _ _ _ _ => false
  | .amoor _ _ _ _ => false
  | .amoxor _ _ _ _ => false
  | .amomaxI64 _ _ _ _ => false
  | .amominI64 _ _ _ _ => false
  | .amomaxN64 _ _ _ _ => false
  | .amominN64 _ _ _ _ => false
  | .amocas _ _ _ _ => false
  | .amoaddI32 _ _ _ _ => false
  | .amoswap32 _ _ _ _ => false
  | .amoaddFx64 _ _ _ _ => false
  | .amoaddF32 _ _ _ _ => false
  | .amocas32 _ _ _ _ => false
  | .fence _ => false
  | .mflush _ _ _ => false
  | .cinv _ _ => false
  | .put _ _ _ => false
  | .putV _ _ _ => false
  | .vld _ _ _ => false
  | .vst _ _ _ => false
  | .vldTa6 _ _ _ => false
  | .vstTa6 _ _ _ => false
  | .vgather t _ _ _ => !tGather t
  | .vscatter t _ _ _ => !tGather t
  | .vaddInt t _ _ _ _ => !tIntQ t
  | .vsubInt t _ _ _ _ => !tIntQ t
  | .vmulInt t _ _ _ _ => !tInt t
  | .vmulh t _ _ _ _ => !tInt t
  | .vadds t _ _ _ _ => !tIntQ t
  | .vsubs t _ _ _ _ => !tIntQ t
  | .vminInt t _ _ _ _ => !tIntQ t
  | .vmaxInt t _ _ _ _ => !tIntQ t
  | .vmadd t _ _ _ _ => !tInt t
  | .vwmul t _ _ _ _ => !tIntQ t
  | .vand t _ _ _ _ => !tIntQ t
  | .vor t _ _ _ _ => !tIntQ t
  | .vxor t _ _ _ _ => !tIntQ t
  | .vshl t _ _ _ _ => !tIntQ t
  | .vshr t _ _ _ _ => !tIntQ t
  | .vclmul t _ _ _ _ => !tUnsigned t
  | .vaddFloat t _ _ _ _ => !tFloat t
  | .vsubFloat t _ _ _ _ => !tFloat t
  | .vmulFloat t _ _ _ _ => !tFloat t
  | .vfma t _ _ _ _ => !tFloat t
  | .vminFloat t _ _ _ _ => !tFloat t
  | .vmaxFloat t _ _ _ _ => !tFloat t
  | .vexp2 _ _ => false
  | .vlog2 _ _ => false
  | .vrcp _ _ => false
  | .vrsqrt _ _ => false
  | .vrcps _ _ _ _ => false
  | .vrsqrts _ _ _ _ => false
  | .vcvt t u _ _ => !cvtTypes t u
  | .vcvtw t u _ _ => !cvtwTypes t u
  | .vquant t _ _ _ => !tQuant t
  | .vamax t _ => !(tFloat t || tTapered t)
  | .vmov t _ _ => !tAny t
  | .vbcast t _ _ => !tAny t
  | .vextract t _ _ _ => !tAny t
  | .vperm t _ _ _ => !tPerm t
  | .vslide t _ _ _ => !tAny t
  | .viota t _ => !tInt t
  | .vredsum t _ _ => !(tInt t || tFloat t)
  | .vredmax t _ _ => !(tInt t || tFloat t)
  | .vredmin t _ _ => !(tInt t || tFloat t)
  | .vsample _ _ _ => false
  | .vcmpeq t _ _ _ => !tAny t
  | .vcmpne t _ _ _ => !tAny t
  | .vcmplt t _ _ _ => !tAny t
  | .vcmple t _ _ _ => !tAny t
  | .vsel t _ _ _ => !tAny t
  | .kand _ _ _ => false
  | .kor _ _ _ => false
  | .kxor _ _ _ => false
  | .kandn _ _ _ => false
  | .kpop _ _ => false
  | .vmov16 _ _ => false
  | .vbcast16 _ _ => false
  | .vaddI3216 _ _ _ => false
  | .vsubI3216 _ _ _ => false
  | .vand16 _ _ _ => false
  | .vor16 _ _ _ => false
  | .vxor16 _ _ _ => false
  | .vshlI3216 _ _ _ => false
  | .vshrN3216 _ _ _ => false
  | .vshrI3216 _ _ _ => false
  | .vminI3216 _ _ _ => false
  | .vmaxI3216 _ _ _ => false
  | .vaddF3216 _ _ _ => false
  | .vsubF3216 _ _ _ => false
  | .vmulF3216 _ _ _ => false
  | .vminF3216 _ _ _ => false
  | .vmaxF3216 _ _ _ => false
  | .pfx _ _ _ _ _ _ => false
  | .pfac _ _ => false
  | .pfacv _ _ _ => false
  | .pdiv _ _ => false
  | .pconv _ => false
  | .pld _ => false
  | .pst _ => false
  | .pget _ _ => false
  | .pstat _ => false
  | .rcommit _ _ => false
  | .rstat _ => false
  | .oclaim _ _ => false
  | .orelease _ => false
  | .ofill _ _ _ _ => false
  | .mma _ _ _ _ => false
  | .mmask _ _ => false
  | .adrain _ _ _ => false
  | .azero _ _ => false
  | .cpy _ _ _ _ => false
  | .cpyt _ _ _ _ => false
  | .halo _ _ _ _ => false
  | .garm _ => false
  | .gset _ _ => false
  | .send _ _ _ => false
  | .sendr _ _ _ => false
  | .bind _ _ => false
  | .unbind _ => false
  | .chput _ _ => false
  | .wclose _ _ => false
  | .spawn _ _ _ => false
  | .spawnj _ _ _ => false
  | .yield _ => false
  | .tset _ _ _ => false
  | .tmark _ _ => false
  | .twait _ _ => false
  | .tstat _ _ => false
  | .tclr _ => false
  | .cwait _ _ _ => false
  | .ctrig _ _ _ => false
  | .evset _ _ => false
  | .evclr _ _ => false
  | .evwait _ _ => false
  | .rinit _ _ _ => false
  | .rnext _ _ => false
  | .tjoin _ _ => false
  | .tleave _ => false
  | .tbar _ => false
  | .launch _ _ => false
  | .digest _ _ _ => false
  | .tkn _ _ _ _ => false
  | .dtkn _ _ _ _ => false
  | .combineMaxi _ _ _ => false
  | .combineAddfx _ _ _ => false
  | .srr _ _ => false
  | .srw _ _ => false
  | .trap _ => false
  | .ntdrain => false
  | .pclr => false
  | .rbegin => false
  | .rabort => false
  | .done => false
  | .eret => false
  | .bkpt => false
  | .halt => false
  | .waiti => false
  | .putPerform => false
  | .regionInstructionLimit => false
  | .ofillStart => false
  | .ofillCompletion => false
  | .mmaStart => false
  | .mmaKstepBoundary => false
  | .mmaCompletion => false
  | .mmaskStart => false
  | .adrainStart => false
  | .adrainCompletion => false
  | .azeroStart => false
  | .copyRequestSend => false
  | .copyStart => false
  | .cpytStart => false
  | .copyCompletion => false
  | .haloStart => false
  | .haloStripDelivery => false
  | .messageArrival => false
  | .sendStatusWrite => false
  | .outboundResend => false
  | .pipAccept => false
  | .wcloseMarkerArrival => false
  | .channelEntryArrival => false
  | .spaceUpdateArrival => false
  | .combineRouterMerge => false
  | .combineRootArrival => false
  | .tknStart => false
  | .tknEntryWrite => false
  | .dtknStart => false
  | .yieldDeadlineOverrun => false
  | .dispatch => false
  | .resumption => false
  | .deadlockProbeSend => false
  | .deadlockProbeReceive => false
  | .launchStart => false
  | .launchCompletion => false
  | .launchEndByFault => false
  | .pageFaultEntryPost => false
  | .pageFaultResume => false
  | .pageFaultRefuse => false
  | .launchQueueTailWrite => false
  | .launchQueueStop => false
  | .launchQueueStopped => false
  | .launchQueueRestart => false
  | .launchQueueOverrunClear => false
  | .launchQueueHeadWrite => false
  | .eventVectorSetWindowWrite => false
  | .eventVectorClearWindowWrite => false
  | .runControlWrite => false
  | .translationInvalidation => false
  | .invalidationDone => false
  | .l2Purge => false
  | .l2PurgeDone => false
  | .addressRangeEntryWrite => false
  | .registerWrite => false
  | .translationWalk => false
  | .mscMissFill => false
  | .scrub => false
  | .pageRetirement => false
  | .replicaDecision => false
  | .replicaTimeout => false
  | .hostWrite => false
  | .hostRead => false
  | .hostMailboxDoorbell => false
  | .deviceMailboxDoorbell => false
  | .ranvikFlitReceive => false
  | .laneFailure => false
  | .linkTraining => false
  | .ranvikPortTraining => false
  | .ethernetWrite => false
  | .textFrameReceive => false
  | .textNoticeResend => false
  | .transmitEntrySend => false
  | .powerOn => false
  | .powerOff => false
  | .idleEntry => false
  | .wake => false
  | .overTemperature => false
  | .criticalTemperature => false
  | .textCommandAccept => false
  | .arithmeticClockCycle => false
  | .ethernetPortTraining => false
  | .telemetryAlarm => false

/-- A field lies outside its range: fault 0x02 (R76, R81, R82). -/
def Instr.badField : Instr → Bool
  | .add _ _ _ => false
  | .sub _ _ _ => false
  | .and _ _ _ => false
  | .or _ _ _ => false
  | .xor _ _ _ => false
  | .sll _ _ _ => false
  | .srl _ _ _ => false
  | .sra _ _ _ => false
  | .slt _ _ _ => false
  | .sltu _ _ _ => false
  | .min _ _ _ => false
  | .max _ _ _ => false
  | .minu _ _ _ => false
  | .maxu _ _ _ => false
  | .csel _ _ _ => false
  | .addi _ _ _ => false
  | .lui _ _ => false
  | .auipc _ _ => false
  | .mul _ _ _ => false
  | .mulh _ _ _ => false
  | .mulhu _ _ _ => false
  | .div _ _ _ => false
  | .divu _ _ _ => false
  | .rem _ _ _ => false
  | .remu _ _ _ => false
  | .clz _ _ => false
  | .ctz _ _ => false
  | .popc _ _ => false
  | .rev8 _ _ => false
  | .brev _ _ => false
  | .rotl _ _ _ => false
  | .rotr _ _ _ => false
  | .bext _ _ _ => false
  | .bins _ _ _ => false
  | .clmul _ _ _ => false
  | .clmulh _ _ _ => false
  | .draw _ _ => false
  | .fadd _ _ _ => false
  | .fsub _ _ _ => false
  | .fmul _ _ _ => false
  | .fdiv _ _ _ => false
  | .fsqrt _ _ => false
  | .fmin _ _ _ => false
  | .fmax _ _ _ => false
  | .feq _ _ _ => false
  | .flt _ _ _ => false
  | .fle _ _ _ => false
  | .fclass _ _ => false
  | .fcvtF32I64 _ _ => false
  | .fcvtI64F32 _ _ => false
  | .fcvtF32Fx64 _ _ => false
  | .fcvtFx64F32 _ _ => false
  | .frcp _ _ => false
  | .frsqrt _ _ => false
  | .frcps _ _ _ => false
  | .frsqrts _ _ _ => false
  | .fexp2 _ _ => false
  | .flog2 _ _ => false
  | .fmadd _ _ _ => false
  | .fmsub _ _ _ => false
  | .fnmadd _ _ _ => false
  | .fnmsub _ _ _ => false
  | .beq _ _ _ => false
  | .bne _ _ _ => false
  | .blt _ _ _ => false
  | .bge _ _ _ => false
  | .bltu _ _ _ => false
  | .bgeu _ _ _ => false
  | .btst _ _ _ => false
  | .btstz _ _ _ => false
  | .bz _ _ => false
  | .j _ => false
  | .jal _ _ => false
  | .jalr _ _ _ => false
  | .ldI8 _ _ _ => false
  | .ldN8 _ _ _ => false
  | .ldI16 _ _ _ => false
  | .ldN16 _ _ _ => false
  | .ldI32 _ _ _ => false
  | .ldN32 _ _ _ => false
  | .ld _ _ _ => false
  | .st8 _ _ _ => false
  | .st16 _ _ _ => false
  | .st32 _ _ _ => false
  | .st _ _ _ => false
  | .ldAcqN32 _ _ c _ => decide (4 < c.toNat)
  | .ldAcq _ _ c _ => decide (4 < c.toNat)
  | .stRel32 _ _ c _ => decide (4 < c.toNat)
  | .stRel _ _ c _ => decide (4 < c.toNat)
  | .stnt32 _ _ _ => false
  | .stnt _ _ _ => false
  | .amoswap _ _ _ c => decide (4 < c.toNat)
  | .amoaddI64 _ _ _ c => decide (4 < c.toNat)
  | .amoand _ _ _ c => decide (4 < c.toNat)
  | .amoor _ _ _ c => decide (4 < c.toNat)
  | .amoxor _ _ _ c => decide (4 < c.toNat)
  | .amomaxI64 _ _ _ c => decide (4 < c.toNat)
  | .amominI64 _ _ _ c => decide (4 < c.toNat)
  | .amomaxN64 _ _ _ c => decide (4 < c.toNat)
  | .amominN64 _ _ _ c => decide (4 < c.toNat)
  | .amocas _ _ _ c => decide (4 < c.toNat)
  | .amoaddI32 _ _ _ c => decide (4 < c.toNat)
  | .amoswap32 _ _ _ c => decide (4 < c.toNat)
  | .amoaddFx64 _ _ _ c => decide (4 < c.toNat)
  | .amoaddF32 _ _ _ c => decide (4 < c.toNat)
  | .amocas32 _ _ _ c => decide (4 < c.toNat)
  | .fence c => decide (4 < c.toNat)
  | .mflush _ _ _ => false
  | .cinv _ _ => false
  | .put _ _ _ => false
  | .putV _ _ c => decide (31 < c.toNat)
  | .vld _ _ _ => false
  | .vst _ _ _ => false
  | .vldTa6 _ _ _ => false
  | .vstTa6 _ _ _ => false
  | .vgather _ _ _ _ => false
  | .vscatter _ _ _ _ => false
  | .vaddInt _ _ _ _ _ => false
  | .vsubInt _ _ _ _ _ => false
  | .vmulInt _ _ _ _ _ => false
  | .vmulh _ _ _ _ _ => false
  | .vadds _ _ _ _ _ => false
  | .vsubs _ _ _ _ _ => false
  | .vminInt _ _ _ _ _ => false
  | .vmaxInt _ _ _ _ _ => false
  | .vmadd _ _ _ _ _ => false
  | .vwmul _ _ _ _ _ => false
  | .vand _ _ _ _ _ => false
  | .vor _ _ _ _ _ => false
  | .vxor _ _ _ _ _ => false
  | .vshl _ _ _ _ _ => false
  | .vshr _ _ _ _ _ => false
  | .vclmul _ _ _ _ _ => false
  | .vaddFloat _ _ _ _ _ => false
  | .vsubFloat _ _ _ _ _ => false
  | .vmulFloat _ _ _ _ _ => false
  | .vfma _ _ _ _ _ => false
  | .vminFloat _ _ _ _ _ => false
  | .vmaxFloat _ _ _ _ _ => false
  | .vexp2 _ _ => false
  | .vlog2 _ _ => false
  | .vrcp _ _ => false
  | .vrsqrt _ _ => false
  | .vrcps _ _ _ _ => false
  | .vrsqrts _ _ _ _ => false
  | .vcvt _ _ _ _ => false
  | .vcvtw _ _ _ _ => false
  | .vquant _ d _ b => decide (b = d)
  | .vamax _ _ => false
  | .vmov _ _ _ => false
  | .vbcast _ _ _ => false
  | .vextract _ _ _ _ => false
  | .vperm _ _ _ _ => false
  | .vslide _ _ _ _ => false
  | .viota _ _ => false
  | .vredsum _ _ _ => false
  | .vredmax _ _ _ => false
  | .vredmin _ _ _ => false
  | .vsample _ _ _ => false
  | .vcmpeq _ d _ _ => badKDest d
  | .vcmpne _ d _ _ => badKDest d
  | .vcmplt _ d _ _ => badKDest d
  | .vcmple _ d _ _ => badKDest d
  | .vsel _ _ _ _ => false
  | .kand d a b => (badKDest d || badK a || badK b)
  | .kor d a b => (badKDest d || badK a || badK b)
  | .kxor d a b => (badKDest d || badK a || badK b)
  | .kandn d a b => (badKDest d || badK a || badK b)
  | .kpop _ a => badK a
  | .vmov16 _ _ => false
  | .vbcast16 _ _ => false
  | .vaddI3216 _ _ _ => false
  | .vsubI3216 _ _ _ => false
  | .vand16 _ _ _ => false
  | .vor16 _ _ _ => false
  | .vxor16 _ _ _ => false
  | .vshlI3216 _ _ _ => false
  | .vshrN3216 _ _ _ => false
  | .vshrI3216 _ _ _ => false
  | .vminI3216 _ _ _ => false
  | .vmaxI3216 _ _ _ => false
  | .vaddF3216 _ _ _ => false
  | .vsubF3216 _ _ _ => false
  | .vmulF3216 _ _ _ => false
  | .vminF3216 _ _ _ => false
  | .vmaxF3216 _ _ _ => false
  | .pfx _ _ _ _ _ _ => false
  | .pfac _ _ => false
  | .pfacv _ a b => (decide (31 < a.toNat) || decide (31 < b.toNat))
  | .pdiv _ _ => false
  | .pconv _ => false
  | .pld _ => false
  | .pst _ => false
  | .pget _ _ => false
  | .pstat _ => false
  | .rcommit _ _ => false
  | .rstat _ => false
  | .oclaim _ _ => false
  | .orelease _ => false
  | .ofill _ _ _ _ => false
  | .mma _ _ _ _ => false
  | .mmask _ _ => false
  | .adrain _ _ _ => false
  | .azero _ a => decide (1 < a.toNat)
  | .cpy _ _ _ _ => false
  | .cpyt _ _ _ _ => false
  | .halo _ _ _ _ => false
  | .garm g => decide (g = 0)
  | .gset g _ => decide (g = 0)
  | .send _ _ c => decide (31 < c.toNat)
  | .sendr _ _ _ => false
  | .bind _ _ => false
  | .unbind _ => false
  | .chput c n => (decide (15 < n.toNat) || decide (31 < c.toNat))
  | .wclose _ _ => false
  | .spawn _ _ _ => false
  | .spawnj _ _ _ => false
  | .yield _ => false
  | .tset _ _ _ => false
  | .tmark _ _ => false
  | .twait _ _ => false
  | .tstat _ _ => false
  | .tclr _ => false
  | .cwait _ _ _ => false
  | .ctrig _ b c => decide ((b = 0) ≠ (c = 0))
  | .evset _ _ => false
  | .evclr _ _ => false
  | .evwait _ _ => false
  | .rinit _ _ _ => false
  | .rnext d _ => decide (d = 0)
  | .tjoin _ _ => false
  | .tleave _ => false
  | .tbar _ => false
  | .launch _ _ => false
  | .digest _ _ _ => false
  | .tkn _ _ _ _ => false
  | .dtkn _ _ _ _ => false
  | .combineMaxi _ _ _ => false
  | .combineAddfx _ _ _ => false
  | .srr _ _ => false
  | .srw _ _ => false
  | .trap _ => false
  | .ntdrain => false
  | .pclr => false
  | .rbegin => false
  | .rabort => false
  | .done => false
  | .eret => false
  | .bkpt => false
  | .halt => false
  | .waiti => false
  | .putPerform => false
  | .regionInstructionLimit => false
  | .ofillStart => false
  | .ofillCompletion => false
  | .mmaStart => false
  | .mmaKstepBoundary => false
  | .mmaCompletion => false
  | .mmaskStart => false
  | .adrainStart => false
  | .adrainCompletion => false
  | .azeroStart => false
  | .copyRequestSend => false
  | .copyStart => false
  | .cpytStart => false
  | .copyCompletion => false
  | .haloStart => false
  | .haloStripDelivery => false
  | .messageArrival => false
  | .sendStatusWrite => false
  | .outboundResend => false
  | .pipAccept => false
  | .wcloseMarkerArrival => false
  | .channelEntryArrival => false
  | .spaceUpdateArrival => false
  | .combineRouterMerge => false
  | .combineRootArrival => false
  | .tknStart => false
  | .tknEntryWrite => false
  | .dtknStart => false
  | .yieldDeadlineOverrun => false
  | .dispatch => false
  | .resumption => false
  | .deadlockProbeSend => false
  | .deadlockProbeReceive => false
  | .launchStart => false
  | .launchCompletion => false
  | .launchEndByFault => false
  | .pageFaultEntryPost => false
  | .pageFaultResume => false
  | .pageFaultRefuse => false
  | .launchQueueTailWrite => false
  | .launchQueueStop => false
  | .launchQueueStopped => false
  | .launchQueueRestart => false
  | .launchQueueOverrunClear => false
  | .launchQueueHeadWrite => false
  | .eventVectorSetWindowWrite => false
  | .eventVectorClearWindowWrite => false
  | .runControlWrite => false
  | .translationInvalidation => false
  | .invalidationDone => false
  | .l2Purge => false
  | .l2PurgeDone => false
  | .addressRangeEntryWrite => false
  | .registerWrite => false
  | .translationWalk => false
  | .mscMissFill => false
  | .scrub => false
  | .pageRetirement => false
  | .replicaDecision => false
  | .replicaTimeout => false
  | .hostWrite => false
  | .hostRead => false
  | .hostMailboxDoorbell => false
  | .deviceMailboxDoorbell => false
  | .ranvikFlitReceive => false
  | .laneFailure => false
  | .linkTraining => false
  | .ranvikPortTraining => false
  | .ethernetWrite => false
  | .textFrameReceive => false
  | .textNoticeResend => false
  | .transmitEntrySend => false
  | .powerOn => false
  | .powerOff => false
  | .idleEntry => false
  | .wake => false
  | .overTemperature => false
  | .criticalTemperature => false
  | .textCommandAccept => false
  | .arithmeticClockCycle => false
  | .ethernetPortTraining => false
  | .telemetryAlarm => false

/-- A register group is not aligned: fault 0x04 (R79, R118). -/
def Instr.badGroup : Instr → Bool
  | .add _ _ _ => false
  | .sub _ _ _ => false
  | .and _ _ _ => false
  | .or _ _ _ => false
  | .xor _ _ _ => false
  | .sll _ _ _ => false
  | .srl _ _ _ => false
  | .sra _ _ _ => false
  | .slt _ _ _ => false
  | .sltu _ _ _ => false
  | .min _ _ _ => false
  | .max _ _ _ => false
  | .minu _ _ _ => false
  | .maxu _ _ _ => false
  | .csel _ _ _ => false
  | .addi _ _ _ => false
  | .lui _ _ => false
  | .auipc _ _ => false
  | .mul _ _ _ => false
  | .mulh _ _ _ => false
  | .mulhu _ _ _ => false
  | .div _ _ _ => false
  | .divu _ _ _ => false
  | .rem _ _ _ => false
  | .remu _ _ _ => false
  | .clz _ _ => false
  | .ctz _ _ => false
  | .popc _ _ => false
  | .rev8 _ _ => false
  | .brev _ _ => false
  | .rotl _ _ _ => false
  | .rotr _ _ _ => false
  | .bext _ _ _ => false
  | .bins _ _ _ => false
  | .clmul _ _ _ => false
  | .clmulh _ _ _ => false
  | .draw _ _ => false
  | .fadd _ _ _ => false
  | .fsub _ _ _ => false
  | .fmul _ _ _ => false
  | .fdiv _ _ _ => false
  | .fsqrt _ _ => false
  | .fmin _ _ _ => false
  | .fmax _ _ _ => false
  | .feq _ _ _ => false
  | .flt _ _ _ => false
  | .fle _ _ _ => false
  | .fclass _ _ => false
  | .fcvtF32I64 _ _ => false
  | .fcvtI64F32 _ _ => false
  | .fcvtF32Fx64 _ _ => false
  | .fcvtFx64F32 _ _ => false
  | .frcp _ _ => false
  | .frsqrt _ _ => false
  | .frcps _ _ _ => false
  | .frsqrts _ _ _ => false
  | .fexp2 _ _ => false
  | .flog2 _ _ => false
  | .fmadd _ _ _ => false
  | .fmsub _ _ _ => false
  | .fnmadd _ _ _ => false
  | .fnmsub _ _ _ => false
  | .beq _ _ _ => false
  | .bne _ _ _ => false
  | .blt _ _ _ => false
  | .bge _ _ _ => false
  | .bltu _ _ _ => false
  | .bgeu _ _ _ => false
  | .btst _ _ _ => false
  | .btstz _ _ _ => false
  | .bz _ _ => false
  | .j _ => false
  | .jal _ _ => false
  | .jalr _ _ _ => false
  | .ldI8 _ _ _ => false
  | .ldN8 _ _ _ => false
  | .ldI16 _ _ _ => false
  | .ldN16 _ _ _ => false
  | .ldI32 _ _ _ => false
  | .ldN32 _ _ _ => false
  | .ld _ _ _ => false
  | .st8 _ _ _ => false
  | .st16 _ _ _ => false
  | .st32 _ _ _ => false
  | .st _ _ _ => false
  | .ldAcqN32 _ _ _ _ => false
  | .ldAcq _ _ _ _ => false
  | .stRel32 _ _ _ _ => false
  | .stRel _ _ _ _ => false
  | .stnt32 _ _ _ => false
  | .stnt _ _ _ => false
  | .amoswap _ _ _ _ => false
  | .amoaddI64 _ _ _ _ => false
  | .amoand _ _ _ _ => false
  | .amoor _ _ _ _ => false
  | .amoxor _ _ _ _ => false
  | .amomaxI64 _ _ _ _ => false
  | .amominI64 _ _ _ _ => false
  | .amomaxN64 _ _ _ _ => false
  | .amominN64 _ _ _ _ => false
  | .amocas _ _ _ _ => false
  | .amoaddI32 _ _ _ _ => false
  | .amoswap32 _ _ _ _ => false
  | .amoaddFx64 _ _ _ _ => false
  | .amoaddF32 _ _ _ _ => false
  | .amocas32 _ _ _ _ => false
  | .fence _ => false
  | .mflush _ _ _ => false
  | .cinv _ _ => false
  | .put _ _ _ => false
  | .putV _ _ _ => false
  | .vld _ _ _ => false
  | .vst _ _ _ => false
  | .vldTa6 _ _ _ => false
  | .vstTa6 _ _ _ => false
  | .vgather _ _ _ _ => false
  | .vscatter _ _ _ _ => false
  | .vaddInt _ _ _ _ _ => false
  | .vsubInt _ _ _ _ _ => false
  | .vmulInt _ _ _ _ _ => false
  | .vmulh _ _ _ _ _ => false
  | .vadds _ _ _ _ _ => false
  | .vsubs _ _ _ _ _ => false
  | .vminInt _ _ _ _ _ => false
  | .vmaxInt _ _ _ _ _ => false
  | .vmadd _ _ _ _ _ => false
  | .vwmul _ _ d _ _ => decide (d.toNat % 2 ≠ 0)
  | .vand _ _ _ _ _ => false
  | .vor _ _ _ _ _ => false
  | .vxor _ _ _ _ _ => false
  | .vshl _ _ _ _ _ => false
  | .vshr _ _ _ _ _ => false
  | .vclmul _ _ d _ _ => decide (d.toNat % 2 ≠ 0)
  | .vaddFloat _ _ _ _ _ => false
  | .vsubFloat _ _ _ _ _ => false
  | .vmulFloat _ _ _ _ _ => false
  | .vfma _ _ _ _ _ => false
  | .vminFloat _ _ _ _ _ => false
  | .vmaxFloat _ _ _ _ _ => false
  | .vexp2 _ _ => false
  | .vlog2 _ _ => false
  | .vrcp _ _ => false
  | .vrsqrt _ _ => false
  | .vrcps _ _ _ _ => false
  | .vrsqrts _ _ _ _ => false
  | .vcvt t u _ a => decide (a.toNat % (typeWidth u.toNat / typeWidth t.toNat) ≠ 0)
  | .vcvtw t u d _ => decide (d.toNat % (typeWidth t.toNat / typeWidth u.toNat) ≠ 0)
  | .vquant _ _ a _ => decide (a.toNat % 4 ≠ 0)
  | .vamax _ _ => false
  | .vmov _ _ _ => false
  | .vbcast _ _ _ => false
  | .vextract _ _ _ _ => false
  | .vperm _ _ _ _ => false
  | .vslide _ _ _ _ => false
  | .viota _ _ => false
  | .vredsum _ _ _ => false
  | .vredmax _ _ _ => false
  | .vredmin _ _ _ => false
  | .vsample _ _ _ => false
  | .vcmpeq _ _ _ _ => false
  | .vcmpne _ _ _ _ => false
  | .vcmplt _ _ _ _ => false
  | .vcmple _ _ _ _ => false
  | .vsel _ _ _ _ => false
  | .kand _ _ _ => false
  | .kor _ _ _ => false
  | .kxor _ _ _ => false
  | .kandn _ _ _ => false
  | .kpop _ _ => false
  | .vmov16 _ _ => false
  | .vbcast16 _ _ => false
  | .vaddI3216 _ _ _ => false
  | .vsubI3216 _ _ _ => false
  | .vand16 _ _ _ => false
  | .vor16 _ _ _ => false
  | .vxor16 _ _ _ => false
  | .vshlI3216 _ _ _ => false
  | .vshrN3216 _ _ _ => false
  | .vshrI3216 _ _ _ => false
  | .vminI3216 _ _ _ => false
  | .vmaxI3216 _ _ _ => false
  | .vaddF3216 _ _ _ => false
  | .vsubF3216 _ _ _ => false
  | .vmulF3216 _ _ _ => false
  | .vminF3216 _ _ _ => false
  | .vmaxF3216 _ _ _ => false
  | .pfx _ _ _ _ _ _ => false
  | .pfac _ _ => false
  | .pfacv _ _ _ => false
  | .pdiv _ _ => false
  | .pconv _ => false
  | .pld _ => false
  | .pst _ => false
  | .pget _ _ => false
  | .pstat _ => false
  | .rcommit _ _ => false
  | .rstat _ => false
  | .oclaim _ _ => false
  | .orelease _ => false
  | .ofill _ _ _ _ => false
  | .mma _ _ _ _ => false
  | .mmask _ _ => false
  | .adrain _ _ _ => false
  | .azero _ _ => false
  | .cpy _ _ _ c => decide (c.toNat % 2 ≠ 0)
  | .cpyt _ _ _ c => decide (c.toNat % 2 ≠ 0)
  | .halo _ _ _ _ => false
  | .garm _ => false
  | .gset _ _ => false
  | .send _ _ _ => false
  | .sendr _ _ _ => false
  | .bind _ _ => false
  | .unbind _ => false
  | .chput _ _ => false
  | .wclose _ _ => false
  | .spawn _ _ c => decide (c.toNat % 2 ≠ 0)
  | .spawnj _ _ c => decide (c.toNat % 2 ≠ 0)
  | .yield _ => false
  | .tset _ _ _ => false
  | .tmark _ _ => false
  | .twait _ _ => false
  | .tstat _ _ => false
  | .tclr _ => false
  | .cwait _ _ _ => false
  | .ctrig _ _ _ => false
  | .evset _ _ => false
  | .evclr _ _ => false
  | .evwait _ _ => false
  | .rinit _ _ _ => false
  | .rnext d _ => decide (d.toNat % 2 ≠ 0)
  | .tjoin _ _ => false
  | .tleave _ => false
  | .tbar _ => false
  | .launch _ _ => false
  | .digest _ _ c => decide (c.toNat % 2 ≠ 0)
  | .tkn _ _ _ _ => false
  | .dtkn _ _ _ _ => false
  | .combineMaxi _ _ _ => false
  | .combineAddfx _ _ _ => false
  | .srr _ _ => false
  | .srw _ _ => false
  | .trap _ => false
  | .ntdrain => false
  | .pclr => false
  | .rbegin => false
  | .rabort => false
  | .done => false
  | .eret => false
  | .bkpt => false
  | .halt => false
  | .waiti => false
  | .putPerform => false
  | .regionInstructionLimit => false
  | .ofillStart => false
  | .ofillCompletion => false
  | .mmaStart => false
  | .mmaKstepBoundary => false
  | .mmaCompletion => false
  | .mmaskStart => false
  | .adrainStart => false
  | .adrainCompletion => false
  | .azeroStart => false
  | .copyRequestSend => false
  | .copyStart => false
  | .cpytStart => false
  | .copyCompletion => false
  | .haloStart => false
  | .haloStripDelivery => false
  | .messageArrival => false
  | .sendStatusWrite => false
  | .outboundResend => false
  | .pipAccept => false
  | .wcloseMarkerArrival => false
  | .channelEntryArrival => false
  | .spaceUpdateArrival => false
  | .combineRouterMerge => false
  | .combineRootArrival => false
  | .tknStart => false
  | .tknEntryWrite => false
  | .dtknStart => false
  | .yieldDeadlineOverrun => false
  | .dispatch => false
  | .resumption => false
  | .deadlockProbeSend => false
  | .deadlockProbeReceive => false
  | .launchStart => false
  | .launchCompletion => false
  | .launchEndByFault => false
  | .pageFaultEntryPost => false
  | .pageFaultResume => false
  | .pageFaultRefuse => false
  | .launchQueueTailWrite => false
  | .launchQueueStop => false
  | .launchQueueStopped => false
  | .launchQueueRestart => false
  | .launchQueueOverrunClear => false
  | .launchQueueHeadWrite => false
  | .eventVectorSetWindowWrite => false
  | .eventVectorClearWindowWrite => false
  | .runControlWrite => false
  | .translationInvalidation => false
  | .invalidationDone => false
  | .l2Purge => false
  | .l2PurgeDone => false
  | .addressRangeEntryWrite => false
  | .registerWrite => false
  | .translationWalk => false
  | .mscMissFill => false
  | .scrub => false
  | .pageRetirement => false
  | .replicaDecision => false
  | .replicaTimeout => false
  | .hostWrite => false
  | .hostRead => false
  | .hostMailboxDoorbell => false
  | .deviceMailboxDoorbell => false
  | .ranvikFlitReceive => false
  | .laneFailure => false
  | .linkTraining => false
  | .ranvikPortTraining => false
  | .ethernetWrite => false
  | .textFrameReceive => false
  | .textNoticeResend => false
  | .transmitEntrySend => false
  | .powerOn => false
  | .powerOff => false
  | .idleEntry => false
  | .wake => false
  | .overTemperature => false
  | .criticalTemperature => false
  | .textCommandAccept => false
  | .arithmeticClockCycle => false
  | .ethernetPortTraining => false
  | .telemetryAlarm => false

/-- The instruction is encoded in 16 bits (R74). -/
def Instr.isShort : Instr → Bool
  | .add _ _ _ => false
  | .sub _ _ _ => false
  | .and _ _ _ => false
  | .or _ _ _ => false
  | .xor _ _ _ => false
  | .sll _ _ _ => false
  | .srl _ _ _ => false
  | .sra _ _ _ => false
  | .slt _ _ _ => false
  | .sltu _ _ _ => false
  | .min _ _ _ => false
  | .max _ _ _ => false
  | .minu _ _ _ => false
  | .maxu _ _ _ => false
  | .csel _ _ _ => false
  | .addi _ _ _ => false
  | .lui _ _ => false
  | .auipc _ _ => false
  | .mul _ _ _ => false
  | .mulh _ _ _ => false
  | .mulhu _ _ _ => false
  | .div _ _ _ => false
  | .divu _ _ _ => false
  | .rem _ _ _ => false
  | .remu _ _ _ => false
  | .clz _ _ => false
  | .ctz _ _ => false
  | .popc _ _ => false
  | .rev8 _ _ => false
  | .brev _ _ => false
  | .rotl _ _ _ => false
  | .rotr _ _ _ => false
  | .bext _ _ _ => false
  | .bins _ _ _ => false
  | .clmul _ _ _ => false
  | .clmulh _ _ _ => false
  | .draw _ _ => false
  | .fadd _ _ _ => false
  | .fsub _ _ _ => false
  | .fmul _ _ _ => false
  | .fdiv _ _ _ => false
  | .fsqrt _ _ => false
  | .fmin _ _ _ => false
  | .fmax _ _ _ => false
  | .feq _ _ _ => false
  | .flt _ _ _ => false
  | .fle _ _ _ => false
  | .fclass _ _ => false
  | .fcvtF32I64 _ _ => false
  | .fcvtI64F32 _ _ => false
  | .fcvtF32Fx64 _ _ => false
  | .fcvtFx64F32 _ _ => false
  | .frcp _ _ => false
  | .frsqrt _ _ => false
  | .frcps _ _ _ => false
  | .frsqrts _ _ _ => false
  | .fexp2 _ _ => false
  | .flog2 _ _ => false
  | .fmadd _ _ _ => false
  | .fmsub _ _ _ => false
  | .fnmadd _ _ _ => false
  | .fnmsub _ _ _ => false
  | .beq _ _ _ => false
  | .bne _ _ _ => false
  | .blt _ _ _ => false
  | .bge _ _ _ => false
  | .bltu _ _ _ => false
  | .bgeu _ _ _ => false
  | .btst _ _ _ => false
  | .btstz _ _ _ => false
  | .bz _ _ => false
  | .j _ => false
  | .jal _ _ => false
  | .jalr _ _ _ => false
  | .ldI8 _ _ _ => false
  | .ldN8 _ _ _ => false
  | .ldI16 _ _ _ => false
  | .ldN16 _ _ _ => false
  | .ldI32 _ _ _ => false
  | .ldN32 _ _ _ => false
  | .ld _ _ _ => false
  | .st8 _ _ _ => false
  | .st16 _ _ _ => false
  | .st32 _ _ _ => false
  | .st _ _ _ => false
  | .ldAcqN32 _ _ _ _ => false
  | .ldAcq _ _ _ _ => false
  | .stRel32 _ _ _ _ => false
  | .stRel _ _ _ _ => false
  | .stnt32 _ _ _ => false
  | .stnt _ _ _ => false
  | .amoswap _ _ _ _ => false
  | .amoaddI64 _ _ _ _ => false
  | .amoand _ _ _ _ => false
  | .amoor _ _ _ _ => false
  | .amoxor _ _ _ _ => false
  | .amomaxI64 _ _ _ _ => false
  | .amominI64 _ _ _ _ => false
  | .amomaxN64 _ _ _ _ => false
  | .amominN64 _ _ _ _ => false
  | .amocas _ _ _ _ => false
  | .amoaddI32 _ _ _ _ => false
  | .amoswap32 _ _ _ _ => false
  | .amoaddFx64 _ _ _ _ => false
  | .amoaddF32 _ _ _ _ => false
  | .amocas32 _ _ _ _ => false
  | .fence _ => false
  | .mflush _ _ _ => false
  | .cinv _ _ => false
  | .put _ _ _ => false
  | .putV _ _ _ => false
  | .vld _ _ _ => false
  | .vst _ _ _ => false
  | .vldTa6 _ _ _ => false
  | .vstTa6 _ _ _ => false
  | .vgather _ _ _ _ => false
  | .vscatter _ _ _ _ => false
  | .vaddInt _ _ _ _ _ => false
  | .vsubInt _ _ _ _ _ => false
  | .vmulInt _ _ _ _ _ => false
  | .vmulh _ _ _ _ _ => false
  | .vadds _ _ _ _ _ => false
  | .vsubs _ _ _ _ _ => false
  | .vminInt _ _ _ _ _ => false
  | .vmaxInt _ _ _ _ _ => false
  | .vmadd _ _ _ _ _ => false
  | .vwmul _ _ _ _ _ => false
  | .vand _ _ _ _ _ => false
  | .vor _ _ _ _ _ => false
  | .vxor _ _ _ _ _ => false
  | .vshl _ _ _ _ _ => false
  | .vshr _ _ _ _ _ => false
  | .vclmul _ _ _ _ _ => false
  | .vaddFloat _ _ _ _ _ => false
  | .vsubFloat _ _ _ _ _ => false
  | .vmulFloat _ _ _ _ _ => false
  | .vfma _ _ _ _ _ => false
  | .vminFloat _ _ _ _ _ => false
  | .vmaxFloat _ _ _ _ _ => false
  | .vexp2 _ _ => false
  | .vlog2 _ _ => false
  | .vrcp _ _ => false
  | .vrsqrt _ _ => false
  | .vrcps _ _ _ _ => false
  | .vrsqrts _ _ _ _ => false
  | .vcvt _ _ _ _ => false
  | .vcvtw _ _ _ _ => false
  | .vquant _ _ _ _ => false
  | .vamax _ _ => false
  | .vmov _ _ _ => false
  | .vbcast _ _ _ => false
  | .vextract _ _ _ _ => false
  | .vperm _ _ _ _ => false
  | .vslide _ _ _ _ => false
  | .viota _ _ => false
  | .vredsum _ _ _ => false
  | .vredmax _ _ _ => false
  | .vredmin _ _ _ => false
  | .vsample _ _ _ => false
  | .vcmpeq _ _ _ _ => false
  | .vcmpne _ _ _ _ => false
  | .vcmplt _ _ _ _ => false
  | .vcmple _ _ _ _ => false
  | .vsel _ _ _ _ => false
  | .kand _ _ _ => false
  | .kor _ _ _ => false
  | .kxor _ _ _ => false
  | .kandn _ _ _ => false
  | .kpop _ _ => false
  | .vmov16 _ _ => true
  | .vbcast16 _ _ => true
  | .vaddI3216 _ _ _ => true
  | .vsubI3216 _ _ _ => true
  | .vand16 _ _ _ => true
  | .vor16 _ _ _ => true
  | .vxor16 _ _ _ => true
  | .vshlI3216 _ _ _ => true
  | .vshrN3216 _ _ _ => true
  | .vshrI3216 _ _ _ => true
  | .vminI3216 _ _ _ => true
  | .vmaxI3216 _ _ _ => true
  | .vaddF3216 _ _ _ => true
  | .vsubF3216 _ _ _ => true
  | .vmulF3216 _ _ _ => true
  | .vminF3216 _ _ _ => true
  | .vmaxF3216 _ _ _ => true
  | .pfx _ _ _ _ _ _ => false
  | .pfac _ _ => false
  | .pfacv _ _ _ => false
  | .pdiv _ _ => false
  | .pconv _ => false
  | .pld _ => false
  | .pst _ => false
  | .pget _ _ => false
  | .pstat _ => false
  | .rcommit _ _ => false
  | .rstat _ => false
  | .oclaim _ _ => false
  | .orelease _ => false
  | .ofill _ _ _ _ => false
  | .mma _ _ _ _ => false
  | .mmask _ _ => false
  | .adrain _ _ _ => false
  | .azero _ _ => false
  | .cpy _ _ _ _ => false
  | .cpyt _ _ _ _ => false
  | .halo _ _ _ _ => false
  | .garm _ => false
  | .gset _ _ => false
  | .send _ _ _ => false
  | .sendr _ _ _ => false
  | .bind _ _ => false
  | .unbind _ => false
  | .chput _ _ => false
  | .wclose _ _ => false
  | .spawn _ _ _ => false
  | .spawnj _ _ _ => false
  | .yield _ => false
  | .tset _ _ _ => false
  | .tmark _ _ => false
  | .twait _ _ => false
  | .tstat _ _ => false
  | .tclr _ => false
  | .cwait _ _ _ => false
  | .ctrig _ _ _ => false
  | .evset _ _ => false
  | .evclr _ _ => false
  | .evwait _ _ => false
  | .rinit _ _ _ => false
  | .rnext _ _ => false
  | .tjoin _ _ => false
  | .tleave _ => false
  | .tbar _ => false
  | .launch _ _ => false
  | .digest _ _ _ => false
  | .tkn _ _ _ _ => false
  | .dtkn _ _ _ _ => false
  | .combineMaxi _ _ _ => false
  | .combineAddfx _ _ _ => false
  | .srr _ _ => false
  | .srw _ _ => false
  | .trap _ => false
  | .ntdrain => false
  | .pclr => false
  | .rbegin => false
  | .rabort => false
  | .done => false
  | .eret => false
  | .bkpt => false
  | .halt => false
  | .waiti => false
  | .putPerform => false
  | .regionInstructionLimit => false
  | .ofillStart => false
  | .ofillCompletion => false
  | .mmaStart => false
  | .mmaKstepBoundary => false
  | .mmaCompletion => false
  | .mmaskStart => false
  | .adrainStart => false
  | .adrainCompletion => false
  | .azeroStart => false
  | .copyRequestSend => false
  | .copyStart => false
  | .cpytStart => false
  | .copyCompletion => false
  | .haloStart => false
  | .haloStripDelivery => false
  | .messageArrival => false
  | .sendStatusWrite => false
  | .outboundResend => false
  | .pipAccept => false
  | .wcloseMarkerArrival => false
  | .channelEntryArrival => false
  | .spaceUpdateArrival => false
  | .combineRouterMerge => false
  | .combineRootArrival => false
  | .tknStart => false
  | .tknEntryWrite => false
  | .dtknStart => false
  | .yieldDeadlineOverrun => false
  | .dispatch => false
  | .resumption => false
  | .deadlockProbeSend => false
  | .deadlockProbeReceive => false
  | .launchStart => false
  | .launchCompletion => false
  | .launchEndByFault => false
  | .pageFaultEntryPost => false
  | .pageFaultResume => false
  | .pageFaultRefuse => false
  | .launchQueueTailWrite => false
  | .launchQueueStop => false
  | .launchQueueStopped => false
  | .launchQueueRestart => false
  | .launchQueueOverrunClear => false
  | .launchQueueHeadWrite => false
  | .eventVectorSetWindowWrite => false
  | .eventVectorClearWindowWrite => false
  | .runControlWrite => false
  | .translationInvalidation => false
  | .invalidationDone => false
  | .l2Purge => false
  | .l2PurgeDone => false
  | .addressRangeEntryWrite => false
  | .registerWrite => false
  | .translationWalk => false
  | .mscMissFill => false
  | .scrub => false
  | .pageRetirement => false
  | .replicaDecision => false
  | .replicaTimeout => false
  | .hostWrite => false
  | .hostRead => false
  | .hostMailboxDoorbell => false
  | .deviceMailboxDoorbell => false
  | .ranvikFlitReceive => false
  | .laneFailure => false
  | .linkTraining => false
  | .ranvikPortTraining => false
  | .ethernetWrite => false
  | .textFrameReceive => false
  | .textNoticeResend => false
  | .transmitEntrySend => false
  | .powerOn => false
  | .powerOff => false
  | .idleEntry => false
  | .wake => false
  | .overTemperature => false
  | .criticalTemperature => false
  | .textCommandAccept => false
  | .arithmeticClockCycle => false
  | .ethernetPortTraining => false
  | .telemetryAlarm => false

/-- The row has an encoding (R71 to R83); the other rows are steps of other agents. -/
def Instr.isEncoded : Instr → Bool
  | .add _ _ _ => true
  | .sub _ _ _ => true
  | .and _ _ _ => true
  | .or _ _ _ => true
  | .xor _ _ _ => true
  | .sll _ _ _ => true
  | .srl _ _ _ => true
  | .sra _ _ _ => true
  | .slt _ _ _ => true
  | .sltu _ _ _ => true
  | .min _ _ _ => true
  | .max _ _ _ => true
  | .minu _ _ _ => true
  | .maxu _ _ _ => true
  | .csel _ _ _ => true
  | .addi _ _ _ => true
  | .lui _ _ => true
  | .auipc _ _ => true
  | .mul _ _ _ => true
  | .mulh _ _ _ => true
  | .mulhu _ _ _ => true
  | .div _ _ _ => true
  | .divu _ _ _ => true
  | .rem _ _ _ => true
  | .remu _ _ _ => true
  | .clz _ _ => true
  | .ctz _ _ => true
  | .popc _ _ => true
  | .rev8 _ _ => true
  | .brev _ _ => true
  | .rotl _ _ _ => true
  | .rotr _ _ _ => true
  | .bext _ _ _ => true
  | .bins _ _ _ => true
  | .clmul _ _ _ => true
  | .clmulh _ _ _ => true
  | .draw _ _ => true
  | .fadd _ _ _ => true
  | .fsub _ _ _ => true
  | .fmul _ _ _ => true
  | .fdiv _ _ _ => true
  | .fsqrt _ _ => true
  | .fmin _ _ _ => true
  | .fmax _ _ _ => true
  | .feq _ _ _ => true
  | .flt _ _ _ => true
  | .fle _ _ _ => true
  | .fclass _ _ => true
  | .fcvtF32I64 _ _ => true
  | .fcvtI64F32 _ _ => true
  | .fcvtF32Fx64 _ _ => true
  | .fcvtFx64F32 _ _ => true
  | .frcp _ _ => true
  | .frsqrt _ _ => true
  | .frcps _ _ _ => true
  | .frsqrts _ _ _ => true
  | .fexp2 _ _ => true
  | .flog2 _ _ => true
  | .fmadd _ _ _ => true
  | .fmsub _ _ _ => true
  | .fnmadd _ _ _ => true
  | .fnmsub _ _ _ => true
  | .beq _ _ _ => true
  | .bne _ _ _ => true
  | .blt _ _ _ => true
  | .bge _ _ _ => true
  | .bltu _ _ _ => true
  | .bgeu _ _ _ => true
  | .btst _ _ _ => true
  | .btstz _ _ _ => true
  | .bz _ _ => true
  | .j _ => true
  | .jal _ _ => true
  | .jalr _ _ _ => true
  | .ldI8 _ _ _ => true
  | .ldN8 _ _ _ => true
  | .ldI16 _ _ _ => true
  | .ldN16 _ _ _ => true
  | .ldI32 _ _ _ => true
  | .ldN32 _ _ _ => true
  | .ld _ _ _ => true
  | .st8 _ _ _ => true
  | .st16 _ _ _ => true
  | .st32 _ _ _ => true
  | .st _ _ _ => true
  | .ldAcqN32 _ _ _ _ => true
  | .ldAcq _ _ _ _ => true
  | .stRel32 _ _ _ _ => true
  | .stRel _ _ _ _ => true
  | .stnt32 _ _ _ => true
  | .stnt _ _ _ => true
  | .amoswap _ _ _ _ => true
  | .amoaddI64 _ _ _ _ => true
  | .amoand _ _ _ _ => true
  | .amoor _ _ _ _ => true
  | .amoxor _ _ _ _ => true
  | .amomaxI64 _ _ _ _ => true
  | .amominI64 _ _ _ _ => true
  | .amomaxN64 _ _ _ _ => true
  | .amominN64 _ _ _ _ => true
  | .amocas _ _ _ _ => true
  | .amoaddI32 _ _ _ _ => true
  | .amoswap32 _ _ _ _ => true
  | .amoaddFx64 _ _ _ _ => true
  | .amoaddF32 _ _ _ _ => true
  | .amocas32 _ _ _ _ => true
  | .fence _ => true
  | .mflush _ _ _ => true
  | .cinv _ _ => true
  | .put _ _ _ => true
  | .putV _ _ _ => true
  | .vld _ _ _ => true
  | .vst _ _ _ => true
  | .vldTa6 _ _ _ => true
  | .vstTa6 _ _ _ => true
  | .vgather _ _ _ _ => true
  | .vscatter _ _ _ _ => true
  | .vaddInt _ _ _ _ _ => true
  | .vsubInt _ _ _ _ _ => true
  | .vmulInt _ _ _ _ _ => true
  | .vmulh _ _ _ _ _ => true
  | .vadds _ _ _ _ _ => true
  | .vsubs _ _ _ _ _ => true
  | .vminInt _ _ _ _ _ => true
  | .vmaxInt _ _ _ _ _ => true
  | .vmadd _ _ _ _ _ => true
  | .vwmul _ _ _ _ _ => true
  | .vand _ _ _ _ _ => true
  | .vor _ _ _ _ _ => true
  | .vxor _ _ _ _ _ => true
  | .vshl _ _ _ _ _ => true
  | .vshr _ _ _ _ _ => true
  | .vclmul _ _ _ _ _ => true
  | .vaddFloat _ _ _ _ _ => true
  | .vsubFloat _ _ _ _ _ => true
  | .vmulFloat _ _ _ _ _ => true
  | .vfma _ _ _ _ _ => true
  | .vminFloat _ _ _ _ _ => true
  | .vmaxFloat _ _ _ _ _ => true
  | .vexp2 _ _ => true
  | .vlog2 _ _ => true
  | .vrcp _ _ => true
  | .vrsqrt _ _ => true
  | .vrcps _ _ _ _ => true
  | .vrsqrts _ _ _ _ => true
  | .vcvt _ _ _ _ => true
  | .vcvtw _ _ _ _ => true
  | .vquant _ _ _ _ => true
  | .vamax _ _ => true
  | .vmov _ _ _ => true
  | .vbcast _ _ _ => true
  | .vextract _ _ _ _ => true
  | .vperm _ _ _ _ => true
  | .vslide _ _ _ _ => true
  | .viota _ _ => true
  | .vredsum _ _ _ => true
  | .vredmax _ _ _ => true
  | .vredmin _ _ _ => true
  | .vsample _ _ _ => true
  | .vcmpeq _ _ _ _ => true
  | .vcmpne _ _ _ _ => true
  | .vcmplt _ _ _ _ => true
  | .vcmple _ _ _ _ => true
  | .vsel _ _ _ _ => true
  | .kand _ _ _ => true
  | .kor _ _ _ => true
  | .kxor _ _ _ => true
  | .kandn _ _ _ => true
  | .kpop _ _ => true
  | .vmov16 _ _ => true
  | .vbcast16 _ _ => true
  | .vaddI3216 _ _ _ => true
  | .vsubI3216 _ _ _ => true
  | .vand16 _ _ _ => true
  | .vor16 _ _ _ => true
  | .vxor16 _ _ _ => true
  | .vshlI3216 _ _ _ => true
  | .vshrN3216 _ _ _ => true
  | .vshrI3216 _ _ _ => true
  | .vminI3216 _ _ _ => true
  | .vmaxI3216 _ _ _ => true
  | .vaddF3216 _ _ _ => true
  | .vsubF3216 _ _ _ => true
  | .vmulF3216 _ _ _ => true
  | .vminF3216 _ _ _ => true
  | .vmaxF3216 _ _ _ => true
  | .pfx _ _ _ _ _ _ => true
  | .pfac _ _ => true
  | .pfacv _ _ _ => true
  | .pdiv _ _ => true
  | .pconv _ => true
  | .pld _ => true
  | .pst _ => true
  | .pget _ _ => true
  | .pstat _ => true
  | .rcommit _ _ => true
  | .rstat _ => true
  | .oclaim _ _ => true
  | .orelease _ => true
  | .ofill _ _ _ _ => true
  | .mma _ _ _ _ => true
  | .mmask _ _ => true
  | .adrain _ _ _ => true
  | .azero _ _ => true
  | .cpy _ _ _ _ => true
  | .cpyt _ _ _ _ => true
  | .halo _ _ _ _ => true
  | .garm _ => true
  | .gset _ _ => true
  | .send _ _ _ => true
  | .sendr _ _ _ => true
  | .bind _ _ => true
  | .unbind _ => true
  | .chput _ _ => true
  | .wclose _ _ => true
  | .spawn _ _ _ => true
  | .spawnj _ _ _ => true
  | .yield _ => true
  | .tset _ _ _ => true
  | .tmark _ _ => true
  | .twait _ _ => true
  | .tstat _ _ => true
  | .tclr _ => true
  | .cwait _ _ _ => true
  | .ctrig _ _ _ => true
  | .evset _ _ => true
  | .evclr _ _ => true
  | .evwait _ _ => true
  | .rinit _ _ _ => true
  | .rnext _ _ => true
  | .tjoin _ _ => true
  | .tleave _ => true
  | .tbar _ => true
  | .launch _ _ => true
  | .digest _ _ _ => true
  | .tkn _ _ _ _ => true
  | .dtkn _ _ _ _ => true
  | .combineMaxi _ _ _ => true
  | .combineAddfx _ _ _ => true
  | .srr _ _ => true
  | .srw _ _ => true
  | .trap _ => true
  | .ntdrain => true
  | .pclr => true
  | .rbegin => true
  | .rabort => true
  | .done => true
  | .eret => true
  | .bkpt => true
  | .halt => true
  | .waiti => true
  | .putPerform => false
  | .regionInstructionLimit => false
  | .ofillStart => false
  | .ofillCompletion => false
  | .mmaStart => false
  | .mmaKstepBoundary => false
  | .mmaCompletion => false
  | .mmaskStart => false
  | .adrainStart => false
  | .adrainCompletion => false
  | .azeroStart => false
  | .copyRequestSend => false
  | .copyStart => false
  | .cpytStart => false
  | .copyCompletion => false
  | .haloStart => false
  | .haloStripDelivery => false
  | .messageArrival => false
  | .sendStatusWrite => false
  | .outboundResend => false
  | .pipAccept => false
  | .wcloseMarkerArrival => false
  | .channelEntryArrival => false
  | .spaceUpdateArrival => false
  | .combineRouterMerge => false
  | .combineRootArrival => false
  | .tknStart => false
  | .tknEntryWrite => false
  | .dtknStart => false
  | .yieldDeadlineOverrun => false
  | .dispatch => false
  | .resumption => false
  | .deadlockProbeSend => false
  | .deadlockProbeReceive => false
  | .launchStart => false
  | .launchCompletion => false
  | .launchEndByFault => false
  | .pageFaultEntryPost => false
  | .pageFaultResume => false
  | .pageFaultRefuse => false
  | .launchQueueTailWrite => false
  | .launchQueueStop => false
  | .launchQueueStopped => false
  | .launchQueueRestart => false
  | .launchQueueOverrunClear => false
  | .launchQueueHeadWrite => false
  | .eventVectorSetWindowWrite => false
  | .eventVectorClearWindowWrite => false
  | .runControlWrite => false
  | .translationInvalidation => false
  | .invalidationDone => false
  | .l2Purge => false
  | .l2PurgeDone => false
  | .addressRangeEntryWrite => false
  | .registerWrite => false
  | .translationWalk => false
  | .mscMissFill => false
  | .scrub => false
  | .pageRetirement => false
  | .replicaDecision => false
  | .replicaTimeout => false
  | .hostWrite => false
  | .hostRead => false
  | .hostMailboxDoorbell => false
  | .deviceMailboxDoorbell => false
  | .ranvikFlitReceive => false
  | .laneFailure => false
  | .linkTraining => false
  | .ranvikPortTraining => false
  | .ethernetWrite => false
  | .textFrameReceive => false
  | .textNoticeResend => false
  | .transmitEntrySend => false
  | .powerOn => false
  | .powerOff => false
  | .idleEntry => false
  | .wake => false
  | .overTemperature => false
  | .criticalTemperature => false
  | .textCommandAccept => false
  | .arithmeticClockCycle => false
  | .ethernetPortTraining => false
  | .telemetryAlarm => false

end Sys2Proof
end

