-- ==== Sys2Proof/Machine/Operands.lean ====
section
/-! DEFINITION. Operand forms of the vector instructions: elements, masks, broadcast scalars, register groups and the frame of R122
(R48, R49, R74, R77, R78, R112, R116 to R122). -/

namespace Sys2Proof.Machine

open Sys2Proof

/-! ## The word before a vector instruction (R77, R78) -/

/-- Mask, zeroing, rounding field and fourth operand. -/
structure Pfx where
  present : Bool
  masked  : Bool
  mask    : BitVec 4
  zeroing : Bool
  round   : BitVec 3
  scalar  : Bool
  fourth  : BitVec 5
deriving DecidableEq, Repr

/-- No word stands before the instruction: every element is active and the mode is that of ROUND. -/
def Pfx.none : Pfx :=
  { present := false, masked := false, mask := 0, zeroing := false, round := 7, scalar := false, fourth := 0 }

/-- Bytes of a vector instruction with or without its prefix. -/
def Pfx.how (p : Pfx) : How := { How.word with len := if p.present then 8 else 4 }

/-- The octave of the core of the issuing firing (R8). -/
def State.myOctave (s : State) : Nat := octaveOf s.me.pcore

/-- A cpyt that takes its record from a vector register, by its control word, and names one above 31 (R245). -/
def State.cpytField (s : State) (b c : BitVec 6) : Bool := !(s.sreg c).getLsbD 41 && decide (31 < b.toNat)

/-- A 16-bit instruction. -/
def How.half : How := { How.word with len := 2 }

/-! ## Lists of elements -/

/-- The `n` fields of `w` bits of a pattern, lowest first. -/
def unpack (w : Nat) : Nat → Nat → List Nat
  | 0, _ => []
  | n + 1, x => x % 2 ^ w :: unpack w n (x / 2 ^ w)

/-- The pattern whose fields of `w` bits are given, lowest first. -/
def pack (w : Nat) : List Nat → Nat
  | [] => 0
  | x :: r => x % 2 ^ w + 2 ^ w * pack w r

/-- Elements of a register at a width. -/
def elems (w : Nat) (v : VWord) : List Nat := unpack w (4096 / w) v.toNat

def packV (w : Nat) (xs : List Nat) : VWord := BitVec.ofNat 4096 (pack w xs)

/-- A 6-bit value in its container: bits [7:6] copy bit 5 (R49). -/
def contain (x : Nat) : Nat := x % 64 + (if bit x 5 then 192 else 0)

/-- An element as its type reads it: a ta6 container gives its low six bits. -/
def readAs (t x : Nat) : Nat := if t = 10 then x % 64 else x

/-- An element as its type is written. -/
def writeAs (t x : Nat) : Nat := if t = 10 then contain x else x

/-- Is a type a signed integer? -/
def isSigned (t : Nat) : Bool := t == 0 || t == 2 || t == 4 || t == 11
def isFloatType (t : Nat) : Bool := t == 6 || t == 7 || t == 8
def isTaperedType (t : Nat) : Bool := t == 9 || t == 10
def isIntType (t : Nat) : Bool := !isFloatType t && !isTaperedType t

/-- The IEEE format of a float type. -/
def fmtOf (t : Nat) : Fmt := if t = 6 then .f32 else if t = 7 then .bf16 else .f16

/-- The width of a tapered type. -/
def taperWidth (t : Nat) : Nat := if t = 9 then 8 else 6

/-- An element as an integer, by the signedness of its type. -/
def intOf (t x : Nat) : Int := if isSigned t then toInt (typeWidth t) x else x

/-- The value of an element of any type (R50, R52, R59). -/
def valueOf (t x : Nat) : FVal :=
  if isFloatType t then (fmtOf t).value x
  else if isTaperedType t then taperedValue (taperWidth t) (readAs t x)
  else ofIntVal (intOf t x)

/-! ## Masks (R116, R117) -/

/-- Bits of a predicate that elements of width `w` read, in element order: the bit of each element's lowest byte. -/
def predBits (k : PWord) (w : Nat) : List Bool :=
  let bytes := (unpack 1 512 k.toNat).map fun x => x == 1
  if w = 4 then bytes.flatMap fun b => [b, b]
  else
    let step := w / 8
    (unpack step (512 / step) k.toNat).map fun x => x % 2 == 1

/-- active(i) for every element of width `w`. -/
def State.actives (s : State) (p : Pfx) (w : Nat) : List Bool :=
  if p.masked then predBits (s.kreg p.mask) w else List.replicate (4096 / w) true

/-! ## Second and fourth operands (R74, R78, R119) -/

/-- A scalar used as every element. -/
def State.broadcast (s : State) (t : Nat) (n : BitVec 5) : List Nat :=
  let w := typeWidth t
  List.replicate (4096 / w) (writeAs t ((s.sreg (low n)).toNat % 2 ^ w))

/-- The second operand: a vector register, or a scalar when fn6 [31] (or bit [15] of the 16-bit form) is set. -/
def State.second (s : State) (t : Nat) (sc : BitVec 1) (b : BitVec 5) : List Nat :=
  if sc = 1 then s.broadcast t b else elems (typeWidth t) (s.vreg b)

/-- The addend: the fourth operand, or the destination without a prefix. -/
def State.third (s : State) (t : Nat) (p : Pfx) (d : BitVec 5) : List Nat :=
  if p.present then (if p.scalar then s.broadcast t p.fourth else elems (typeWidth t) (s.vreg p.fourth))
  else elems (typeWidth t) (s.vreg d)

/-! ## The sweep over the elements (R120, R122) -/

/-- What a sweep made: a result for each active element, the flags, and the roundings made. -/
structure Sweep where
  out   : List (Option Nat)
  flags : BitVec 5
  used  : Nat
deriving DecidableEq, Repr

/-- Runs the operation of each active element in ascending order; each counts one rounding. `draw` gives the draw of a rounding. -/
def sweep (draw : Nat → Nat) : Nat → List (Bool × (Nat → Res)) → Sweep
  | used, [] => { out := [], flags := 0, used := used }
  | used, (a, f) :: r =>
    if a then
      let x := f (draw used)
      let t := sweep draw (used + 1) r
      { out := some x.pat :: t.out, flags := x.flags ||| t.flags, used := t.used }
    else
      let t := sweep draw used r
      { t with out := none :: t.out }

/-- Results merged into the old elements, or zeroed where inactive (R117). -/
def mergeElems (zeroing : Bool) : List (Option Nat) → List Nat → List Nat
  | [], _ => []
  | some x :: r, olds => x :: mergeElems zeroing r (olds.drop 1)
  | none :: r, olds => (if zeroing then 0 else olds.headD 0) :: mergeElems zeroing r (olds.drop 1)

/-- Every `q`-th entry of a list, from entry `r` on. -/
def everyNth {α : Type} (q r : Nat) (xs : List α) : List α :=
  (xs.zipIdx.filter fun e => e.2 % q = r).map fun e => e.1

/-- The register `n` places after another. -/
def after (d : BitVec 5) (n : Nat) : BitVec 5 := d + BitVec.ofNat 5 n

/-- Writes a group of `q` registers with elements of width `w`: result `i` goes to register `d + i mod q` (R118). -/
def State.writeGroup (s : State) (p : Pfx) (q w : Nat) (d : BitVec 5) (out : List (Option Nat)) : State :=
  (List.range q).foldl (fun t r =>
    t.setVreg (after d r) (packV w (mergeElems p.zeroing (everyNth q r out) (elems w (s.vreg (after d r)))))) s

/-- Writes one register with elements of width `w`. -/
def State.writeElems (s : State) (p : Pfx) (w : Nat) (d : BitVec 5) (out : List (Option Nat)) : State :=
  s.setVreg d (packV w (mergeElems p.zeroing out (elems w (s.vreg d))))

/-- Puts lists of equal length side by side, element by element. -/
def interleave : List (List Nat) → Nat → List Nat
  | _, 0 => []
  | ls, n + 1 => ls.map (fun l => l.headD 0) ++ interleave (ls.map fun l => l.drop 1) n

/-- Elements of a group of `q` registers in the order of R118. -/
def State.readGroup (s : State) (q w : Nat) (a : BitVec 5) : List Nat :=
  interleave ((List.range q).map fun r => elems w (s.vreg (after a r))) (4096 / w)

/-- An operation of a list of elements under a mask. -/
def opsOf (act : List Bool) (f : Nat → Nat → Res) (xs : List Nat) : List (Bool × (Nat → Res)) :=
  (act.zip xs).map fun e => (e.1, f e.2)

def ops2 (act : List Bool) (f : Nat → Nat → Nat → Res) (xs ys : List Nat) : List (Bool × (Nat → Res)) :=
  (act.zip (xs.zip ys)).map fun e => (e.1, f e.2.1 e.2.2)

def ops3 (act : List Bool) (f : Nat → Nat → Nat → Nat → Res) (xs ys zs : List Nat) : List (Bool × (Nat → Res)) :=
  (act.zip (xs.zip (ys.zip zs))).map fun e => (e.1, f e.2.1 e.2.2.1 e.2.2.2)

/-- An operation that raises no flag and does not round. -/
def exactly (f : Nat → Nat → Nat) (x y _draw : Nat) : Res := { pat := f x y, flags := 0 }

end Sys2Proof.Machine
end

