-- ==== Sys2Proof/Machine/Integer.lean ====
section
/-! DEFINITION. Integer arithmetic, logic, compares and bit operations on scalar registers, and the draw instruction (R102 to R105,
R150). -/

namespace Sys2Proof.Machine

open Sys2Proof

/-! ## Register ALU (R102) -/

def execAdd (d a b : BitVec 6) (s : State) : Outcome := s.compute d (s.sreg a + s.sreg b)
def execSub (d a b : BitVec 6) (s : State) : Outcome := s.compute d (s.sreg a - s.sreg b)
def execAnd (d a b : BitVec 6) (s : State) : Outcome := s.compute d (s.sreg a &&& s.sreg b)
def execOr (d a b : BitVec 6) (s : State) : Outcome := s.compute d (s.sreg a ||| s.sreg b)
def execXor (d a b : BitVec 6) (s : State) : Outcome := s.compute d (s.sreg a ^^^ s.sreg b)

/-- The shift amount: the low six bits. -/
def shiftBy (b : Word) : Nat := b.toNat % 64

def execSll (d a b : BitVec 6) (s : State) : Outcome := s.compute d (s.sreg a <<< shiftBy (s.sreg b))
def execSrl (d a b : BitVec 6) (s : State) : Outcome := s.compute d (s.sreg a >>> shiftBy (s.sreg b))
def execSra (d a b : BitVec 6) (s : State) : Outcome := s.compute d ((s.sreg a).sshiftRight (shiftBy (s.sreg b)))

/-- 1 for true, 0 for false. -/
def truth (b : Bool) : Word := if b then 1 else 0

def execSlt (d a b : BitVec 6) (s : State) : Outcome := s.compute d (truth ((s.sreg a).slt (s.sreg b)))
def execSltu (d a b : BitVec 6) (s : State) : Outcome := s.compute d (truth ((s.sreg a).ult (s.sreg b)))
def execMin (d a b : BitVec 6) (s : State) : Outcome :=
  s.compute d (if (s.sreg b).slt (s.sreg a) then s.sreg b else s.sreg a)
def execMax (d a b : BitVec 6) (s : State) : Outcome :=
  s.compute d (if (s.sreg a).slt (s.sreg b) then s.sreg b else s.sreg a)
def execMinu (d a b : BitVec 6) (s : State) : Outcome :=
  s.compute d (if (s.sreg b).ult (s.sreg a) then s.sreg b else s.sreg a)
def execMaxu (d a b : BitVec 6) (s : State) : Outcome :=
  s.compute d (if (s.sreg a).ult (s.sreg b) then s.sreg b else s.sreg a)

/-- csel: sd keeps its value when sb is zero. -/
def execCsel (d a b : BitVec 6) (s : State) : Outcome :=
  s.compute d (if s.sreg b = 0 then s.sreg d else s.sreg a)

/-! ## Immediates (R103) -/

def execAddi (d a : BitVec 6) (i : BitVec 13) (s : State) : Outcome := s.compute d (s.sreg a + i.signExtend 64)

/-- lui: imm19 · 2^13 as a 32-bit pattern, sign-extended. -/
def execLui (d : BitVec 6) (i : BitVec 19) (s : State) : Outcome :=
  s.compute d ((i ++ (0 : BitVec 13) : BitVec 32).signExtend 64)

def execAuipc (d : BitVec 6) (i : BitVec 19) (s : State) : Outcome := s.compute d (s.f.pc + (i.signExtend 64 <<< 13))

/-! ## Multiply and divide (R104) -/

def execMul (d a b : BitVec 6) (s : State) : Outcome := s.compute d (s.sreg a * s.sreg b)
def execMulh (d a b : BitVec 6) (s : State) : Outcome :=
  s.compute d (BitVec.ofInt 64 ((s.sreg a).toInt * (s.sreg b).toInt / (2 ^ 64 : Nat)))
def execMulhu (d a b : BitVec 6) (s : State) : Outcome :=
  s.compute d (BitVec.ofNat 64 ((s.sreg a).toNat * (s.sreg b).toNat / 2 ^ 64))

/-- div: truncated toward zero; −1 for a zero divisor, −2^63 for −2^63 by −1. -/
def divSigned (x y : Word) : Word := if y = 0 then BitVec.allOnes 64 else BitVec.ofInt 64 (x.toInt.tdiv y.toInt)
def divUnsigned (x y : Word) : Word := if y = 0 then BitVec.allOnes 64 else BitVec.ofNat 64 (x.toNat / y.toNat)
/-- rem: the sign of the dividend, which is the result for a zero divisor. -/
def remSigned (x y : Word) : Word := if y = 0 then x else BitVec.ofInt 64 (x.toInt.tmod y.toInt)
def remUnsigned (x y : Word) : Word := if y = 0 then x else BitVec.ofNat 64 (x.toNat % y.toNat)

def execDiv (d a b : BitVec 6) (s : State) : Outcome := s.compute d (divSigned (s.sreg a) (s.sreg b))
def execDivu (d a b : BitVec 6) (s : State) : Outcome := s.compute d (divUnsigned (s.sreg a) (s.sreg b))
def execRem (d a b : BitVec 6) (s : State) : Outcome := s.compute d (remSigned (s.sreg a) (s.sreg b))
def execRemu (d a b : BitVec 6) (s : State) : Outcome := s.compute d (remUnsigned (s.sreg a) (s.sreg b))

/-! ## Bit operations (R105) -/

/-- Leading zero bits. -/
def leadingZeros (x : Word) : Nat := trailingZeros 64 (reverseBits 64 x.toNat)

def execClz (d a : BitVec 6) (s : State) : Outcome := s.compute d (BitVec.ofNat 64 (leadingZeros (s.sreg a)))
def execCtz (d a : BitVec 6) (s : State) : Outcome :=
  s.compute d (BitVec.ofNat 64 (trailingZeros 64 (s.sreg a).toNat))
def execPopc (d a : BitVec 6) (s : State) : Outcome := s.compute d (BitVec.ofNat 64 (popCount 64 (s.sreg a).toNat))
def execRev8 (d a : BitVec 6) (s : State) : Outcome := s.compute d (leWord (leBytes 8 (s.sreg a).toNat).reverse)
def execBrev (d a : BitVec 6) (s : State) : Outcome :=
  s.compute d (BitVec.ofNat 64 (reverseBits 64 (s.sreg a).toNat))
def execRotl (d a b : BitVec 6) (s : State) : Outcome := s.compute d ((s.sreg a).rotateLeft (shiftBy (s.sreg b)))
def execRotr (d a b : BitVec 6) (s : State) : Outcome := s.compute d ((s.sreg a).rotateRight (shiftBy (s.sreg b)))

/-- The field that bext and bins name: its lowest bit p and its width min(len, 64 − p). -/
def bitField (b : Word) : Nat × Nat := let p := shiftBy b; (p, min (fld b 14 8) (64 - p))

def execBext (d a b : BitVec 6) (s : State) : Outcome :=
  let f := bitField (s.sreg b)
  s.compute d (BitVec.ofNat 64 ((s.sreg a).toNat / 2 ^ f.1 % 2 ^ f.2))

def execBins (d a b : BitVec 6) (s : State) : Outcome :=
  let f := bitField (s.sreg b)
  let m : Word := BitVec.ofNat 64 ((2 ^ f.2 - 1) * 2 ^ f.1)
  s.compute d ((s.sreg d &&& ~~~m) ||| ((s.sreg a <<< f.1) &&& m))

def execClmul (d a b : BitVec 6) (s : State) : Outcome :=
  s.compute d (BitVec.ofNat 64 (carryless 64 (s.sreg a).toNat (s.sreg b).toNat))
def execClmulh (d a b : BitVec 6) (s : State) : Outcome :=
  s.compute d (BitVec.ofNat 64 (carryless 64 (s.sreg a).toNat (s.sreg b).toNat / 2 ^ 64))

/-! ## draw (R150, R151) -/

/-- The value that draw gives in a mode from its first draw and the next. -/
def drawValue (mode k0 k1 : Nat) : Word :=
  if mode = 0 then BitVec.ofNat 64 k0
  else if mode = 1 then BitVec.ofNat 64 (Fmt.f32.round .rne 0 (FVal.ofRat (k0 / 2 ^ 8 : Nat) (2 ^ 24))).pat
  else if mode = 2 then BitVec.ofNat 64 (Fmt.f32.round .rne 0 (FVal.ofRat (2 * (k0 / 2 ^ 9) + 1 : Nat) (2 ^ 24))).pat
  else BitVec.ofNat 64 (k1 * 2 ^ 32 + k0)

/-- draw: in an open region it faults. -/
def execDraw (d b : BitVec 6) (s : State) : Outcome :=
  s.issue .word fun s =>
    if s.f.region.isOpen then .fault 0x0E 0 0
    else
      let mode := (s.sreg b).toNat % 4
      let v := drawValue mode (s.counterDraw 0) (s.counterDraw 1)
      .retire ((s.setSreg d v).advanceDraws (if mode = 3 then 2 else 1))

end Sys2Proof.Machine
end

