-- ==== Sys2Proof/Machine/Branch.lean ====
section
/-! DEFINITION. Branches and jumps (R76, R106, R107). -/

namespace Sys2Proof.Machine

open Sys2Proof

/-- A branch: to pc + offset when taken, else to the next instruction. -/
def State.branch (s : State) (taken : Bool) (off : Word) : Outcome :=
  s.issue .word fun s => if taken then .jump s (s.f.pc + off) else .retire s

/-- An offset in halfwords as bytes. -/
def halfwords {n : Nat} (o : BitVec n) : Word := o.signExtend 64 <<< 1

def execBeq (a b : BitVec 6) (o : BitVec 10) (s : State) : Outcome := s.branch (s.sreg a == s.sreg b) (halfwords o)
def execBne (a b : BitVec 6) (o : BitVec 10) (s : State) : Outcome := s.branch (s.sreg a != s.sreg b) (halfwords o)
def execBlt (a b : BitVec 6) (o : BitVec 10) (s : State) : Outcome := s.branch ((s.sreg a).slt (s.sreg b)) (halfwords o)
def execBge (a b : BitVec 6) (o : BitVec 10) (s : State) : Outcome := s.branch (!(s.sreg a).slt (s.sreg b)) (halfwords o)
def execBltu (a b : BitVec 6) (o : BitVec 10) (s : State) : Outcome := s.branch ((s.sreg a).ult (s.sreg b)) (halfwords o)
def execBgeu (a b : BitVec 6) (o : BitVec 10) (s : State) : Outcome := s.branch (!(s.sreg a).ult (s.sreg b)) (halfwords o)
def execBtst (a b : BitVec 6) (o : BitVec 10) (s : State) : Outcome :=
  s.branch (s.sreg a &&& s.sreg b != 0) (halfwords o)
def execBtstz (a b : BitVec 6) (o : BitVec 10) (s : State) : Outcome :=
  s.branch (s.sreg a &&& s.sreg b == 0) (halfwords o)

def execBz (d : BitVec 6) (i : BitVec 19) (s : State) : Outcome := s.branch (s.sreg d == 0) (halfwords i)

def execJ (i : BitVec 19) (s : State) : Outcome := s.issue .word fun s => .jump s (s.f.pc + halfwords i)

def execJal (d : BitVec 6) (i : BitVec 19) (s : State) : Outcome :=
  s.issue .word fun s => .jump (s.setSreg d (s.f.pc + 4)) (s.f.pc + halfwords i)

/-- jalr: an odd target faults and leaves sd. -/
def execJalr (d a : BitVec 6) (i : BitVec 13) (s : State) : Outcome :=
  s.issue .word fun s =>
    let t := s.sreg a + i.signExtend 64
    if t.getLsbD 0 then .fault 0x07 t 0 else .jump (s.setSreg d (s.f.pc + 4)) t

end Sys2Proof.Machine
end

