-- ==== Sys2Proof/Machine/Almanac.lean ====
section
/-! DEFINITION. The almanac of a context: values that a deterministic launch records, and takes again in a replay (R314, R315). -/

namespace Sys2Proof.Machine

open Sys2Proof

/-- Word 0 of an entry of the issuing firing (R314). -/
def State.almWord (s : State) (kind : Nat) : Word :=
  BitVec.ofNat 64 (kind * 2 ^ 48 + s.f.seqno.toNat * 2 ^ 16 + s.me.index)

/-- Is there room for `n` more entries? -/
def State.almRoom (s : State) (n : Nat) : Bool :=
  let c := s.context s.ctxId
  decide (c.almIndex.toNat + n ≤ c.almCap.toNat)

/-- Appends an entry at the write index of a record run. -/
def State.almAppend (s : State) (kind : Nat) (v : Word) : Except Flt State :=
  let c := s.context s.ctxId
  let va := (c.almBase.toNat + 16 * c.almIndex.toNat) % 2 ^ 64
  match s.depositBytes s.asker va (leBytes 8 (s.almWord kind).toNat ++ leBytes 8 v.toNat) with
  | .error e => .error e
  | .ok t => .ok (t.modContext t.ctxId fun c => { c with almIndex := c.almIndex + 1 })

/-- The first entry from index `i` on, `n` of them left, of this logical core and firing sequence that is not consumed: its index, its kind with
the reserved bits above it, which make no kind (R3, R314), and its value. -/
def State.almSearch (s : State) : Nat → Nat → Except Flt (Option (Nat × Nat × Word))
  | 0, _ => .ok none
  | n + 1, i =>
    let c := s.context s.ctxId
    if c.consumed.contains i then s.almSearch n (i + 1)
    else
      match s.fetchBytes s.asker ((c.almBase.toNat + 16 * i) % 2 ^ 64) 16 with
      | .error e => .error e
      | .ok (b, _) =>
        let w := recWord b 0
        if fld w 15 0 = s.me.index ∧ fld w 47 16 = s.f.seqno.toNat then .ok (some (i, fld w 63 48, recWord b 8))
        else s.almSearch n (i + 1)

/-- Takes the next entry in a replay run; none, or one of another kind, is fault 0x13. -/
def State.almTake (s : State) (kind : Nat) : Except Flt (Word × State) :=
  match s.almSearch (min (s.context s.ctxId).almIndex.toNat (s.context s.ctxId).almCap.toNat) 0 with
  | .error e => .error e
  | .ok none => .error { code := 0x13, addr := 0, acc := 0 }
  | .ok (some (i, k, v)) =>
    if k = kind then .ok (v, s.modContext s.ctxId fun c => { c with consumed := i :: c.consumed })
    else .error { code := 0x13, addr := 0, acc := 0 }

/-- Values that an instruction reads, each with its kind: outside a deterministic launch as they are, in a record run appended, in a
replay taken from the almanac. -/
def State.recordEach (s : State) : List (Nat × Word) → Except Flt (List Word × State)
  | [] => .ok ([], s)
  | (k, v) :: r =>
    let one : Except Flt (Word × State) :=
      if !s.job.det then .ok (v, s)
      else if s.job.replay then s.almTake k
      else (s.almAppend k v).map fun t => (v, t)
    match one with
    | .error e => .error e
    | .ok (w, t) =>
      match t.recordEach r with
      | .error e => .error e
      | .ok (ws, u) => .ok (w :: ws, u)

/-- Recorded reads of one instruction; a record run without room for all of them is fault 0x13 and has no effect. -/
def State.recorded (s : State) (reads : List (Nat × Word)) : Except Flt (List Word × State) :=
  if s.job.det && !s.job.replay && !s.almRoom reads.length then .error { code := 0x13, addr := 0, acc := 0 }
  else s.recordEach reads

end Sys2Proof.Machine
end

