-- ==== Sys2Proof/Machine/RegionAccess.lean ====
section
/-! DEFINITION. Reads and writes of an instruction: plain ones outside a region (R164, R165), and inside an open region through its read
set and its write-hold buffer (R205). -/

namespace Sys2Proof.Machine

open Sys2Proof

/-- What an access gave: bytes and a state, or the effect that ends the instruction. -/
inductive Got where
  | ok (bytes : List Byte) (s : State)
  | stop (e : Eff)

/-- What a store gave. -/
inductive Put where
  | ok (s : State)
  | stop (e : Eff)

/-! ## Lines of a region (R205) -/

/-- Does an access begin in the peer-window segment? -/
def inWindow : List (Nat × Nat) → Bool
  | [] => false
  | (va, _) :: _ => decide (0x400000000000 ≤ va) && decide (va < 0x410000000000)

/-- A piece that a region may not name: an SC page, host memory, or no HBM. -/
def Spot.offRegion (p : Spot) : Bool := p.attr.sc || p.attr.host || !isHbm p.pa

/-- A line enters the read set with its stamp; a changed stamp is a conflict, a 65th line fault 0x0E. -/
def State.trackRead (s : State) (line : Nat) (need : BitVec 2) : Except Eff State :=
  let (v, t) := s.lineStamp line need
  let rg := s.f.region
  match rg.reads.find? fun x => x.1 = line with
  | some x => if x.2 = v then .ok t else .error .conflict
  | none =>
    if 64 ≤ rg.reads.length then .error (.fault 0x0E 0 0)
    else .ok { t with f := { t.f with region := { rg with reads := rg.reads ++ [(line, v)] } } }

def State.trackReads (s : State) : List Spot → Except Eff State
  | [] => .ok s
  | p :: r =>
    match s.trackRead (p.pa / 64) (sectorMask p.pa p.n) with
    | .error e => .error e
    | .ok t => t.trackReads r

/-- Bytes of a piece with the held bytes of its line laid over them. -/
def Region.overlay (rg : Region) (p : Spot) (bs : List Byte) : List Byte :=
  match rg.hold.find? fun h => h.line = p.pa / 64 with
  | none => bs
  | some h =>
    bs.zipIdx.map fun e =>
      let o := p.pa % 64 + e.2
      if h.mask.getLsbD o then h.data.extractLsb' (8 * o) 8 else e.1

/-- Held bytes of a line with a store laid over them. -/
def HoldLine.write (h : HoldLine) (o : Nat) (bs : List Byte) : HoldLine :=
  let n := bs.length
  let m : BitVec 512 := BitVec.ofNat 512 ((2 ^ (8 * n) - 1) * 2 ^ (8 * o))
  { h with mask := h.mask ||| BitVec.ofNat 64 ((2 ^ n - 1) * 2 ^ o),
           data := (h.data &&& ~~~m) ||| BitVec.ofNat 512 (leNat bs * 2 ^ (8 * o)) }

/-- A store enters the write-hold buffer; a 17th line is fault 0x0E. -/
def State.holdStore (s : State) (p : Spot) (bs : List Byte) : Except Eff State :=
  let line := p.pa / 64
  let o := p.pa % 64
  let rg := s.f.region
  if rg.hold.any fun h => h.line = line then
    .ok { s with f := { s.f with region :=
      { rg with hold := rg.hold.map fun h => if h.line = line then h.write o bs else h } } }
  else if 16 ≤ rg.hold.length then .error (.fault 0x0E 0 0)
  else
    let (v, t) := s.lineStamp line (sectorMask p.pa p.n)
    let h : HoldLine := { line := line, mask := 0, data := 0, stamp := v }
    .ok { t with f := { t.f with region := { rg with hold := rg.hold ++ [h.write o bs] } } }

def State.holdStores (s : State) : List (Spot × List Byte) → Except Eff State
  | [] => .ok s
  | (p, bs) :: r =>
    match s.holdStore p bs with
    | .error e => .error e
    | .ok t => t.holdStores r

/-- The bytes that pieces of a region's load give. -/
def State.regionBytes (s : State) : List Spot → List Byte × State
  | [] => ([], s)
  | p :: r =>
    let (b, t) := s.loadSpot s.asker false p
    let (bs, u) := t.regionBytes r
    (t.f.region.overlay p b ++ bs, u)

/-! ## Reading and writing the pieces of an access -/

/-- Reads the pieces of an access: the checks of R164 in order, then the bytes. `plain` reads may be answered by the L1. -/
def State.readPieces (s : State) (ps : List (Nat × Nat)) (plain : Bool) : Got :=
  if s.f.region.isOpen && inWindow ps then .stop (.fault 0x0E 0 0)
  else
    match s.locate s.asker .load ps with
    | .error e => .stop (.ofFlt e)
    | .ok (sp, ts) =>
      let t := s.reach s.asker sp ts
      if s.f.region.isOpen then
        if sp.any fun p => p.offRegion then .stop (.fault 0x0E 0 0)
        else
          match t.trackReads sp with
          | .error e => .stop e
          | .ok u =>
            match u.poisonHit sp with
            | some p => .stop (.fault 0x0A (BitVec.ofNat 64 p.va) 1)
            | none => let (b, v) := u.regionBytes sp; .ok b v
      else
        match t.poisonHit sp with
        | some p => .stop (.fault 0x0A (BitVec.ofNat 64 p.va) 1)
        | none => let (b, v) := t.loadSpots t.asker plain sp; .ok b v

/-- Writes bytes to the pieces of an access. -/
def State.writePieces (s : State) (ps : List (Nat × Nat)) (bs : List Byte) : Put :=
  if s.f.region.isOpen && inWindow ps then .stop (.fault 0x0E 0 0)
  else
    match s.locate s.asker .store ps with
    | .error e => .stop (.ofFlt e)
    | .ok (sp, ts) =>
      let t := s.reach s.asker sp ts
      if s.f.region.isOpen then
        if sp.any fun p => p.offRegion then .stop (.fault 0x0E 0 0)
        else
          match t.holdStores (dealBytes sp bs) with
          | .error e => .stop e
          | .ok u => .ok u
      else .ok (t.storeSpots t.asker (dealBytes sp bs)).settle

/-- A load of `n` bytes with its alignment. -/
def State.loadAt (s : State) (ea : Word) (n align : Nat) (plain : Bool) : Got :=
  if ea.toNat % align ≠ 0 then .stop (.fault 0x07 ea 1) else s.readPieces (pieces ea.toNat n) plain

/-- A store of bytes with its alignment. -/
def State.storeAt (s : State) (ea : Word) (align : Nat) (bs : List Byte) : Put :=
  if ea.toNat % align ≠ 0 then .stop (.fault 0x07 ea 2) else s.writePieces (pieces ea.toNat bs.length) bs

/-- The effect of an access that raises fault 0x0E inside an open region (R164, R206). -/
def State.outside (s : State) (body : Eff) : Eff := if s.f.region.isOpen then .fault 0x0E 0 0 else body

end Sys2Proof.Machine
end

