-- ==== Sys2Proof/Machine/Delivery.lean ====
section
/-! DEFINITION. Placing pips and delivering messages: join cells (R21, R257, R258, R296, R297), mailboxes, park and delivery windows (R261 to
R265, R269, R270), channel counts (R266 to R268). -/

namespace Sys2Proof.Machine

open Sys2Proof

/-! ## Outbound items (R257) -/

/-- An item enters the outbound buffer of a logical core. -/
def State.addItem (s : State) (lk : Nat) (o : Out) : State :=
  s.modLc lk fun c =>
    { c with outbound := c.outbound ++ [{ num := c.outNext, what := o, full := false, decided := false }], outNext := c.outNext + 1 }

/-- Is a logical core still there? -/
def State.hasCore (s : State) (lk : Nat) : Bool := (Tbl.find s.lcores lk).isSome

/-- A join pip that waits takes an item when one of the eight is free (R257). -/
def LCore.takeJoin (c : LCore) : LCore :=
  match c.joins with
  | [] => c
  | o :: r =>
    if c.outbound.length < 8 then
      { c with outbound := c.outbound ++ [{ num := c.outNext, what := o, full := false, decided := false }], outNext := c.outNext + 1, joins := r }
    else c

/-- An item leaves the outbound buffer. -/
def State.dropItem (s : State) (lk num : Nat) : State :=
  if !s.hasCore lk then s
  else s.modLc lk fun c => { c with outbound := c.outbound.filter fun o => o.num ≠ num }.takeJoin

/-- The join pip of a done takes an item, now or when one is free (R257). -/
def State.joinItem (s : State) (lk : Nat) (o : Out) : State := s.modLc lk fun c => { c with joins := c.joins ++ [o] }.takeJoin

/-- The outcome of a message of item `num` is known (R263, R264): an accepted one leaves the buffer now, any other when its status is
written, which is now if it names no status word. -/
def State.decideItem (s : State) (lk num : Nat) (m : Msg) (code : Nat) : State :=
  let keep := code != 1 && m.status.isSome
  let s := if keep then
      s.modLc lk fun c => { c with outbound := c.outbound.map fun o => if o.num = num then { o with decided := true } else o }
    else s.dropItem lk num
  match m.status with
  | none => s
  | some (pa, host) =>
    let w : StatusWrite := { ctx := (s.launch (launchOfLc lk)).ctx, pa := pa, host := host, value := BitVec.ofNat 64 (m.ticket.toNat * 2 ^ 32 + code), lc := lk, num := num }
    { s with net := { s.net with status := s.net.status ++ [w] } }

/-- The flit that carries a message to another device (R264, R353). -/
def State.messageFlit (s : State) (tag : BitVec 32) (m : Msg) (d : BitVec 18) : Flit :=
  s.flit 2 1 d (.message tag (BitVec.ofNat 16 m.target) m.tag m.dev m.sender m.ticket m.data m.launch)

/-- An item is placed: a message to another device leaves on Ranvik, and one whose context has no pairing finds no target (R356). -/
def State.placeItem (s : State) (lk : Nat) (o : Out) : State :=
  let num := (s.lc lk).outNext
  let t := s.addItem lk o
  match o with
  | .far m d =>
    match (s.context (s.launch (launchOfLc lk)).ctx).tag with
    | some tag => t.emit [s.messageFlit tag m d]
    | none => t.decideItem lk num m 4
  | _ => t

/-- What a pip is bound for: pinned pips and every pip of a deterministic launch to a logical core, others to a cluster (R44, R257). -/
def State.pipItem (s : State) (p : Pip) : Out :=
  let launch := s.myLaunch
  if p.isPinned then .pip (QPip.make p .pinned launch) (some (lcKey launch p.target)) 0
  else if s.job.det then .pip (QPip.make p .pinned launch) (some s.myLc) 0
  else .pip (QPip.make p .free launch) none (clusterOf s.me.pcore)

/-! ## Join cells (R296, R297) -/

/-- A pip that breaks R21. -/
def Pip.faulty (p : Pip) (ncore : Nat) : Bool :=
  fld p.w0 59 48 != 0 || p.w0.getLsbD 0 || (!p.isPinned && p.target != 0) || (!p.hasJoin && p.cell != 0) ||
  p.cell % 64 != 0 || (p.isPinned && decide (ncore ≤ p.target))

/-- Where a join cell lies: an aligned writable cell of the memory space, not of host memory. -/
def State.locateCell (s : State) (va : Nat) : Except Flt (Nat × State) :=
  if va % 64 ≠ 0 then .error { code := 0x07, addr := va, acc := 2 }
  else if 0x400000000000 ≤ va then .error { code := 0x09, addr := va, acc := 2 }
  else
    match s.locate s.asker (.atomic 8) (pieces va 64) with
    | .error e => .error e
    | .ok (sp, ts) =>
      let pa := sp.head?.elim 0 fun p => p.pa
      let t := s.reach s.asker sp ts
      if t.poisoned pa then .error { code := 0x0A, addr := va, acc := 2 } else .ok (pa, t)

/-- The count of a cell changes by an indivisible read-modify-write where it lies. -/
def State.addCell (s : State) (pa : Nat) (d : Word) : State :=
  let v := s.counterWord pa + d
  (s.writePlain (some s.ctxId) false pa (leBytes 8 v.toNat)).dropL1 s.me.pcore false (pa / 64)

/-- The pip of a cell. -/
def State.cellPip (s : State) (pa : Nat) : Pip :=
  let b := s.physBytes false (pa + 32) 32
  { w0 := recWord b 0, w1 := recWord b 8, w2 := recWord b 16, w3 := recWord b 24 }

/-- A decrement of a cell already located (bytes 8 to 31 of the cell, which R296 reserves and for which R297 names no fault, are not looked at:
log 16, DESIGN CHOICE), a release at device scope: the step from 1 to 0 gives its pip, which is counted live, as an item
for the outbound buffer. A faulty pip is fault 0x02, which ends the launch. -/
def State.dropCell (s : State) (pa : Nat) : Except Code (Option Out × State) :=
  let t := s.releaseDevice.addCell pa (BitVec.allOnes 64)
  if t.counterWord pa = 0 then
    let p := t.cellPip pa
    if p.faulty t.job.ncore then .error 0x02
    else .ok (some (t.pipItem p), t.addLive t.myLaunch 1)
  else .ok (none, t)

/-! ## Mailbox and park (R261 to R265) -/

def LCore.binding (c : LCore) (tag : Byte) : Option Word := Tbl.find c.binds tag.toNat

/-- A bound tag with room in its class and in the mailbox. -/
def LCore.hasRoom (c : LCore) (tag : Byte) : Bool :=
  (c.binding tag).isSome && decide (c.classCount (tagClass tag) < c.depth (tagClass tag)) && decide (c.mbox.length < 16)

/-- The lowest free entry. -/
def LCore.freeEntry (c : LCore) : Nat := ((List.range 16).find? fun i => (Tbl.find c.mbox i).isNone).getD 0

/-- Offset of an entry of the receive area. -/
def LCore.entryOffset (c : LCore) (i : Nat) : Nat := c.shareSize - 1024 + 64 * i

/-- The sender word of a message (R262). -/
def Msg.senderWord (m : Msg) : Word :=
  BitVec.ofNat 64 (m.dev.toNat * 2 ^ 32 + m.sender.toNat * 2 ^ 16 + m.tag.toNat * 2 ^ 8 + m.data.length)

/-- The pip of a mailbox entry: class 1 (R262). Of the handler's code VA it takes the 48 bits that w0 has for it: bits [63:48] raise nothing at bind and
are dropped here (log 16, DESIGN CHOICE: R265 faults on bit 0 alone and does not speak of them). -/
def LCore.handlerPip (c : LCore) (i : Nat) (launch : Nat) : QPip :=
  let e := Tbl.get { tag := 0, code := 0, sender := 0, delivery := 0, epoch := 0 } c.mbox i
  QPip.make { w0 := BitVec.ofNat 64 (fld e.code 47 0), w1 := BitVec.ofNat 64 (peerVA c.index 0 (c.entryOffset i)), w2 := e.sender, w3 := 0 }
    (.message i) launch

/-- A message takes a mailbox entry: its payload goes to the receive area, and the wake bit is set. Its pip becomes dispatchable unless
the message is held for its window. The delivery number of the entry is the accepted count as the entry is taken, so that entries taken for arrivals
that were parked may have one number (log 16, DESIGN CHOICE: R261 does not say what the number counts). -/
def State.takeEntry (s : State) (lk : Nat) (m : Msg) (held : Bool) : State :=
  let c := s.lc lk
  let i := c.freeEntry
  let e : MboxEntry :=
    { tag := m.tag, code := (c.binding m.tag).getD 0, sender := m.senderWord, delivery := c.accepted.toNat, epoch := m.epoch }
  let s := s.writePhys (some (s.launch (launchOfLc lk)).ctx) false (c.sharePA (c.entryOffset i)) (sliceBytes m.data 0 64)
  let s := s.modLc lk fun c =>
    let c := { c with mbox := Tbl.set c.mbox i e, wake := true }
    if held then { c with heldMsgs := c.heldMsgs ++ [(m, some i)] }
    else { c with arrivals := c.arrivals ++ [c.handlerPip i (launchOfLc lk)] }
  s.addLive (launchOfLc lk) 1

/-- The last entry of a list, moved to place `i`. -/
def moveLast {α : Type} (i : Nat) (l : List α) : List α :=
  match l.getLast? with
  | none => l
  | some x => l.dropLast.take i ++ [x] ++ l.dropLast.drop i

/-- Parked arrivals of bound tags move into the mailbox in park order as far as room allows, those held for a window keeping their place in
the order of acceptance (R269); `n` bounds the moves. -/
def State.unpark (s : State) (lk : Nat) : Nat → State
  | 0 => s
  | n + 1 =>
    let c := s.lc lk
    match c.park.findIdx? fun m => c.hasRoom m.tag with
    | some i =>
      let m := c.park.getD i { launch := 0, target := 0, tag := 0, dev := 0, sender := 0, ticket := 0, epoch := 0, first := 0, data := [], status := none, from_ := none }
      ((s.setLc lk { c with park := c.park.eraseIdx i }).takeEntry lk m false).unpark lk n
    | none =>
      match c.heldMsgs.findIdx? fun m => m.2.isNone && c.hasRoom m.1.tag with
      | some i =>
        match c.heldMsgs[i]? with
        | some m =>
          let t := (s.setLc lk { c with heldMsgs := c.heldMsgs.eraseIdx i }).takeEntry lk m.1 true
          (t.modLc lk fun c => { c with heldMsgs := moveLast i c.heldMsgs }).unpark lk n
        | none => s
      | none => s

/-! ## Delivery windows (R269) -/

/-- The place of a held arrival in the order of a closing window: sender, then ticket counted from the sender's first in the window, which is
the first of its epoch. -/
def heldKey (m : Msg) : Nat × Nat := (m.sender.toNat, (m.ticket - m.first).toNat)

/-- Puts an arrival into its place. -/
def insertHeld (m : Msg × Option Nat) : List (Msg × Option Nat) → List (Msg × Option Nat)
  | [] => [m]
  | x :: r =>
    let a := heldKey m.1
    let b := heldKey x.1
    if a.1 < b.1 ∨ (a.1 = b.1 ∧ a.2 < b.2) then m :: x :: r else x :: insertHeld m r

def sortHeld (l : List (Msg × Option Nat)) : List (Msg × Option Nat) := l.foldl (fun out m => insertHeld m out) []

/-- The keys of the members of the window team, of whatever launch of the context (R269, R307). -/
def State.windowMembers (s : State) (lk : Nat) : List Nat :=
  match (s.lc lk).team with
  | none => []
  | some t => ((s.context (s.launch (launchOfLc lk)).ctx).team t).members.map fun m => m.lc

/-- The open window closes while the markers of every counted member are in; its arrivals become dispatchable in order, and the next
window opens. -/
def State.closeWindows (s : State) (lk : Nat) : Nat → State
  | 0 => s
  | n + 1 =>
    let c := s.lc lk
    if !c.counted.isEmpty && c.counted.all (fun i => c.markers.contains (i, c.window)) then
      let go := sortHeld (c.heldMsgs.filter fun m => m.1.epoch == c.window)
      let c := { c with heldMsgs := c.heldMsgs.filter fun m => m.1.epoch != c.window,
                        arrivals := c.arrivals ++ go.filterMap (fun m => m.2.map fun i => c.handlerPip i (launchOfLc lk)),
                        park := c.park ++ (go.filter fun m => m.2.isNone).map (fun m => m.1),
                        markers := c.markers.filter fun m => m.2 != c.window,
                        window := c.window + 1, counted := s.windowMembers lk }
      (s.setLc lk c).closeWindows lk n
    else s

def State.closeAll (s : State) (lk : Nat) : State := s.closeWindows lk ((s.lc lk).markers.length + 1)

/-! ## An arrival is decided (R263) -/

/-- The status of an arrival; none means that the sender resends it. -/
def State.arrive (s : State) (m : Msg) : Option Nat × State :=
  let lk := lcKey m.launch m.target
  let l := s.launch m.launch
  if (Tbl.find s.launches m.launch).isNone || l.ending.isSome || l.ncore ≤ m.target then (some 4, s)
  else
    let accept (t : State) : Option Nat × State := (some 1, t.modLc lk fun c => { c with accepted := c.accepted + 1 })
    let refuse (n : Nat) : Option Nat × State := (some n, s.modLc lk fun c => { c with refused := c.refused + 1 })
    let c := s.lc lk
    if l.det then
      if !(m.from_.any fun k => (s.windowMembers lk).contains k) then (some 5, s)
      else
        let past := (c.window - m.epoch).toNat
        let held := decide (past = 0 ∨ 2 ^ 31 ≤ past)
        if (c.binding m.tag).isSome then (if c.hasRoom m.tag then accept (s.takeEntry lk m held) else (none, s))
        else if c.parkCount < 8 then
          accept (s.modLc lk fun c =>
            if held then { c with heldMsgs := c.heldMsgs ++ [(m, none)] } else { c with park := c.park ++ [m] })
        else (none, s)
    else if (c.binding m.tag).isSome then
      if c.hasRoom m.tag then accept (s.takeEntry lk m false) else refuse 2
    else if c.parkCount < 8 then accept (s.modLc lk fun c => { c with park := c.park ++ [m] })
    else refuse 3

/-! ## Channels (R266 to R268) -/

/-- Consumed counts rise at the done of an actor firing: a space update goes to the producer of each in end. -/
def State.consume (s : State) (lk : Nat) (a : Actor) : State :=
  a.specs.foldl (fun s sp =>
    if sp.1 then s
    else
      let c := s.lc lk
      match Tbl.find c.ends sp.2.1 with
      | none => s
      | some e =>
        let e := { e with freed := e.freed + sp.2.2 }
        let s := s.setLc lk { c with ends := Tbl.set c.ends sp.2.1 e }
        { s with net := { s.net with spaces := s.net.spaces ++ [(lcKey (launchOfLc lk) e.peer, e.peerEnd, e.freed)] } }) s

end Sys2Proof.Machine
end

