-- ==== Sys2Proof/Machine/Counters.lean ====
section
/-! DEFINITION. Counters, triggers, event vectors, range units, teams, launches from the device, digests (R294 to R312). -/

namespace Sys2Proof.Machine

open Sys2Proof

/-! ## cwait, ctrig (R298 to R301) -/

/-- The checks of a counter that is read (R298). -/
def State.locateCounter (s : State) (va : Word) : Except Flt (List Spot × State) :=
  if va.toNat % 8 ≠ 0 then .error { code := 0x07, addr := va.toNat, acc := 1 }
  else
    match s.locate s.asker .counter (pieces va.toNat 8) with
    | .error e => .error e
    | .ok (sp, ts) =>
      let t := s.reach s.asker sp ts
      match t.poisonHit sp with
      | some p => .error { code := 0x0A, addr := p.va, acc := 1 }
      | none => .ok (sp, t)

/-- Address of the first piece. -/
def firstPA (sp : List Spot) : Nat := sp.head?.elim 0 fun p => p.pa

def execCwait (a b c : BitVec 6) (s : State) : Outcome :=
  s.issue .word fun s => s.outside
    (let va := s.sreg a
     let target := s.sreg b
     match s.f.wait with
     | .met w d => .retire ((s.acquire 3).setSreg d w)
     | .metPoison v => .fault 0x0A v 1
     | _ =>
       match s.locateCounter va with
       | .error e => .ofFlt e
       | .ok (sp, t) =>
         let (bs, t) := t.loadSpots t.asker false sp
         let w := leWord bs
         if countOf target ≤ countOf w then
           if w.getLsbD 63 && !target.getLsbD 63 then .fault 0x0A va 1 else .retire (((t.acquire 3).setSreg c w).settle)
         else .wait t.settle (.counter (firstPA sp) va target c))

/-- The pip of a trigger breaks its zero-field rule. -/
def triggerBad (p : Pip) : Bool := fld p.w0 61 48 != 0 || p.w3 != 0

/-- ctrig that binds a trigger; it is tested at once. -/
def State.armTrigger (s : State) (va threshold pva : Word) : Eff :=
  if threshold.getLsbD 63 then .fault 0x02 0 0
  else
    match s.locateCounter va with
    | .error e => .ofFlt e
    | .ok (sp, t) =>
      if pva.toNat % 32 ≠ 0 then .fault 0x07 pva 1
      else
        match t.readPieces (pieces pva.toNat 32) true with
        | .stop e => e
        | .ok b u =>
          let p : Pip := { w0 := recWord b 0, w1 := recWord b 8, w2 := recWord b 16, w3 := recWord b 24 }
          if triggerBad p then .fault 0x02 0 0
          else if p.w0.getLsbD 0 then .fault 0x07 (BitVec.ofNat 64 p.code) 0
          else if 16 ≤ u.me.trigs.length then .fault 0x0B 0 0
          else
            .retire ((u.modLc u.myLc fun c =>
              { c with trigs := c.trigs ++ [{ pa := firstPA sp, threshold := threshold, pip := p }] }).settle)

def execCtrig (a b c : BitVec 6) (s : State) : Outcome :=
  s.issue .word fun s => s.outside
    (if b = 0 ∧ c = 0 then
       match s.f.wait with
       | .metItem o => .retire ((s.placeItem s.myLc o).settle)
       | _ =>
         match s.locateCell (s.sreg a).toNat with
         | .error e => .ofFlt e
         | .ok (pa, t) => t.released fun t =>
           match t.dropCell pa with
           | .error code => .fault code 0 0
           | .ok (none, u) => .retire u.settle
           | .ok (some o, u) => if u.me.outbound.length < 8 then .retire ((u.placeItem u.myLc o).settle) else .wait u.settle (.item o)
     else if b = 0 ∨ c = 0 then .fault 0x02 0 0
     else s.armTrigger (s.sreg a) (s.sreg b) (s.sreg c))

/-! ## Event vectors (R302, R303) -/

def execEvset (a b : BitVec 6) (s : State) : Outcome :=
  s.issue .word fun s => s.outside
    (let i := (s.sreg a).toNat
     if 3 < i then .fault 0x02 0 0 else s.released fun u => .retire ((u.cleanAll.setEvents s.ctxId (eventMask i (s.sreg b))).settle))

def execEvclr (a b : BitVec 6) (s : State) : Outcome :=
  s.issue .word fun s => s.outside
    (let i := (s.sreg a).toNat
     if 3 < i then .fault 0x02 0 0 else .retire (s.clearEvents s.ctxId (eventMask i (s.sreg b))))

def execEvwait (a b : BitVec 6) (s : State) : Outcome :=
  s.issue .word fun s => s.outside
    (let i := (s.sreg a).toNat
     let m := s.sreg b
     match s.f.wait with
     | .met _ _ => .retire (s.acquire 3)
     | _ =>
       if 3 < i then .fault 0x02 0 0
       else if eventWord (s.context s.ctxId).events i &&& m = m then .retire (s.acquire 3)
       else .wait s (.event i m))

/-! ## Range units (R304 to R306) -/

def Context.unit (c : Context) (n : Nat) : RangeUnit := Tbl.get .fresh c.units n

def execRinit (a b c : BitVec 6) (s : State) : Outcome :=
  s.issue .word fun s => s.outside
    (let n := (s.sreg a).toNat
     let w := s.sreg c
     if 63 < n || fld (s.sreg b) 63 40 ≠ 0 || fld w 63 48 ≠ 0 then .fault 0x02 0 0
     else if fld w 31 0 = 0 || fld w 47 32 = 0 then .fault 0x0B 0 0
     else
       let u : RangeUnit := { next := 0, remain := (s.sreg b).toNat, chunk := fld w 31 0, divisor := fld w 47 32 }
       .retire (s.modContext s.ctxId fun x => { x with units := Tbl.set x.units n u }))

/-- The size of the next chunk. -/
def RangeUnit.size (u : RangeUnit) : Nat := min u.remain (max u.chunk (ceilDiv u.remain u.divisor))

def execRnext (d b : BitVec 6) (s : State) : Outcome :=
  s.issue .word fun s => s.outside
    (let n := (s.sreg b).toNat
     if d = 0 ∨ 63 < n then .fault 0x02 0 0
     else
       let u := (s.context s.ctxId).unit n
       let size := u.size
       match s.recorded [(3, BitVec.ofNat 64 u.next), (4, BitVec.ofNat 64 size)] with
       | .error e => .ofFlt e
       | .ok (vs, t) =>
         let t := if t.job.det && t.job.replay then t
           else t.modContext t.ctxId fun x =>
             { x with units := Tbl.set x.units n { u with next := (u.next + size) % 2 ^ 40, remain := u.remain - size } }
         .retire ((t.setSreg d (vs.getD 0 0)).setSreg (d + 1) (vs.getD 1 0)))

/-! ## Teams (R307 to R309) -/

/-- The grid of a grid word; a word of zeros declares none. -/
def gridOf (w : Word) : Option (Nat × Nat × Bool × Bool) :=
  if w = 0 then none else some (fld w 46 32, fld w 62 48, w.getLsbD 47, w.getLsbD 63)

/-- A join that R308 refuses. -/
def Team.refuses (t : Team) (lk : Nat) (w : Word) : Bool :=
  (t.member lk).isSome || (!t.members.isEmpty && t.grid != gridOf w) ||
  (match gridOf w with
   | none => false
   | some (gx, gy, _, _) =>
     decide (gx ≤ fld w 15 0) || decide (gy ≤ fld w 31 16) ||
       t.members.any fun m => m.x == fld w 15 0 && m.y == fld w 31 16)

/-- A join: late when the open generation has arrivals. -/
def Team.join (t : Team) (lk : Nat) (w : Word) : Team :=
  { t with grid := gridOf w,
           members := t.members ++ [{ lc := lk, x := fld w 15 0, y := fld w 31 16, awaited := t.arrived == 0, arrived := false }] }

def execTjoin (a b : BitVec 6) (s : State) : Outcome :=
  s.issue .word fun s => s.outside
    (let n := (s.sreg a).toNat
     let t := (s.context s.ctxId).team n
     if 255 < n then .fault 0x02 0 0
     else if t.refuses s.myLc (s.sreg b) then .fault 0x12 0 0
     else s.released fun u =>
       .retire ((u.modContext s.ctxId fun c => c.setTeam n ((c.team n).join s.myLc (s.sreg b))).settle))

def execTleave (a : BitVec 6) (s : State) : Outcome :=
  s.issue .word fun s => s.outside
    (let n := (s.sreg a).toNat
     let t := (s.context s.ctxId).team n
     if 255 < n then .fault 0x02 0 0
     else if (t.member s.myLc).isNone then .fault 0x12 0 0
     else s.released fun u => .retire ((u.leaveTeam s.ctxId n s.myLc).settle))

/-- The scope of a barrier of a team. -/
def Team.scope (t : Team) : Nat := if t.span then 4 else 3

/-- A member arrives at the open generation. -/
def Team.arrive (t : Team) (lk : Nat) : Team :=
  { t with arrived := t.arrived + 1, members := t.members.map fun m => if m.lc = lk then { m with arrived := true } else m }

/-- The release of an arrival: at system scope for a team of several devices. -/
def State.releaseFor (s : State) (t : Team) : State := if t.span then s.cleanAll else s

/-- tbar: a late member waits without arriving; the last arrival completes the generation and does not wait. The team is the one that the release
leaves, in which an own put may have written the span (R187). -/
def execTbar (a : BitVec 6) (s : State) : Outcome :=
  s.issue .word fun s => s.outside
    (let n := (s.sreg a).toNat
     let t := (s.context s.ctxId).team n
     match s.f.wait with
     | .met _ _ => .retire (s.acquire t.scope)
     | _ =>
       if 255 < n then .fault 0x02 0 0
       else
         match t.member s.myLc with
         | none => .fault 0x12 0 0
         | some m =>
           if m.arrived then .fault 0x12 0 0
           else s.released fun u =>
             let t := (u.context s.ctxId).team n
             let u := u.releaseFor t
             if ((t.member s.myLc).map fun m => m.awaited) = some true then
               let u := (u.modContext s.ctxId fun c => c.setTeam n (t.arrive s.myLc)).checkBarrier s.ctxId n
               if ((u.context s.ctxId).team n).gen ≠ t.gen then .retire ((u.acquire t.scope).settle)
               else .wait u.settle (.barrier n t.gen.toNat)
             else .wait u.settle (.barrier n t.gen.toNat))

/-! ## launch (R254, R311) -/

/-- launch: its release comes first, so that the tail that it moves is the one that an own put may have written (R187). -/
def execLaunch (d b : BitVec 6) (s : State) : Outcome :=
  s.issue .word fun s => s.outside
    (let n := (s.sreg b).toNat
     if 15 < n then .fault 0x02 0 0
     else s.released fun s =>
       let q := (s.context s.ctxId).queue n
       let tail := q.tail + 1
       let ok := q.fits tail
       match s.recorded [(6, if ok then 1 else 0)] with
       | .error e => .ofFlt e
       | .ok (vs, t) =>
         let v := vs.headD 0
         let t := t.cleanAll.setSreg d v
         if t.job.det && t.job.replay then
           if v = 1 then (if ok then .retire ((t.modQueue t.ctxId n fun q => q.setTail tail).settle) else .fault 0x13 0 0)
           else .retire t.settle
         else .retire ((t.modQueue t.ctxId n fun q => q.setTail tail).settle))

/-! ## digest (R312, R348, R349) -/

/-- One step of the digest: D of R150's round. -/
def digestWord (d w : Word) : Word := drawRound (d ^^^ w)

/-- The digest of bytes, eight at a time. -/
def digestBytes : Nat → Word → List Byte → Word
  | 0, d, _ => d
  | n + 1, d, bs => digestBytes n (digestWord d (leWord (bs.take 8))) (bs.drop 8)

/-- A set word that is in force: valid with a count of 2 or 3. -/
def setInForce (w : Word) : Bool := w.getLsbD 63 && (fld w 33 32 == 2 || fld w 33 32 == 3)

/-- A post to the replica-check block: under a set in force it holds the launch unit of its context, and stands until its step is decided (R348). A
second post of a step takes the place of one that is not decided (log 17, DESIGN CHOICE: R348 does not speak of two). -/
def Context.post (c : Context) (step d : Word) : Context :=
  let others := c.posts.filter fun p => !(p.set == c.repSet && p.step == step && !p.decided)
  { c with repStep := step, repDigest := d,
           posts := if setInForce c.repSet then others ++ [{ set := c.repSet, step := step, digest := d, holds := true, decided := false }]
                    else c.posts }

/-- A post is a release at system scope (R312). -/
def State.postDigest (s : State) (step d : Word) : State := (s.release 4).modContext s.ctxId fun c => c.post step d

def execDigest (d b c : BitVec 6) (s : State) : Outcome :=
  s.issue .word fun s => s.outside
    (let va := s.sreg b
     let n := (s.sreg c).toNat
     let step := s.sreg (c + 1)
     if va.toNat % 64 ≠ 0 then .fault 0x07 va 1
     else if n % 64 ≠ 0 || n = 0 || decide (0x100000 < n) then .fault 0x0B 0 0
     else
       match s.locate s.asker .load (pieces va.toNat n) with
       | .error e => .ofFlt e
       | .ok (sp, ts) =>
         let t := s.reach s.asker sp ts
         match sp.find? fun p => !p.host && t.poisoned p.pa with
         | some p => .fault 0x0A (BitVec.ofNat 64 p.va) 1
         | none =>
           let (bs, t) := t.loadSpots s.asker true sp
           let v := digestBytes (n / 8) (s.sreg d) bs
           let t := t.setSreg d v
           .retire ((if step = 0 then t else t.postDigest step v).settle))

end Sys2Proof.Machine
end

