-- ==== Sys2Proof/Machine/Layout.lean ====
section
/-! DEFINITION. The layout record of cpyt and the element addresses of its window (R247, R282), and the sizes of operand images (R230). -/

namespace Sys2Proof.Machine

open Sys2Proof

/-- Bits of an element packed in memory: a ta6 element takes six (R49). -/
def packedBits (t : Nat) : Nat := if t = 10 then 6 else typeWidth t

/-! ## Operand images (R230) -/

/-- The largest K of a format; 0 for a format that no slot holds. -/
def largestK (fmt : Nat) : Nat :=
  if fmt = 6 then 32 else if fmt = 7 ∨ fmt = 8 then 64
  else if fmt = 0 ∨ fmt = 1 ∨ fmt = 9 ∨ fmt = 10 then 128 else if fmt = 11 ∨ fmt = 12 then 256 else 0

/-- Format, K and scaled bit that a slot may hold. -/
def slotAllows (fmt k : Nat) (scaled : Bool) : Bool :=
  k % 32 == 0 && decide (32 ≤ k) && decide (k ≤ largestK fmt) && (!scaled || fmt == 0 || fmt == 9 || fmt == 10 || fmt == 11)

/-- Bytes of a row of K elements. -/
def rowBytes (fmt k : Nat) : Nat := k * packedBits fmt / 8

/-- Bytes of an operand image. -/
def imageBytes (fmt k : Nat) (scaled : Bool) : Nat := 64 * rowBytes fmt k + (if scaled then 512 else 0)

/-! ## The record (R282) -/

/-- Entries at or above the rank are read as a fixed value. -/
def upToRank {α : Type} (rank : Nat) (fixed : α) (l : List α) : List α :=
  l.zipIdx.map fun e => if e.2 < rank then e.1 else fixed

/-- The record of 96 bytes, read without its checks. -/
def Layout.ofBytes (b : List Byte) : Layout :=
  let w (i : Nat) : Word := recWord b (8 * i)
  let rank := fld (w 1) 2 0
  { fmt := fld (w 0) 61 57, base := fld (w 0) 56 0, fill := (w 1).extractLsb' 32 32, transpose := (w 1).getLsbD 24,
    pitch := fld (w 1) 23 8, inter := fld (w 1) 6 3,
    ext := upToRank rank 1 [fld (w 2) 31 0, fld (w 2) 63 32, fld (w 3) 31 0, fld (w 3) 63 32],
    win := upToRank rank 1 [fld (w 4) 15 0, fld (w 4) 31 16, fld (w 4) 47 32, fld (w 4) 63 48],
    stride := upToRank rank 0 [0, fld (w 5) 39 0, fld (w 6) 39 0, fld (w 7) 39 0],
    org := upToRank rank 0 [toInt 32 (fld (w 8) 31 0), toInt 32 (fld (w 8) 63 32), toInt 32 (fld (w 9) 31 0),
      toInt 32 (fld (w 9) 63 32)],
    scales := fld (w 10) 56 0 }

/-- A reserved bit of the record is set. -/
def layoutReserved (b : List Byte) : Bool :=
  let w (i : Nat) : Word := recWord b (8 * i)
  fld (w 0) 63 62 != 0 || fld (w 1) 31 25 != 0 || fld (w 1) 7 7 != 0 || fld (w 5) 63 40 != 0 || fld (w 6) 63 40 != 0 ||
  fld (w 7) 63 40 != 0 || fld (w 10) 63 57 != 0 || (w 11) != 0

/-- A window or an origin at or above the rank is not 1 or not 0. -/
def layoutAbove (b : List Byte) : Bool :=
  let rank := fld (recWord b 8) 2 0
  (List.range 4).any fun d =>
    decide (rank ≤ d) && (recNat b (32 + 2 * d) 2 != 1 || recNat b (64 + 4 * d) 4 != 0)

def Layout.winAt (l : Layout) (d : Nat) : Nat := l.win.getD d 1
def Layout.extAt (l : Layout) (d : Nat) : Nat := l.ext.getD d 1
def Layout.orgAt (l : Layout) (d : Nat) : Int := l.org.getD d 0

/-- Bits of an element. -/
def Layout.bitsOf (l : Layout) : Nat := packedBits l.fmt

/-- Elements of a destination row, and rows of an innermost pair. -/
def Layout.rowLen (l : Layout) : Nat := if l.transpose then l.winAt 1 else l.winAt 0
def Layout.rowsIn (l : Layout) : Nat := if l.transpose then l.winAt 0 else l.winAt 1

/-- Destination rows. -/
def Layout.rows (l : Layout) : Nat := l.rowsIn * l.winAt 2 * l.winAt 3

/-- Data bytes, which count as arrivals, and bytes that the destination must hold. -/
def Layout.dataBytes (l : Layout) : Nat := l.rows * l.rowLen * l.bitsOf / 8
def Layout.destBytes (l : Layout) : Nat := l.rows * l.pitch * 64

/-- The granularity of win0, org0 and ext0 (R247). -/
def Layout.step (l : Layout) : Nat := if l.fmt = 11 ∨ l.fmt = 12 then 2 else if l.fmt = 10 then 4 else 1

/-- What R247 and R282 reject with fault 0x0B; `toTile` says that the destination is a scratchpad tile, `toScaled` a scaled slot. -/
def layoutBad (b : List Byte) (toTile toScaled : Bool) : Bool :=
  let l := Layout.ofBytes b
  let rank := fld (recWord b 8) 2 0
  layoutReserved b || rank == 0 || decide (4 < rank) || decide (15 < l.fmt) ||
  (List.range 4).any (fun d => l.winAt d == 0) || layoutAbove b || l.pitch == 0 ||
  decide (l.pitch * 512 < l.rowLen * l.bitsOf) ||
  (l.inter != 0 && (l.pitch % 16 != 0 || !toTile)) ||
  (l.winAt 0 % l.step != 0 || l.orgAt 0 % (l.step : Int) != 0 || l.extAt 0 % l.step != 0) ||
  (l.scales != 0 && (!toScaled || l.orgAt 0 % 32 != 0))

/-! ## The window -/

/-- Is position p of dimension d inside the tensor? -/
def Layout.inside (l : Layout) (d : Nat) (p : Int) : Bool := decide (0 ≤ p) && decide (p < (l.extAt d : Int))

/-- Bits from one position to the next of a dimension above 0; a stride of 0 means the element size. -/
def Layout.strideBits (l : Layout) (d : Nat) : Nat :=
  let s := l.stride.getD d 0
  if s = 0 then l.bitsOf else 8 * s

/-- Bit address of an element at in-range positions. -/
def Layout.bitAt (l : Layout) (p0 p1 p2 p3 : Nat) : Nat :=
  8 * l.base + p0 * l.bitsOf + p1 * l.strideBits 1 + p2 * l.strideBits 2 + p3 * l.strideBits 3

/-- The indices (i1, i2, i3) of the window. -/
def Layout.outer (l : Layout) : List (Nat × Nat × Nat) :=
  (List.range (l.winAt 3)).flatMap fun i3 => (List.range (l.winAt 2)).flatMap fun i2 =>
    (List.range (l.winAt 1)).map fun i1 => (i1, i2, i3)

/-- Byte ranges that the in-range positions read. -/
def Layout.runs (l : Layout) : List (Nat × Nat) :=
  l.outer.filterMap fun i =>
    let p1 := l.orgAt 1 + i.1
    let p2 := l.orgAt 2 + i.2.1
    let p3 := l.orgAt 3 + i.2.2
    let lo := if l.orgAt 0 < 0 then 0 else (l.orgAt 0).toNat
    let hi := Nat.min (l.orgAt 0 + l.winAt 0).toNat (l.extAt 0)
    if l.inside 1 p1 && l.inside 2 p2 && l.inside 3 p3 && decide (lo < hi) then
      let a := l.bitAt lo p1.toNat p2.toNat p3.toNat
      let z := l.bitAt (hi - 1) p1.toNat p2.toNat p3.toNat + l.bitsOf
      some (a / 8, (z + 7) / 8 - a / 8)
    else none

/-- The bit addresses of the elements of a destination row, `none` where the position is out of range. -/
def Layout.rowElems (l : Layout) (u i2 i3 : Nat) : List (Option Nat) :=
  (List.range l.rowLen).map fun v =>
    let i1 := if l.transpose then v else u
    let i0 := if l.transpose then u else v
    let p0 := l.orgAt 0 + i0
    let p1 := l.orgAt 1 + i1
    let p2 := l.orgAt 2 + i2
    let p3 := l.orgAt 3 + i3
    if l.inside 0 p0 && l.inside 1 p1 && l.inside 2 p2 && l.inside 3 p3 then
      some (l.bitAt p0.toNat p1.toNat p2.toNat p3.toNat)
    else none

/-- The destination rows: u, i2, i3 in rising row number. -/
def Layout.rowList (l : Layout) : List (Nat × Nat × Nat) :=
  (List.range (l.winAt 3)).flatMap fun i3 => (List.range (l.winAt 2)).flatMap fun i2 =>
    (List.range l.rowsIn).map fun u => (u, i2, i3)

def Layout.rowNumber (l : Layout) (i : Nat × Nat × Nat) : Nat := i.1 + l.rowsIn * (i.2.1 + l.winAt 2 * i.2.2)

/-- Destination byte of offset o of a row, with the bank interleave. -/
def Layout.destAt (l : Layout) (row o : Nat) : Nat :=
  row * l.pitch * 64 + 1024 * (o / 1024) + (o % 1024 + 64 * (row * l.inter % 16)) % 1024

/-- Scale-array address of block j of a row: the row's position of dimension 1 selects it (log 14, DEDUCED). -/
def Layout.scaleAt (l : Layout) (p1 : Nat) (j : Nat) : Int :=
  (l.scales + p1 * ((l.extAt 0 + 31) / 32) + j : Nat) + l.orgAt 0 / 32

/-- Blocks of 32 elements in a destination row. -/
def Layout.blocks (l : Layout) : Nat := (l.rowLen + 31) / 32

/-- The scale bytes that are read: addresses for each row whose p1 is in range. -/
def Layout.scaleRuns (l : Layout) : List (Nat × Nat) :=
  if l.scales = 0 then []
  else
    l.rowList.filterMap fun i =>
      let p1 := l.orgAt 1 + i.1
      if l.inside 1 p1 then some ((l.scaleAt p1.toNat 0).toNat, l.blocks) else none

end Sys2Proof.Machine
end

