-- ==== Sys2Proof/Machine/Engines.lean ====
section
/-! DEFINITION. The issue of engine commands: slots, matrix commands, copies and guards (R197, R220 to R227, R235 to R248, R282). -/

namespace Sys2Proof.Machine

open Sys2Proof

/-! ## Entering a queue (R221, R222, R227) -/

/-- The guard of a command as it stands at issue. -/
def Firing.guardRef (g : Firing) (n : BitVec 3) : GuardRef :=
  if n = 0 then .free
  else
    match g.guards[n.toNat]'n.isLt with
    | .isTrue => .known true
    | .isFalse => .known false
    | .unresolved => .pending

/-- The queues of a logical core, the copy queue with and without a step of the copy sequence. -/
inductive Queue where
  | matrix
  | copy
  | text
deriving DecidableEq, Repr

def State.queueFull (s : State) (q : Queue) : Bool :=
  match q with
  | .matrix => decide (2 ≤ s.me.matq.length)
  | _ => decide (2 ≤ s.me.copyq.length)

/-- The need of an instruction that found its queue full. -/
def Queue.need (q : Queue) : Need := match q with | .matrix => .matrixQueue | _ => .copyQueue

/-- A captured command of the issuing firing. -/
def State.command (s : State) (gn : BitVec 3) (w : Work) : Cmd :=
  { work := w, guard := s.f.guardRef gn, gnum := gn.toNat, fk := s.f.key, seqno := s.f.seqno, epc := s.f.pc.truncate 48,
    order := s.me.issued, started := false, ksteps := 0, passed := 0, poison := false, strips := [] }

/-- A command enters its queue; one that is known to be false leaves the head of its queue at once. One whose release performs a put that ends the
launch is discarded with it (R42). -/
def State.enqueue (s : State) (q : Queue) (gn : BitVec 3) (w : Work) : State :=
  if s.f.st = .free then s else
  let k := s.command gn w
  let s := s.modLc s.myLc fun c =>
    let c := { c.use w true with issued := c.issued + 1 }
    match q with
    | .matrix => { c with matq := c.matq ++ [k] }
    | .copy => { c with copyq := c.copyq ++ [k], copySeq := c.copySeq + 1 }
    | .text => { c with copyq := c.copyq ++ [k] }
  s.prune s.myLc

/-- A checked command: what it does, whether its scope is the system, and the state after the checks. -/
abbrev Checked := Except Flt (Work × Bool × State)

def Flt.plain (code : Code) : Flt := { code := code, addr := 0, acc := 3 }

/-- An engine command issues: its checks, room in its queue, the release of its issue (R197), its entry. -/
def State.engine (s : State) (q : Queue) (gn : BitVec 3) (checks : State → Checked) : Outcome :=
  s.issue .word fun s =>
    if q = .matrix && !s.job.matrix then .fault 0x01 0 0
    else s.outside
      (match checks s with
       | .error e => .ofFlt e
       | .ok (w, sys, t) =>
         if t.queueFull q then .wait t (.need q.need)
         else .retire (((t.release (if sys then 4 else 3)).enqueue q gn w).settle))

/-- Tile entry n of the issuing logical core. -/
def State.myTile (s : State) (n : BitVec 6) : Tile := s.me.tile n.toNat

/-- Virtual address of a byte of the issuing core's own share. -/
def State.ownVA (s : State) (off : Nat) : Nat := peerVA s.me.index 0 off

/-- Bytes of the own scratchpad at an aligned offset held in a register. Of bytes that run beyond the share the first beyond it is the one that fails
(R147, R336). A poisoned granule is fault 0x0A (log 14, DESIGN CHOICE: R154 leaves poison to the entry of the reader, and neither that of mmask nor that of
cpyt speaks of it). -/
def State.ownBytes (s : State) (off align n : Nat) : Except Flt (List Byte × State) :=
  if off % align ≠ 0 then .error { code := 0x07, addr := s.ownVA off, acc := 3 }
  else if s.me.shareSize < off + n then .error { code := 0x09, addr := s.ownVA (max off s.me.shareSize), acc := 3 }
  else s.fetchBytes s.asker (s.ownVA off) n

/-! ## Slots (R236, R237) -/

/-- The slots of the octave of the issuing core with one slot changed. -/
def State.setSlot (s : State) (oct n : Nat) (f : OpSlot → OpSlot) : State :=
  s.modOctave oct fun o => { o with slots := Tbl.set o.slots n (f (Tbl.get .unclaimed o.slots n)) }

/-- The slot is claimed: its control shows no format, and tile t is a slot tile. -/
def State.claimSlot (s : State) (t n : Nat) : State :=
  let lk := s.myLc
  let k := s.f.key
  let s := s.modOctave s.myOctave fun o => { o with claims := o.claims.filter fun f => f ≠ k }
  let s := s.setSlot s.myOctave n fun x => { x with owner := some lk, fmt := none, k := 0, scaled := false }
  s.modLc lk fun c => c.setTile t { Tile.undefined with kind := 2, base := n, size := 8704, phase := (c.tile t).phase, uses := (c.tile t).uses }

/-- oclaim: the first waiting claim takes the first free slot. -/
def execOclaim (a b : BitVec 6) (s : State) : Outcome :=
  s.issue .word fun s =>
    if !s.job.matrix then .fault 0x01 0 0
    else s.outside
      (if (s.myTile a).isDefined then .fault 0x0C 0 0
       else
         let o := s.octave s.myOctave
         let first := match o.claims with | [] => true | k :: _ => k == s.f.key
         match (if first then o.freeSlot else none) with
         | some n => .retire (((s.claimSlot a.toNat n).setSreg b (BitVec.ofNat 64 n)).settle)
         | none =>
           let k := s.f.key
           .wait (s.modOctave s.myOctave fun o => if o.claims.contains k then o else { o with claims := o.claims ++ [k] })
             (.need .slot))

/-- orelease: the slot is freed and the tile becomes undefined. -/
def execOrelease (a : BitVec 6) (s : State) : Outcome :=
  s.issue .word fun s =>
    if !s.job.matrix then .fault 0x01 0 0
    else s.outside
      (let x := s.myTile a
       if !x.isDefined then .fault 0x0C 0 0
       else if !x.isSlot then .fault 0x0D 0 0
       else if x.uses != 0 || x.state == 1 then .wait s (.need (.tileUnused a.toNat))
       else
         let t := s.setSlot s.myOctave x.base fun y => { y with owner := none, fmt := none }
         .retire ((t.modLc t.myLc fun c => c.setTile a.toNat x.clear).settle))

/-! ## Matrix commands (R238 to R242) -/

def execOfill (g : BitVec 3) (a b c : BitVec 6) (s : State) : Outcome :=
  s.engine .matrix g fun s =>
    let w := s.sreg c
    let x := s.myTile a
    let y := s.myTile b
    let fmt := fld w 4 0
    let k := fld w 13 5
    let scaled := w.getLsbD 14
    if fld w 63 15 ≠ 0 then .error (.plain 0x02)
    else if !x.isDefined || !y.isDefined then .error (.plain 0x0C)
    else if !x.isSlot || y.isSlot then .error (.plain 0x0D)
    else if !slotAllows fmt k scaled || decide (y.size < imageBytes fmt k scaled) then .error (.plain 0x0B)
    else .ok (.ofill a.toNat b.toNat fmt k scaled, false, s)

def execMma (g : BitVec 3) (a b c : BitVec 6) (s : State) : Outcome :=
  s.engine .matrix g fun s =>
    let w := s.sreg c
    if fld w 63 4 ≠ 0 then .error (.plain 0x02)
    else if !(s.myTile a).isDefined || !(s.myTile b).isDefined then .error (.plain 0x0C)
    else if !(s.myTile a).isSlot || !(s.myTile b).isSlot then .error (.plain 0x0D)
    else .ok (.mma a.toNat b.toNat (fld w 0 0) (fld w 2 1) (w.getLsbD 3), false, s)

/-- Limits of a mask block (R240). -/
def maskBad (b : List Byte) : Bool :=
  decide (64 < recNat b 516 4) || decide (63 < recNat b 520 4) || decide (1 < recNat b 524 4)

def execMmask (g : BitVec 3) (a : BitVec 6) (s : State) : Outcome :=
  s.engine .matrix g fun s =>
    match s.ownBytes (s.sreg a).toNat 4 528 with
    | .error e => .error e
    | .ok (b, t) =>
      if maskBad b then .error (.plain 0x0B) else .ok (.mmask (BitVec.ofNat 4224 (leNat b)), false, t)

/-- Bytes of a drained accumulator; 0 for a format that adrain does not take (R241). -/
def drainBytes (fmt : Nat) : Nat :=
  if fmt = 6 ∨ fmt = 4 then 16384 else if fmt = 7 ∨ fmt = 8 then 8192 else if fmt = 0 ∨ fmt = 9 then 4608
  else if fmt = 10 then 3584 else if fmt = 11 then 2560 else 0

def execAdrain (g : BitVec 3) (a c : BitVec 6) (s : State) : Outcome :=
  s.engine .matrix g fun s =>
    let w := s.sreg c
    let x := s.myTile a
    let fmt := fld w 5 1
    if fld w 63 6 ≠ 0 then .error (.plain 0x02)
    else if !x.isDefined then .error (.plain 0x0C)
    else if x.isSlot then .error (.plain 0x0D)
    else if drainBytes fmt = 0 ∨ x.size < drainBytes fmt then .error (.plain 0x0B)
    else .ok (.adrain a.toNat fmt (fld w 0 0), false, s)

def execAzero (g : BitVec 3) (a : BitVec 6) (s : State) : Outcome :=
  s.engine .matrix g fun s => .ok (.azero (a.toNat % 2), false, s)

/-! ## Ranges of a copy (R221, R245, R246, R252) -/

/-- The pages of checked pieces, pieces that lie side by side joined. -/
def joinPages : List Spot → List PageMap
  | [] => []
  | p :: r =>
    match joinPages r with
    | q :: l =>
      if p.va + p.n = q.va ∧ p.pa + p.n = q.pa ∧ p.host = q.host then
        { va := p.va, len := p.n + q.len, pa := p.pa, host := q.host } :: l
      else { va := p.va, len := p.n, pa := p.pa, host := p.host } :: q :: l
    | [] => [{ va := p.va, len := p.n, pa := p.pa, host := p.host }]

/-- Checks a range: `use` gives the permission, `kinds` the peer windows that it may lie in. -/
def State.checkRange (s : State) (u : Use) (kinds : List Nat) (va n : Nat) : Except Flt (List PageMap × State) :=
  match s.locate s.asker u (pieces va n) with
  | .error e => .error { e with acc := 3 }
  | .ok (sp, ts) =>
    if sp.any fun p => match p.win with | some k => !kinds.contains k | none => false then
      .error { code := 0x09, addr := va, acc := 3 }
    else .ok (joinPages sp, s.noteAll s.asker ts)

/-- Checks ranges in the order given; of those that fail, the lowest address is the one reported. -/
def State.checkRanges (s : State) (u : Use) (kinds : List Nat) : List (Nat × Nat) → Except Flt (List PageMap × State)
  | [] => .ok ([], s)
  | (va, n) :: r =>
    match s.checkRange u kinds va n, s.checkRanges u kinds r with
    | .ok (ps, _), .ok (qs, t) => .ok (ps ++ qs, t)
    | .error e, .ok _ => .error e
    | .ok _, .error e => .error e
    | .error e, .error d => .error (if d.addr < e.addr then d else e)

/-- A range of a tile; beyond its size it is fault 0x09 at the first byte beyond. A slot tile has no address: the number of its slot stands for its
base there (log 14, DESIGN CHOICE). -/
def State.checkTile (s : State) (t off n : Nat) : Except Flt Place :=
  let x := s.me.tile t
  if x.size < off + n then .error { code := 0x09, addr := s.ownVA (x.base + max off x.size), acc := 3 }
  else .ok (.tile t off)

/-- The counter that a command names, if any: an aligned writable word of the memory space or of kind 5. -/
def State.checkCounter (s : State) (va : Word) : Except Flt (Option PageMap × State) :=
  if va = 0 then .ok (none, s)
  else if va.toNat % 8 ≠ 0 then .error { code := 0x07, addr := va.toNat, acc := 3 }
  else
    match s.locate s.asker .increment (pieces va.toNat 8) with
    | .error e => .error { e with acc := 3 }
    | .ok (sp, ts) => .ok ((joinPages sp).head?, s.noteAll s.asker ts)

/-- One of the two sides of a copy, checked. -/
def State.checkSide (s : State) (tile : Option Nat) (u : Use) (kinds : List Nat) (at_ n : Nat) : Except Flt (Place × State) :=
  match tile with
  | some t => (s.checkTile t at_ n).map fun p => (p, s)
  | none => (s.checkRange u kinds at_ n).map fun x => (.mem at_ x.1, x.2)

def Place.pages (p : Place) : List PageMap := match p with | .mem _ l => l | .tile _ _ => []
def Place.onHost (p : Place) : Bool := p.pages.any fun x => x.host

/-- The tile that a control word names, if its bit is set. -/
def namedTile (w : Word) (flagBit lo : Nat) : Option Nat := if w.getLsbD flagBit then some (fld w (lo + 5) lo) else none

/-- Is a named tile undefined? -/
def State.tileMissing (s : State) (t : Option Nat) : Bool := match t with | some t => !(s.me.tile t).isDefined | none => false

/-- Do two virtual ranges of `n` bytes overlap? -/
def overlap (a b n : Nat) : Bool := decide (a < b + n) && decide (b < a + n)

/-- cpy (R246). The number of a source or destination tile is looked at only where the bit beside it says that there is one (log 14, DEDUCED: R245
has a field that does not apply to the instruction zero, and these apply to cpy). -/
def execCpy (g : BitVec 3) (a b c : BitVec 6) (s : State) : Outcome :=
  s.engine .copy g fun s =>
    let w := s.sreg c
    let src := namedTile w 40 34
    let dst := namedTile w 30 24
    let n := fld w 23 0
    let da := (s.sreg a).toNat
    let sa := (s.sreg b).toNat
    if fld w 63 41 ≠ 0 then .error (.plain 0x02)
    else if src.isNone && dst.isNone && overlap da sa n then .error (.plain 0x02)
    else if s.tileMissing src || s.tileMissing dst then .error (.plain 0x0C)
    else if (match src with | some t => (s.me.tile t).isSlot | none => false) then .error (.plain 0x0D)
    else if n = 0 then .error (.plain 0x0B)
    else
      match s.checkSide src .load [0] sa n with
      | .error e => .error e
      | .ok (ps, t) =>
        match t.checkSide dst .store [0, 5] da n with
        | .error e => .error e
        | .ok (pd, u) =>
          match u.checkCounter (u.sreg (c + 1)) with
          | .error e => .error e
          | .ok (ctr, v) => .ok (.cpy ps pd n ctr (fld w 33 32) (w.getLsbD 31), ps.onHost || pd.onHost, v)

/-- The record of a cpyt: from a vector register, or from the own scratchpad (R245, R282). -/
def State.layoutBytes (s : State) (inPad : Bool) (b : BitVec 6) : Except Flt (List Byte × State) :=
  if inPad then s.ownBytes (s.sreg b).toNat 8 96
  else .ok (leBytes 96 (s.vreg (wide b)).toNat, s)

/-- cpyt (R247). Its register field is judged before the faults of issue (R79, R245). -/
def execCpyt (g : BitVec 3) (a b c : BitVec 6) (s : State) : Outcome :=
  if s.f.st = .running && s.cpytField b c then .next (s.takeFault 0x02 0 0 0)
  else s.engine .copy g fun s =>
    let w := s.sreg c
    let dst := namedTile w 30 24
    let da := (s.sreg a).toNat
    if fld w 63 42 ≠ 0 || fld w 40 34 ≠ 0 || fld w 23 0 ≠ 0 then .error (.plain 0x02)
    else if s.tileMissing dst then .error (.plain 0x0C)
    else
      match s.layoutBytes (w.getLsbD 41) b with
      | .error e => .error e
      | .ok (rec, s) =>
        let x := match dst with | some t => s.me.tile t | none => .undefined
        let l := Layout.ofBytes rec
        if layoutBad rec (x.kind == 1) (x.isSlot && x.scaled) then .error (.plain 0x0B)
        else
          match s.checkRanges .load [0] (l.runs ++ l.scaleRuns) with
          | .error e => .error e
          | .ok (ps, t) =>
            match t.checkSide dst .store [0, 5] da l.destBytes with
            | .error e => .error e
            | .ok (pd, u) =>
              match u.checkCounter (u.sreg (c + 1)) with
              | .error e => .error e
              | .ok (ctr, v) =>
                .ok (.cpyt l ps pd ctr (fld w 33 32) (w.getLsbD 31), pd.onHost || ps.any (fun p => p.host), v)

/-- The mirror that a counter of a halo would be, at one of its receivers (R266). -/
def State.haloMirror (s : State) (t : Team) (n : Nat) : Option Nat :=
  match t.member s.myLc with
  | none => none
  | some m =>
    ((t.receivers m).filterMap fun r =>
      ((s.lc r.1.lc).mirrorAt (8 * (n + r.2)) 8).map fun i => peerVA (r.1.lc % 65536) 5 (8 * i)).head?

/-- The neighbours of a team as membership stands when the halo issues (R36): each with the side from which its strip comes. -/
def State.haloSides (s : State) (t : Team) : List (Nat × Nat) :=
  match t.member s.myLc with
  | some m => (t.receivers m).map fun r => (r.1.lc, r.2)
  | none => []

/-- halo (R248); 0x12 comes after the faults of the tile (log 14, DEDUCED). -/
def execHalo (g : BitVec 3) (a b c : BitVec 6) (s : State) : Outcome :=
  s.engine .copy g fun s =>
    let w := s.sreg c
    let x := s.myTile a
    let team := (s.sreg b).toNat
    let n := fld w 44 36
    let h := fld w 35 32
    let nr := fld w 31 16
    let nc := fld w 15 0
    let wd := packedBits x.fmt
    let tm := (s.context s.ctxId).team team
    if fld w 63 48 ≠ 0 || fld w 45 45 ≠ 0 || decide (508 < n) then .error (.plain 0x02)
    else if !x.isDefined then .error (.plain 0x0C)
    else if x.isSlot then .error (.plain 0x0D)
    else if h = 0 || decide (nr < h) || decide (nc < h) || wd % 8 != 0 ||
        decide (x.size < (nr + 2 * h) * (nc + 2 * h) * (wd / 8)) then .error (.plain 0x0B)
    else if 255 < team || (tm.member s.myLc).isNone || tm.grid.isNone then .error (.plain 0x12)
    else
      match s.haloMirror tm n with
      | some va => .error { code := 0x16, addr := va, acc := 3 }
      | none => .ok (.halo a.toNat (s.haloSides tm) (fld w 47 46) n h nr nc, false, s)

/-! ## Guards (R227) -/

def Firing.setGuard (g : Firing) (n : BitVec 3) (v : Guard) : Firing :=
  { g with guards := g.guards.set n.toNat v n.isLt }

def execGarm (g : BitVec 3) (s : State) : Outcome :=
  s.issue .word fun s => s.outside
    (if s.f.guards[g.toNat]'g.isLt = .unresolved then .fault 0x17 0 0
     else .retire { s with f := s.f.setGuard g .unresolved })

def execGset (g : BitVec 3) (a : BitVec 6) (s : State) : Outcome :=
  s.issue .word fun s => s.outside
    (if s.f.guards[g.toNat]'g.isLt ≠ .unresolved then .fault 0x17 0 0
     else .retire ((s.resolveGuard s.f.key g.toNat (s.sreg a != 0)).settle))

end Sys2Proof.Machine
end

