-- ==== Sys2Proof/WellFormed.lean ====
section
/-! DEFINITION. Well-formed instructions: those whose fields pass the checks that need no state (R74, R77, R79 steps 2, 4 and 5). -/

namespace Sys2Proof

/-- Fields that no word can hold: vmov of v0 to v0 would be the halfword 0x0000 (R74), and a prefix without a mask has its mask field
and zeroing bit zero (R77). -/
def Instr.wordless : Instr → Bool
  | .vmov16 d b => d == 0 && b == 0
  | .pfx _ m _ _ z k => m == 0 && (z != 0 || k != 0)
  | _ => false

/-- The instruction names only types, fields and groups that its entry allows. -/
def Instr.wellFormed (i : Instr) : Bool := !i.illegal && !i.badField && !i.badGroup && !i.wordless

end Sys2Proof
end

