-- ==== Sys2Proof/Decode.lean ====
section
/-! DEFINITION. The decoder and the encoder (R71 to R83). Decoding is total: it gives the instruction, or the fault that the
pattern raises, by name and in the order of R79. -/

namespace Sys2Proof

/-- Why a pattern is no instruction (R79): the fault its fetch raises, or too few bytes were given. -/
inductive Reject where
  /-- Fault 0x01: the halfword 0x0000, a reserved major, an unassigned code or type (R73, R76, R80). -/
  | illegalEncoding
  /-- Fault 0x02: a reserved or unused field is nonzero, or a field is out of range (R76). -/
  | reservedField
  /-- Fault 0x04: a register group is misaligned (R118). -/
  | misalignedGroup
  /-- The bytes end before the instruction does. -/
  | tooShort
deriving DecidableEq, Repr

/-- The fault code of a rejected pattern (R336); bytes that are not there have none of their own (their fetch faults, R72). -/
def Reject.code : Reject → Code
  | .illegalEncoding => 0x01
  | .reservedField => 0x02
  | .misalignedGroup => 0x04
  | .tooShort => 0x06

/-- The last checks of a 32-bit word in the order of R79: the type of `i`, then the bits `zeros` that must be zero and the
ranges of the fields, then the alignment of groups. -/
def finish (w : BitVec 32) (zeros : BitVec 32) (i : Instr) : Except Reject Instr :=
  if i.illegal then .error .illegalEncoding
  else if w &&& zeros ≠ 0 then .error .reservedField
  else if i.badField then .error .reservedField
  else if i.badGroup then .error .misalignedGroup
  else .ok i

/-- Major 0x00 (R80). -/
def decodeMajor00 (w : BitVec 32) : Except Reject Instr :=
  match (w.extractLsb' 25 7).toNat with
  | 0 => finish w 0x00000000 (.add (w.extractLsb' 7 6) (w.extractLsb' 13 6) (w.extractLsb' 19 6))
  | 1 => finish w 0x00000000 (.sub (w.extractLsb' 7 6) (w.extractLsb' 13 6) (w.extractLsb' 19 6))
  | 2 => finish w 0x00000000 (.and (w.extractLsb' 7 6) (w.extractLsb' 13 6) (w.extractLsb' 19 6))
  | 3 => finish w 0x00000000 (.or (w.extractLsb' 7 6) (w.extractLsb' 13 6) (w.extractLsb' 19 6))
  | 4 => finish w 0x00000000 (.xor (w.extractLsb' 7 6) (w.extractLsb' 13 6) (w.extractLsb' 19 6))
  | 5 => finish w 0x00000000 (.sll (w.extractLsb' 7 6) (w.extractLsb' 13 6) (w.extractLsb' 19 6))
  | 6 => finish w 0x00000000 (.srl (w.extractLsb' 7 6) (w.extractLsb' 13 6) (w.extractLsb' 19 6))
  | 7 => finish w 0x00000000 (.sra (w.extractLsb' 7 6) (w.extractLsb' 13 6) (w.extractLsb' 19 6))
  | 8 => finish w 0x00000000 (.slt (w.extractLsb' 7 6) (w.extractLsb' 13 6) (w.extractLsb' 19 6))
  | 9 => finish w 0x00000000 (.sltu (w.extractLsb' 7 6) (w.extractLsb' 13 6) (w.extractLsb' 19 6))
  | 10 => finish w 0x00000000 (.min (w.extractLsb' 7 6) (w.extractLsb' 13 6) (w.extractLsb' 19 6))
  | 11 => finish w 0x00000000 (.max (w.extractLsb' 7 6) (w.extractLsb' 13 6) (w.extractLsb' 19 6))
  | 12 => finish w 0x00000000 (.minu (w.extractLsb' 7 6) (w.extractLsb' 13 6) (w.extractLsb' 19 6))
  | 13 => finish w 0x00000000 (.maxu (w.extractLsb' 7 6) (w.extractLsb' 13 6) (w.extractLsb' 19 6))
  | 14 => finish w 0x00000000 (.csel (w.extractLsb' 7 6) (w.extractLsb' 13 6) (w.extractLsb' 19 6))
  | _ => .error .illegalEncoding

/-- Major 0x01 (R80). -/
def decodeMajor01 (w : BitVec 32) : Except Reject Instr :=
  finish w 0x00000000 (.addi (w.extractLsb' 7 6) (w.extractLsb' 13 6) (w.extractLsb' 19 13))

/-- Major 0x02 (R80). -/
def decodeMajor02 (w : BitVec 32) : Except Reject Instr :=
  finish w 0x00000000 (.lui (w.extractLsb' 7 6) (w.extractLsb' 13 19))

/-- Major 0x03 (R80). -/
def decodeMajor03 (w : BitVec 32) : Except Reject Instr :=
  finish w 0x00000000 (.auipc (w.extractLsb' 7 6) (w.extractLsb' 13 19))

/-- Major 0x04 (R80). -/
def decodeMajor04 (w : BitVec 32) : Except Reject Instr :=
  match (w.extractLsb' 25 7).toNat with
  | 0 => finish w 0x00000000 (.mul (w.extractLsb' 7 6) (w.extractLsb' 13 6) (w.extractLsb' 19 6))
  | 1 => finish w 0x00000000 (.mulh (w.extractLsb' 7 6) (w.extractLsb' 13 6) (w.extractLsb' 19 6))
  | 2 => finish w 0x00000000 (.mulhu (w.extractLsb' 7 6) (w.extractLsb' 13 6) (w.extractLsb' 19 6))
  | 3 => finish w 0x00000000 (.div (w.extractLsb' 7 6) (w.extractLsb' 13 6) (w.extractLsb' 19 6))
  | 4 => finish w 0x00000000 (.divu (w.extractLsb' 7 6) (w.extractLsb' 13 6) (w.extractLsb' 19 6))
  | 5 => finish w 0x00000000 (.rem (w.extractLsb' 7 6) (w.extractLsb' 13 6) (w.extractLsb' 19 6))
  | 6 => finish w 0x00000000 (.remu (w.extractLsb' 7 6) (w.extractLsb' 13 6) (w.extractLsb' 19 6))
  | _ => .error .illegalEncoding

/-- Major 0x05 (R80). -/
def decodeMajor05 (w : BitVec 32) : Except Reject Instr :=
  match (w.extractLsb' 25 7).toNat with
  | 0 => finish w 0x01F80000 (.clz (w.extractLsb' 7 6) (w.extractLsb' 13 6))
  | 1 => finish w 0x01F80000 (.ctz (w.extractLsb' 7 6) (w.extractLsb' 13 6))
  | 2 => finish w 0x01F80000 (.popc (w.extractLsb' 7 6) (w.extractLsb' 13 6))
  | 3 => finish w 0x01F80000 (.rev8 (w.extractLsb' 7 6) (w.extractLsb' 13 6))
  | 4 => finish w 0x01F80000 (.brev (w.extractLsb' 7 6) (w.extractLsb' 13 6))
  | 5 => finish w 0x00000000 (.rotl (w.extractLsb' 7 6) (w.extractLsb' 13 6) (w.extractLsb' 19 6))
  | 6 => finish w 0x00000000 (.rotr (w.extractLsb' 7 6) (w.extractLsb' 13 6) (w.extractLsb' 19 6))
  | 7 => finish w 0x00000000 (.bext (w.extractLsb' 7 6) (w.extractLsb' 13 6) (w.extractLsb' 19 6))
  | 8 => finish w 0x00000000 (.bins (w.extractLsb' 7 6) (w.extractLsb' 13 6) (w.extractLsb' 19 6))
  | 9 => finish w 0x00000000 (.clmul (w.extractLsb' 7 6) (w.extractLsb' 13 6) (w.extractLsb' 19 6))
  | 10 => finish w 0x00000000 (.clmulh (w.extractLsb' 7 6) (w.extractLsb' 13 6) (w.extractLsb' 19 6))
  | 11 => finish w 0x0007E000 (.draw (w.extractLsb' 7 6) (w.extractLsb' 19 6))
  | _ => .error .illegalEncoding

/-- Major 0x06 (R80). -/
def decodeMajor06 (w : BitVec 32) : Except Reject Instr :=
  match (w.extractLsb' 25 7).toNat with
  | 0 => finish w 0x00000000 (.fadd (w.extractLsb' 7 6) (w.extractLsb' 13 6) (w.extractLsb' 19 6))
  | 1 => finish w 0x00000000 (.fsub (w.extractLsb' 7 6) (w.extractLsb' 13 6) (w.extractLsb' 19 6))
  | 2 => finish w 0x00000000 (.fmul (w.extractLsb' 7 6) (w.extractLsb' 13 6) (w.extractLsb' 19 6))
  | 3 => finish w 0x00000000 (.fdiv (w.extractLsb' 7 6) (w.extractLsb' 13 6) (w.extractLsb' 19 6))
  | 4 => finish w 0x01F80000 (.fsqrt (w.extractLsb' 7 6) (w.extractLsb' 13 6))
  | 5 => finish w 0x00000000 (.fmin (w.extractLsb' 7 6) (w.extractLsb' 13 6) (w.extractLsb' 19 6))
  | 6 => finish w 0x00000000 (.fmax (w.extractLsb' 7 6) (w.extractLsb' 13 6) (w.extractLsb' 19 6))
  | 7 => finish w 0x00000000 (.feq (w.extractLsb' 7 6) (w.extractLsb' 13 6) (w.extractLsb' 19 6))
  | 8 => finish w 0x00000000 (.flt (w.extractLsb' 7 6) (w.extractLsb' 13 6) (w.extractLsb' 19 6))
  | 9 => finish w 0x00000000 (.fle (w.extractLsb' 7 6) (w.extractLsb' 13 6) (w.extractLsb' 19 6))
  | 10 => finish w 0x01F80000 (.fclass (w.extractLsb' 7 6) (w.extractLsb' 13 6))
  | 11 => finish w 0x01F80000 (.fcvtF32I64 (w.extractLsb' 7 6) (w.extractLsb' 13 6))
  | 12 => finish w 0x01F80000 (.fcvtI64F32 (w.extractLsb' 7 6) (w.extractLsb' 13 6))
  | 13 => finish w 0x01F80000 (.fcvtF32Fx64 (w.extractLsb' 7 6) (w.extractLsb' 13 6))
  | 14 => finish w 0x01F80000 (.fcvtFx64F32 (w.extractLsb' 7 6) (w.extractLsb' 13 6))
  | 15 => finish w 0x01F80000 (.frcp (w.extractLsb' 7 6) (w.extractLsb' 13 6))
  | 16 => finish w 0x01F80000 (.frsqrt (w.extractLsb' 7 6) (w.extractLsb' 13 6))
  | 17 => finish w 0x00000000 (.frcps (w.extractLsb' 7 6) (w.extractLsb' 13 6) (w.extractLsb' 19 6))
  | 18 => finish w 0x00000000 (.frsqrts (w.extractLsb' 7 6) (w.extractLsb' 13 6) (w.extractLsb' 19 6))
  | 19 => finish w 0x01F80000 (.fexp2 (w.extractLsb' 7 6) (w.extractLsb' 13 6))
  | 20 => finish w 0x01F80000 (.flog2 (w.extractLsb' 7 6) (w.extractLsb' 13 6))
  | _ => .error .illegalEncoding

/-- Major 0x07 (R80). -/
def decodeMajor07 (w : BitVec 32) : Except Reject Instr :=
  match (w.extractLsb' 25 7).toNat with
  | 0 => finish w 0x00000000 (.fmadd (w.extractLsb' 7 6) (w.extractLsb' 13 6) (w.extractLsb' 19 6))
  | 1 => finish w 0x00000000 (.fmsub (w.extractLsb' 7 6) (w.extractLsb' 13 6) (w.extractLsb' 19 6))
  | 2 => finish w 0x00000000 (.fnmadd (w.extractLsb' 7 6) (w.extractLsb' 13 6) (w.extractLsb' 19 6))
  | 3 => finish w 0x00000000 (.fnmsub (w.extractLsb' 7 6) (w.extractLsb' 13 6) (w.extractLsb' 19 6))
  | _ => .error .illegalEncoding

/-- Major 0x08 (R80). -/
def decodeMajor08 (w : BitVec 32) : Except Reject Instr :=
  match (w.extractLsb' 7 3).toNat with
  | 0 => finish w 0x00000000 (.beq (w.extractLsb' 10 6) (w.extractLsb' 16 6) (w.extractLsb' 22 10))
  | 1 => finish w 0x00000000 (.bne (w.extractLsb' 10 6) (w.extractLsb' 16 6) (w.extractLsb' 22 10))
  | 2 => finish w 0x00000000 (.blt (w.extractLsb' 10 6) (w.extractLsb' 16 6) (w.extractLsb' 22 10))
  | 3 => finish w 0x00000000 (.bge (w.extractLsb' 10 6) (w.extractLsb' 16 6) (w.extractLsb' 22 10))
  | 4 => finish w 0x00000000 (.bltu (w.extractLsb' 10 6) (w.extractLsb' 16 6) (w.extractLsb' 22 10))
  | 5 => finish w 0x00000000 (.bgeu (w.extractLsb' 10 6) (w.extractLsb' 16 6) (w.extractLsb' 22 10))
  | 6 => finish w 0x00000000 (.btst (w.extractLsb' 10 6) (w.extractLsb' 16 6) (w.extractLsb' 22 10))
  | 7 => finish w 0x00000000 (.btstz (w.extractLsb' 10 6) (w.extractLsb' 16 6) (w.extractLsb' 22 10))
  | _ => .error .illegalEncoding

/-- Major 0x09 (R80). -/
def decodeMajor09 (w : BitVec 32) : Except Reject Instr :=
  finish w 0x00000000 (.bz (w.extractLsb' 7 6) (w.extractLsb' 13 19))

/-- Major 0x0A (R80). -/
def decodeMajor0A (w : BitVec 32) : Except Reject Instr :=
  finish w 0x00001F80 (.j (w.extractLsb' 13 19))

/-- Major 0x0B (R80). -/
def decodeMajor0B (w : BitVec 32) : Except Reject Instr :=
  finish w 0x00000000 (.jal (w.extractLsb' 7 6) (w.extractLsb' 13 19))

/-- Major 0x0C (R80). -/
def decodeMajor0C (w : BitVec 32) : Except Reject Instr :=
  finish w 0x00000000 (.jalr (w.extractLsb' 7 6) (w.extractLsb' 13 6) (w.extractLsb' 19 13))

/-- Major 0x0D (R80). -/
def decodeMajor0D (w : BitVec 32) : Except Reject Instr :=
  match (w.extractLsb' 19 3).toNat with
  | 0 => finish w 0x00000000 (.ldI8 (w.extractLsb' 7 6) (w.extractLsb' 13 6) (w.extractLsb' 22 10))
  | 1 => finish w 0x00000000 (.ldN8 (w.extractLsb' 7 6) (w.extractLsb' 13 6) (w.extractLsb' 22 10))
  | 2 => finish w 0x00000000 (.ldI16 (w.extractLsb' 7 6) (w.extractLsb' 13 6) (w.extractLsb' 22 10))
  | 3 => finish w 0x00000000 (.ldN16 (w.extractLsb' 7 6) (w.extractLsb' 13 6) (w.extractLsb' 22 10))
  | 4 => finish w 0x00000000 (.ldI32 (w.extractLsb' 7 6) (w.extractLsb' 13 6) (w.extractLsb' 22 10))
  | 5 => finish w 0x00000000 (.ldN32 (w.extractLsb' 7 6) (w.extractLsb' 13 6) (w.extractLsb' 22 10))
  | 6 => finish w 0x00000000 (.ld (w.extractLsb' 7 6) (w.extractLsb' 13 6) (w.extractLsb' 22 10))
  | _ => .error .illegalEncoding

/-- Major 0x0E (R80). -/
def decodeMajor0E (w : BitVec 32) : Except Reject Instr :=
  match (w.extractLsb' 19 3).toNat with
  | 0 => finish w 0x00000000 (.st8 (w.extractLsb' 7 6) (w.extractLsb' 13 6) (w.extractLsb' 22 10))
  | 2 => finish w 0x00000000 (.st16 (w.extractLsb' 7 6) (w.extractLsb' 13 6) (w.extractLsb' 22 10))
  | 4 => finish w 0x00000000 (.st32 (w.extractLsb' 7 6) (w.extractLsb' 13 6) (w.extractLsb' 22 10))
  | 6 => finish w 0x00000000 (.st (w.extractLsb' 7 6) (w.extractLsb' 13 6) (w.extractLsb' 22 10))
  | _ => .error .illegalEncoding

/-- Major 0x0F (R80). -/
def decodeMajor0F (w : BitVec 32) : Except Reject Instr :=
  match (w.extractLsb' 19 3).toNat with
  | 0 => finish w 0x00000000 (.ldAcqN32 (w.extractLsb' 7 6) (w.extractLsb' 13 6) (w.extractLsb' 22 3) (w.extractLsb' 25 7))
  | 1 => finish w 0x00000000 (.ldAcq (w.extractLsb' 7 6) (w.extractLsb' 13 6) (w.extractLsb' 22 3) (w.extractLsb' 25 7))
  | 2 => finish w 0x00000000 (.stRel32 (w.extractLsb' 7 6) (w.extractLsb' 13 6) (w.extractLsb' 22 3) (w.extractLsb' 25 7))
  | 3 => finish w 0x00000000 (.stRel (w.extractLsb' 7 6) (w.extractLsb' 13 6) (w.extractLsb' 22 3) (w.extractLsb' 25 7))
  | 4 => finish w 0x01C00000 (.stnt32 (w.extractLsb' 7 6) (w.extractLsb' 13 6) (w.extractLsb' 25 7))
  | 5 => finish w 0x01C00000 (.stnt (w.extractLsb' 7 6) (w.extractLsb' 13 6) (w.extractLsb' 25 7))
  | _ => .error .illegalEncoding

/-- Major 0x10 (R80). -/
def decodeMajor10 (w : BitVec 32) : Except Reject Instr :=
  match (w.extractLsb' 28 4).toNat with
  | 0 => finish w 0x00000000 (.amoswap (w.extractLsb' 7 6) (w.extractLsb' 13 6) (w.extractLsb' 19 6) (w.extractLsb' 25 3))
  | 1 => finish w 0x00000000 (.amoaddI64 (w.extractLsb' 7 6) (w.extractLsb' 13 6) (w.extractLsb' 19 6) (w.extractLsb' 25 3))
  | 2 => finish w 0x00000000 (.amoand (w.extractLsb' 7 6) (w.extractLsb' 13 6) (w.extractLsb' 19 6) (w.extractLsb' 25 3))
  | 3 => finish w 0x00000000 (.amoor (w.extractLsb' 7 6) (w.extractLsb' 13 6) (w.extractLsb' 19 6) (w.extractLsb' 25 3))
  | 4 => finish w 0x00000000 (.amoxor (w.extractLsb' 7 6) (w.extractLsb' 13 6) (w.extractLsb' 19 6) (w.extractLsb' 25 3))
  | 5 => finish w 0x00000000 (.amomaxI64 (w.extractLsb' 7 6) (w.extractLsb' 13 6) (w.extractLsb' 19 6) (w.extractLsb' 25 3))
  | 6 => finish w 0x00000000 (.amominI64 (w.extractLsb' 7 6) (w.extractLsb' 13 6) (w.extractLsb' 19 6) (w.extractLsb' 25 3))
  | 7 => finish w 0x00000000 (.amomaxN64 (w.extractLsb' 7 6) (w.extractLsb' 13 6) (w.extractLsb' 19 6) (w.extractLsb' 25 3))
  | 8 => finish w 0x00000000 (.amominN64 (w.extractLsb' 7 6) (w.extractLsb' 13 6) (w.extractLsb' 19 6) (w.extractLsb' 25 3))
  | 9 => finish w 0x00000000 (.amocas (w.extractLsb' 7 6) (w.extractLsb' 13 6) (w.extractLsb' 19 6) (w.extractLsb' 25 3))
  | 10 => finish w 0x00000000 (.amoaddI32 (w.extractLsb' 7 6) (w.extractLsb' 13 6) (w.extractLsb' 19 6) (w.extractLsb' 25 3))
  | 11 => finish w 0x00000000 (.amoswap32 (w.extractLsb' 7 6) (w.extractLsb' 13 6) (w.extractLsb' 19 6) (w.extractLsb' 25 3))
  | 12 => finish w 0x00000000 (.amoaddFx64 (w.extractLsb' 7 6) (w.extractLsb' 13 6) (w.extractLsb' 19 6) (w.extractLsb' 25 3))
  | 13 => finish w 0x00000000 (.amoaddF32 (w.extractLsb' 7 6) (w.extractLsb' 13 6) (w.extractLsb' 19 6) (w.extractLsb' 25 3))
  | 14 => finish w 0x00000000 (.amocas32 (w.extractLsb' 7 6) (w.extractLsb' 13 6) (w.extractLsb' 19 6) (w.extractLsb' 25 3))
  | _ => .error .illegalEncoding

/-- Major 0x11 (R80). -/
def decodeMajor11 (w : BitVec 32) : Except Reject Instr :=
  match (w.extractLsb' 25 7).toNat with
  | 0 => finish w 0x01C7FF80 (.fence (w.extractLsb' 19 3))
  | 2 => finish w 0x00000000 (.mflush (w.extractLsb' 7 6) (w.extractLsb' 13 6) (w.extractLsb' 19 6))
  | 3 => finish w 0x00001F80 (.cinv (w.extractLsb' 13 6) (w.extractLsb' 19 6))
  | 1 => finish w 0x01FFFF80 (.ntdrain)
  | _ => .error .illegalEncoding

/-- Major 0x12 (R80). -/
def decodeMajor12 (w : BitVec 32) : Except Reject Instr :=
  match (w.extractLsb' 28 4).toNat with
  | 0 => finish w 0x0E000000 (.put (w.extractLsb' 7 6) (w.extractLsb' 13 6) (w.extractLsb' 19 6))
  | 1 => finish w 0x0E000000 (.putV (w.extractLsb' 7 6) (w.extractLsb' 13 6) (w.extractLsb' 19 6))
  | _ => .error .illegalEncoding

/-- Major 0x13 (R80). -/
def decodeMajor13 (w : BitVec 32) : Except Reject Instr :=
  match (w.extractLsb' 19 3).toNat with
  | 0 => if w.extractLsb' 12 1 = 0 then finish w 0x00000000 (.vld (w.extractLsb' 7 5) (w.extractLsb' 13 6) (w.extractLsb' 22 10)) else finish w 0x00000000 (.vst (w.extractLsb' 7 5) (w.extractLsb' 13 6) (w.extractLsb' 22 10))
  | 1 => if w.extractLsb' 12 1 = 0 then finish w 0x00000000 (.vldTa6 (w.extractLsb' 7 5) (w.extractLsb' 13 6) (w.extractLsb' 22 10)) else finish w 0x00000000 (.vstTa6 (w.extractLsb' 7 5) (w.extractLsb' 13 6) (w.extractLsb' 22 10))
  | _ => .error .illegalEncoding

/-- Major 0x14 (R80). -/
def decodeMajor14 (w : BitVec 32) : Except Reject Instr :=
  match (w.extractLsb' 26 6).toNat with
  | 0 => finish w 0x00000000 (.vgather (w.extractLsb' 22 4) (w.extractLsb' 7 5) (w.extractLsb' 12 5) (w.extractLsb' 17 5))
  | 1 => finish w 0x00000000 (.vscatter (w.extractLsb' 22 4) (w.extractLsb' 7 5) (w.extractLsb' 12 5) (w.extractLsb' 17 5))
  | _ => .error .illegalEncoding

/-- Major 0x15 (R80). -/
def decodeMajor15 (w : BitVec 32) : Except Reject Instr :=
  match (w.extractLsb' 26 5).toNat with
  | 0 => finish w 0x00000000 (.vaddInt (w.extractLsb' 22 4) (w.extractLsb' 31 1) (w.extractLsb' 7 5) (w.extractLsb' 12 5) (w.extractLsb' 17 5))
  | 1 => finish w 0x00000000 (.vsubInt (w.extractLsb' 22 4) (w.extractLsb' 31 1) (w.extractLsb' 7 5) (w.extractLsb' 12 5) (w.extractLsb' 17 5))
  | 2 => finish w 0x00000000 (.vmulInt (w.extractLsb' 22 4) (w.extractLsb' 31 1) (w.extractLsb' 7 5) (w.extractLsb' 12 5) (w.extractLsb' 17 5))
  | 3 => finish w 0x00000000 (.vmulh (w.extractLsb' 22 4) (w.extractLsb' 31 1) (w.extractLsb' 7 5) (w.extractLsb' 12 5) (w.extractLsb' 17 5))
  | 4 => finish w 0x00000000 (.vadds (w.extractLsb' 22 4) (w.extractLsb' 31 1) (w.extractLsb' 7 5) (w.extractLsb' 12 5) (w.extractLsb' 17 5))
  | 5 => finish w 0x00000000 (.vsubs (w.extractLsb' 22 4) (w.extractLsb' 31 1) (w.extractLsb' 7 5) (w.extractLsb' 12 5) (w.extractLsb' 17 5))
  | 6 => finish w 0x00000000 (.vminInt (w.extractLsb' 22 4) (w.extractLsb' 31 1) (w.extractLsb' 7 5) (w.extractLsb' 12 5) (w.extractLsb' 17 5))
  | 7 => finish w 0x00000000 (.vmaxInt (w.extractLsb' 22 4) (w.extractLsb' 31 1) (w.extractLsb' 7 5) (w.extractLsb' 12 5) (w.extractLsb' 17 5))
  | 8 => finish w 0x00000000 (.vmadd (w.extractLsb' 22 4) (w.extractLsb' 31 1) (w.extractLsb' 7 5) (w.extractLsb' 12 5) (w.extractLsb' 17 5))
  | 9 => finish w 0x00000000 (.vwmul (w.extractLsb' 22 4) (w.extractLsb' 31 1) (w.extractLsb' 7 5) (w.extractLsb' 12 5) (w.extractLsb' 17 5))
  | 10 => finish w 0x00000000 (.vand (w.extractLsb' 22 4) (w.extractLsb' 31 1) (w.extractLsb' 7 5) (w.extractLsb' 12 5) (w.extractLsb' 17 5))
  | 11 => finish w 0x00000000 (.vor (w.extractLsb' 22 4) (w.extractLsb' 31 1) (w.extractLsb' 7 5) (w.extractLsb' 12 5) (w.extractLsb' 17 5))
  | 12 => finish w 0x00000000 (.vxor (w.extractLsb' 22 4) (w.extractLsb' 31 1) (w.extractLsb' 7 5) (w.extractLsb' 12 5) (w.extractLsb' 17 5))
  | 13 => finish w 0x00000000 (.vshl (w.extractLsb' 22 4) (w.extractLsb' 31 1) (w.extractLsb' 7 5) (w.extractLsb' 12 5) (w.extractLsb' 17 5))
  | 14 => finish w 0x00000000 (.vshr (w.extractLsb' 22 4) (w.extractLsb' 31 1) (w.extractLsb' 7 5) (w.extractLsb' 12 5) (w.extractLsb' 17 5))
  | 15 => finish w 0x00000000 (.vclmul (w.extractLsb' 22 4) (w.extractLsb' 31 1) (w.extractLsb' 7 5) (w.extractLsb' 12 5) (w.extractLsb' 17 5))
  | _ => .error .illegalEncoding

/-- Major 0x16 (R80). -/
def decodeMajor16 (w : BitVec 32) : Except Reject Instr :=
  match (w.extractLsb' 26 5).toNat with
  | 0 => finish w 0x00000000 (.vaddFloat (w.extractLsb' 22 4) (w.extractLsb' 31 1) (w.extractLsb' 7 5) (w.extractLsb' 12 5) (w.extractLsb' 17 5))
  | 1 => finish w 0x00000000 (.vsubFloat (w.extractLsb' 22 4) (w.extractLsb' 31 1) (w.extractLsb' 7 5) (w.extractLsb' 12 5) (w.extractLsb' 17 5))
  | 2 => finish w 0x00000000 (.vmulFloat (w.extractLsb' 22 4) (w.extractLsb' 31 1) (w.extractLsb' 7 5) (w.extractLsb' 12 5) (w.extractLsb' 17 5))
  | 3 => finish w 0x00000000 (.vfma (w.extractLsb' 22 4) (w.extractLsb' 31 1) (w.extractLsb' 7 5) (w.extractLsb' 12 5) (w.extractLsb' 17 5))
  | 4 => finish w 0x00000000 (.vminFloat (w.extractLsb' 22 4) (w.extractLsb' 31 1) (w.extractLsb' 7 5) (w.extractLsb' 12 5) (w.extractLsb' 17 5))
  | 5 => finish w 0x00000000 (.vmaxFloat (w.extractLsb' 22 4) (w.extractLsb' 31 1) (w.extractLsb' 7 5) (w.extractLsb' 12 5) (w.extractLsb' 17 5))
  | 6 => if w.extractLsb' 22 4 ≠ 6 then .error .illegalEncoding else finish w 0x803E0000 (.vexp2 (w.extractLsb' 7 5) (w.extractLsb' 12 5))
  | 7 => if w.extractLsb' 22 4 ≠ 6 then .error .illegalEncoding else finish w 0x803E0000 (.vlog2 (w.extractLsb' 7 5) (w.extractLsb' 12 5))
  | 8 => if w.extractLsb' 22 4 ≠ 6 then .error .illegalEncoding else finish w 0x803E0000 (.vrcp (w.extractLsb' 7 5) (w.extractLsb' 12 5))
  | 9 => if w.extractLsb' 22 4 ≠ 6 then .error .illegalEncoding else finish w 0x803E0000 (.vrsqrt (w.extractLsb' 7 5) (w.extractLsb' 12 5))
  | 10 => if w.extractLsb' 22 4 ≠ 6 then .error .illegalEncoding else finish w 0x00000000 (.vrcps (w.extractLsb' 31 1) (w.extractLsb' 7 5) (w.extractLsb' 12 5) (w.extractLsb' 17 5))
  | 11 => if w.extractLsb' 22 4 ≠ 6 then .error .illegalEncoding else finish w 0x00000000 (.vrsqrts (w.extractLsb' 31 1) (w.extractLsb' 7 5) (w.extractLsb' 12 5) (w.extractLsb' 17 5))
  | _ => .error .illegalEncoding

/-- Major 0x17 (R80). -/
def decodeMajor17 (w : BitVec 32) : Except Reject Instr :=
  match (w.extractLsb' 26 6).toNat with
  | 0 => finish w 0x00200000 (.vcvt (w.extractLsb' 22 4) (w.extractLsb' 17 4) (w.extractLsb' 7 5) (w.extractLsb' 12 5))
  | 1 => finish w 0x00200000 (.vcvtw (w.extractLsb' 22 4) (w.extractLsb' 17 4) (w.extractLsb' 7 5) (w.extractLsb' 12 5))
  | 2 => finish w 0x00000000 (.vquant (w.extractLsb' 22 4) (w.extractLsb' 7 5) (w.extractLsb' 12 5) (w.extractLsb' 17 5))
  | 3 => finish w 0x003E0F80 (.vamax (w.extractLsb' 22 4) (w.extractLsb' 12 5))
  | _ => .error .illegalEncoding

/-- Major 0x18 (R80). -/
def decodeMajor18 (w : BitVec 32) : Except Reject Instr :=
  match (w.extractLsb' 26 6).toNat with
  | 0 => finish w 0x003E0000 (.vmov (w.extractLsb' 22 4) (w.extractLsb' 7 5) (w.extractLsb' 12 5))
  | 1 => finish w 0x003E0000 (.vbcast (w.extractLsb' 22 4) (w.extractLsb' 7 5) (w.extractLsb' 12 5))
  | 2 => finish w 0x00000000 (.vextract (w.extractLsb' 22 4) (w.extractLsb' 7 5) (w.extractLsb' 12 5) (w.extractLsb' 17 5))
  | 3 => finish w 0x00000000 (.vperm (w.extractLsb' 22 4) (w.extractLsb' 7 5) (w.extractLsb' 12 5) (w.extractLsb' 17 5))
  | 4 => finish w 0x00000000 (.vslide (w.extractLsb' 22 4) (w.extractLsb' 7 5) (w.extractLsb' 12 5) (w.extractLsb' 17 5))
  | 5 => finish w 0x003FF000 (.viota (w.extractLsb' 22 4) (w.extractLsb' 7 5))
  | 6 => finish w 0x003E0000 (.vredsum (w.extractLsb' 22 4) (w.extractLsb' 7 5) (w.extractLsb' 12 5))
  | 7 => finish w 0x003E0000 (.vredmax (w.extractLsb' 22 4) (w.extractLsb' 7 5) (w.extractLsb' 12 5))
  | 8 => finish w 0x003E0000 (.vredmin (w.extractLsb' 22 4) (w.extractLsb' 7 5) (w.extractLsb' 12 5))
  | 9 => if w.extractLsb' 22 4 ≠ 6 then .error .illegalEncoding else finish w 0x00000000 (.vsample (w.extractLsb' 7 5) (w.extractLsb' 12 5) (w.extractLsb' 17 5))
  | _ => .error .illegalEncoding

/-- Major 0x19 (R80). -/
def decodeMajor19 (w : BitVec 32) : Except Reject Instr :=
  match (w.extractLsb' 26 6).toNat with
  | 0 => finish w 0x00000000 (.vcmpeq (w.extractLsb' 22 4) (w.extractLsb' 7 5) (w.extractLsb' 12 5) (w.extractLsb' 17 5))
  | 1 => finish w 0x00000000 (.vcmpne (w.extractLsb' 22 4) (w.extractLsb' 7 5) (w.extractLsb' 12 5) (w.extractLsb' 17 5))
  | 2 => finish w 0x00000000 (.vcmplt (w.extractLsb' 22 4) (w.extractLsb' 7 5) (w.extractLsb' 12 5) (w.extractLsb' 17 5))
  | 3 => finish w 0x00000000 (.vcmple (w.extractLsb' 22 4) (w.extractLsb' 7 5) (w.extractLsb' 12 5) (w.extractLsb' 17 5))
  | 4 => finish w 0x00000000 (.vsel (w.extractLsb' 22 4) (w.extractLsb' 7 5) (w.extractLsb' 12 5) (w.extractLsb' 17 5))
  | 5 => if w.extractLsb' 22 4 ≠ 0 then .error .illegalEncoding else finish w 0x00000000 (.kand (w.extractLsb' 7 5) (w.extractLsb' 12 5) (w.extractLsb' 17 5))
  | 6 => if w.extractLsb' 22 4 ≠ 0 then .error .illegalEncoding else finish w 0x00000000 (.kor (w.extractLsb' 7 5) (w.extractLsb' 12 5) (w.extractLsb' 17 5))
  | 7 => if w.extractLsb' 22 4 ≠ 0 then .error .illegalEncoding else finish w 0x00000000 (.kxor (w.extractLsb' 7 5) (w.extractLsb' 12 5) (w.extractLsb' 17 5))
  | 8 => if w.extractLsb' 22 4 ≠ 0 then .error .illegalEncoding else finish w 0x00000000 (.kandn (w.extractLsb' 7 5) (w.extractLsb' 12 5) (w.extractLsb' 17 5))
  | 9 => if w.extractLsb' 22 4 ≠ 0 then .error .illegalEncoding else finish w 0x003E0000 (.kpop (w.extractLsb' 7 5) (w.extractLsb' 12 5))
  | _ => .error .illegalEncoding

/-- Major 0x1A (R80). -/
def decodeMajor1A (w : BitVec 32) : Except Reject Instr :=
  match (w.extractLsb' 25 7).toNat with
  | 1 => finish w 0x00001F80 (.pfac (w.extractLsb' 13 6) (w.extractLsb' 19 6))
  | 2 => finish w 0x00000000 (.pfacv (w.extractLsb' 7 6) (w.extractLsb' 13 6) (w.extractLsb' 19 6))
  | 3 => finish w 0x00001F80 (.pdiv (w.extractLsb' 13 6) (w.extractLsb' 19 6))
  | 4 => finish w 0x01F81F80 (.pconv (w.extractLsb' 13 6))
  | 5 => finish w 0x01F81F80 (.pld (w.extractLsb' 13 6))
  | 6 => finish w 0x01F81F80 (.pst (w.extractLsb' 13 6))
  | 7 => finish w 0x01F80000 (.pget (w.extractLsb' 7 6) (w.extractLsb' 13 6))
  | 8 => finish w 0x01FFE000 (.pstat (w.extractLsb' 7 6))
  | 0 => finish w 0x01FFFF80 (.pclr)
  | _ => .error .illegalEncoding

/-- Major 0x1B (R80). -/
def decodeMajor1B (w : BitVec 32) : Except Reject Instr :=
  match (w.extractLsb' 25 7).toNat with
  | 1 => finish w 0x01F80000 (.rcommit (w.extractLsb' 7 6) (w.extractLsb' 13 6))
  | 3 => finish w 0x01FFE000 (.rstat (w.extractLsb' 7 6))
  | 0 => finish w 0x01FFFF80 (.rbegin)
  | 2 => finish w 0x01FFFF80 (.rabort)
  | _ => .error .illegalEncoding

/-- Major 0x1C (R80). -/
def decodeMajor1C (w : BitVec 32) : Except Reject Instr :=
  match (w.extractLsb' 28 4).toNat with
  | 0 => finish w 0x0FF80000 (.oclaim (w.extractLsb' 7 6) (w.extractLsb' 13 6))
  | 1 => finish w 0x0FFFE000 (.orelease (w.extractLsb' 7 6))
  | 2 => finish w 0x00000000 (.ofill (w.extractLsb' 25 3) (w.extractLsb' 7 6) (w.extractLsb' 13 6) (w.extractLsb' 19 6))
  | 3 => finish w 0x00000000 (.mma (w.extractLsb' 25 3) (w.extractLsb' 7 6) (w.extractLsb' 13 6) (w.extractLsb' 19 6))
  | 4 => finish w 0x01FFE000 (.mmask (w.extractLsb' 25 3) (w.extractLsb' 7 6))
  | 5 => finish w 0x0007E000 (.adrain (w.extractLsb' 25 3) (w.extractLsb' 7 6) (w.extractLsb' 19 6))
  | 6 => finish w 0x01FFE000 (.azero (w.extractLsb' 25 3) (w.extractLsb' 7 6))
  | _ => .error .illegalEncoding

/-- Major 0x1D (R80). -/
def decodeMajor1D (w : BitVec 32) : Except Reject Instr :=
  match (w.extractLsb' 28 4).toNat with
  | 0 => finish w 0x00000000 (.cpy (w.extractLsb' 25 3) (w.extractLsb' 7 6) (w.extractLsb' 13 6) (w.extractLsb' 19 6))
  | 1 => finish w 0x00000000 (.cpyt (w.extractLsb' 25 3) (w.extractLsb' 7 6) (w.extractLsb' 13 6) (w.extractLsb' 19 6))
  | 2 => finish w 0x00000000 (.halo (w.extractLsb' 25 3) (w.extractLsb' 7 6) (w.extractLsb' 13 6) (w.extractLsb' 19 6))
  | _ => .error .illegalEncoding

/-- Major 0x1E (R80). -/
def decodeMajor1E (w : BitVec 32) : Except Reject Instr :=
  match (w.extractLsb' 28 4).toNat with
  | 0 => finish w 0x01FFFF80 (.garm (w.extractLsb' 25 3))
  | 1 => finish w 0x01FFE000 (.gset (w.extractLsb' 25 3) (w.extractLsb' 7 6))
  | _ => .error .illegalEncoding

/-- Major 0x1F (R80). -/
def decodeMajor1F (w : BitVec 32) : Except Reject Instr :=
  match (w.extractLsb' 28 4).toNat with
  | 0 => finish w 0x0E000000 (.send (w.extractLsb' 7 6) (w.extractLsb' 13 6) (w.extractLsb' 19 6))
  | 1 => finish w 0x0E000000 (.sendr (w.extractLsb' 7 6) (w.extractLsb' 13 6) (w.extractLsb' 19 6))
  | 2 => finish w 0x0FF80000 (.bind (w.extractLsb' 7 6) (w.extractLsb' 13 6))
  | 3 => finish w 0x0FF81F80 (.unbind (w.extractLsb' 13 6))
  | 4 => finish w 0x0E07E000 (.chput (w.extractLsb' 19 6) (w.extractLsb' 7 6))
  | 5 => finish w 0x0FF80000 (.wclose (w.extractLsb' 7 6) (w.extractLsb' 13 6))
  | _ => .error .illegalEncoding

/-- Major 0x20 (R80). -/
def decodeMajor20 (w : BitVec 32) : Except Reject Instr :=
  match (w.extractLsb' 28 4).toNat with
  | 0 => finish w 0x0E000000 (.spawn (w.extractLsb' 7 6) (w.extractLsb' 13 6) (w.extractLsb' 19 6))
  | 1 => finish w 0x0E000000 (.spawnj (w.extractLsb' 7 6) (w.extractLsb' 13 6) (w.extractLsb' 19 6))
  | 3 => finish w 0x0FFFE000 (.yield (w.extractLsb' 7 6))
  | 2 => finish w 0x0FFFFF80 (.done)
  | _ => .error .illegalEncoding

/-- Major 0x21 (R80). -/
def decodeMajor21 (w : BitVec 32) : Except Reject Instr :=
  match (w.extractLsb' 28 4).toNat with
  | 0 => finish w 0x0E000000 (.tset (w.extractLsb' 7 6) (w.extractLsb' 13 6) (w.extractLsb' 19 6))
  | 1 => finish w 0x0FF80000 (.tmark (w.extractLsb' 7 6) (w.extractLsb' 13 6))
  | 2 => finish w 0x0FF80000 (.twait (w.extractLsb' 7 6) (w.extractLsb' 13 6))
  | 3 => finish w 0x0FF80000 (.tstat (w.extractLsb' 7 6) (w.extractLsb' 13 6))
  | 4 => finish w 0x0FFFE000 (.tclr (w.extractLsb' 7 6))
  | _ => .error .illegalEncoding

/-- Major 0x22 (R80). -/
def decodeMajor22 (w : BitVec 32) : Except Reject Instr :=
  match (w.extractLsb' 28 4).toNat with
  | 0 => finish w 0x0E000000 (.cwait (w.extractLsb' 7 6) (w.extractLsb' 13 6) (w.extractLsb' 19 6))
  | 1 => finish w 0x0E000000 (.ctrig (w.extractLsb' 7 6) (w.extractLsb' 13 6) (w.extractLsb' 19 6))
  | 2 => finish w 0x0FF80000 (.evset (w.extractLsb' 7 6) (w.extractLsb' 13 6))
  | 3 => finish w 0x0FF80000 (.evclr (w.extractLsb' 7 6) (w.extractLsb' 13 6))
  | 4 => finish w 0x0FF80000 (.evwait (w.extractLsb' 7 6) (w.extractLsb' 13 6))
  | 5 => finish w 0x0E000000 (.rinit (w.extractLsb' 7 6) (w.extractLsb' 13 6) (w.extractLsb' 19 6))
  | 6 => finish w 0x0FF80000 (.rnext (w.extractLsb' 7 6) (w.extractLsb' 13 6))
  | 7 => finish w 0x0FF80000 (.tjoin (w.extractLsb' 7 6) (w.extractLsb' 13 6))
  | 8 => finish w 0x0FFFE000 (.tleave (w.extractLsb' 7 6))
  | 9 => finish w 0x0FFFE000 (.tbar (w.extractLsb' 7 6))
  | 10 => finish w 0x0FF80000 (.launch (w.extractLsb' 7 6) (w.extractLsb' 13 6))
  | 11 => finish w 0x0E000000 (.digest (w.extractLsb' 7 6) (w.extractLsb' 13 6) (w.extractLsb' 19 6))
  | _ => .error .illegalEncoding

/-- Major 0x23 (R80). -/
def decodeMajor23 (w : BitVec 32) : Except Reject Instr :=
  match (w.extractLsb' 28 4).toNat with
  | 0 => finish w 0x00000000 (.tkn (w.extractLsb' 25 3) (w.extractLsb' 7 6) (w.extractLsb' 13 6) (w.extractLsb' 19 6))
  | 1 => finish w 0x00000000 (.dtkn (w.extractLsb' 25 3) (w.extractLsb' 7 6) (w.extractLsb' 13 6) (w.extractLsb' 19 6))
  | 2 => finish w 0x0E000000 (.combineMaxi (w.extractLsb' 7 6) (w.extractLsb' 13 6) (w.extractLsb' 19 6))
  | 3 => finish w 0x0E000000 (.combineAddfx (w.extractLsb' 7 6) (w.extractLsb' 13 6) (w.extractLsb' 19 6))
  | _ => .error .illegalEncoding

/-- Major 0x24 (R80). -/
def decodeMajor24 (w : BitVec 32) : Except Reject Instr :=
  match (w.extractLsb' 28 4).toNat with
  | 0 => finish w 0x0E000000 (.srr (w.extractLsb' 7 6) (w.extractLsb' 13 12))
  | 1 => finish w 0x0E000000 (.srw (w.extractLsb' 7 6) (w.extractLsb' 13 12))
  | 2 => finish w 0x0E001F80 (.trap (w.extractLsb' 13 12))
  | 3 => finish w 0x0FFFFF80 (.eret)
  | 4 => finish w 0x0FFFFF80 (.bkpt)
  | 5 => finish w 0x0FFFFF80 (.halt)
  | 6 => finish w 0x0FFFFF80 (.waiti)
  | _ => .error .illegalEncoding

/-- Major 0x3F: the word of a mask, a fourth operand and a rounding mode (R77). When no mask is in use, [11:7] must be zero. -/
def decodeMajor3F (w : BitVec 32) : Except Reject Instr :=
  if w &&& 0x7FE00000 ≠ 0 then .error .reservedField
  else if w.extractLsb' 31 1 = 0 ∧ w.extractLsb' 7 5 ≠ 0 then .error .reservedField
  else .ok (.pfx (w.extractLsb' 20 1) (w.extractLsb' 31 1) (w.extractLsb' 15 5) (w.extractLsb' 12 3) (w.extractLsb' 11 1) (w.extractLsb' 7 4))

/-- A 32-bit word (R75, R80): bit 0 is 1 and bits [6:1] give the major. -/
def decode32 (w : BitVec 32) : Except Reject Instr :=
  match (w.extractLsb' 1 6).toNat with
  | 0x00 => decodeMajor00 w
  | 0x01 => decodeMajor01 w
  | 0x02 => decodeMajor02 w
  | 0x03 => decodeMajor03 w
  | 0x04 => decodeMajor04 w
  | 0x05 => decodeMajor05 w
  | 0x06 => decodeMajor06 w
  | 0x07 => decodeMajor07 w
  | 0x08 => decodeMajor08 w
  | 0x09 => decodeMajor09 w
  | 0x0A => decodeMajor0A w
  | 0x0B => decodeMajor0B w
  | 0x0C => decodeMajor0C w
  | 0x0D => decodeMajor0D w
  | 0x0E => decodeMajor0E w
  | 0x0F => decodeMajor0F w
  | 0x10 => decodeMajor10 w
  | 0x11 => decodeMajor11 w
  | 0x12 => decodeMajor12 w
  | 0x13 => decodeMajor13 w
  | 0x14 => decodeMajor14 w
  | 0x15 => decodeMajor15 w
  | 0x16 => decodeMajor16 w
  | 0x17 => decodeMajor17 w
  | 0x18 => decodeMajor18 w
  | 0x19 => decodeMajor19 w
  | 0x1A => decodeMajor1A w
  | 0x1B => decodeMajor1B w
  | 0x1C => decodeMajor1C w
  | 0x1D => decodeMajor1D w
  | 0x1E => decodeMajor1E w
  | 0x1F => decodeMajor1F w
  | 0x20 => decodeMajor20 w
  | 0x21 => decodeMajor21 w
  | 0x22 => decodeMajor22 w
  | 0x23 => decodeMajor23 w
  | 0x24 => decodeMajor24 w
  | 0x3F => decodeMajor3F w
  | _ => .error .illegalEncoding

/-- A 16-bit instruction (R73, R74): bit 0 is 0 and bits [4:1] give op4; the halfword 0x0000 is no instruction. -/
def decode16 (w : BitVec 16) : Except Reject Instr :=
  if w = 0 then .error .illegalEncoding else
  match (w.extractLsb' 1 4).toNat with
  | 0 => if w.extractLsb' 15 1 = 0 then .ok (.vmov16 (w.extractLsb' 5 5) (w.extractLsb' 10 5)) else .ok (.vbcast16 (w.extractLsb' 5 5) (w.extractLsb' 10 5))
  | 1 => .ok (.vaddI3216 (w.extractLsb' 15 1) (w.extractLsb' 5 5) (w.extractLsb' 10 5))
  | 2 => .ok (.vsubI3216 (w.extractLsb' 15 1) (w.extractLsb' 5 5) (w.extractLsb' 10 5))
  | 3 => .ok (.vand16 (w.extractLsb' 15 1) (w.extractLsb' 5 5) (w.extractLsb' 10 5))
  | 4 => .ok (.vor16 (w.extractLsb' 15 1) (w.extractLsb' 5 5) (w.extractLsb' 10 5))
  | 5 => .ok (.vxor16 (w.extractLsb' 15 1) (w.extractLsb' 5 5) (w.extractLsb' 10 5))
  | 6 => .ok (.vshlI3216 (w.extractLsb' 15 1) (w.extractLsb' 5 5) (w.extractLsb' 10 5))
  | 7 => .ok (.vshrN3216 (w.extractLsb' 15 1) (w.extractLsb' 5 5) (w.extractLsb' 10 5))
  | 8 => .ok (.vshrI3216 (w.extractLsb' 15 1) (w.extractLsb' 5 5) (w.extractLsb' 10 5))
  | 9 => .ok (.vminI3216 (w.extractLsb' 15 1) (w.extractLsb' 5 5) (w.extractLsb' 10 5))
  | 10 => .ok (.vmaxI3216 (w.extractLsb' 15 1) (w.extractLsb' 5 5) (w.extractLsb' 10 5))
  | 11 => .ok (.vaddF3216 (w.extractLsb' 15 1) (w.extractLsb' 5 5) (w.extractLsb' 10 5))
  | 12 => .ok (.vsubF3216 (w.extractLsb' 15 1) (w.extractLsb' 5 5) (w.extractLsb' 10 5))
  | 13 => .ok (.vmulF3216 (w.extractLsb' 15 1) (w.extractLsb' 5 5) (w.extractLsb' 10 5))
  | 14 => .ok (.vminF3216 (w.extractLsb' 15 1) (w.extractLsb' 5 5) (w.extractLsb' 10 5))
  | _ => .ok (.vmaxF3216 (w.extractLsb' 15 1) (w.extractLsb' 5 5) (w.extractLsb' 10 5))

/-- The instruction that stands at the start of the bytes (R71): the length is bit 0 of the first halfword, and every value is
little-endian. It answers the rest of the bytes with it. -/
def decode : List Byte → Except Reject (Instr × List Byte)
  | b0 :: b1 :: rest =>
    if b0.getLsbD 0 then
      match rest with
      | b2 :: b3 :: rest => (decode32 (b3 ++ b2 ++ b1 ++ b0)).map fun i => (i, rest)
      | _ => .error .tooShort
    else (decode16 (b1 ++ b0)).map fun i => (i, rest)
  | _ => .error .tooShort

/-- The word of an instruction, written from the same encoding tables (R74 to R83); a row without an encoding has none. -/
inductive Words where
  | one (h : BitVec 16)
  | two (w : BitVec 32)
  | none
deriving DecidableEq, Repr

def encode : Instr → Words
  | .add d a b => .two (0#7 ++ b ++ a ++ d ++ 1#7)
  | .sub d a b => .two (1#7 ++ b ++ a ++ d ++ 1#7)
  | .and d a b => .two (2#7 ++ b ++ a ++ d ++ 1#7)
  | .or d a b => .two (3#7 ++ b ++ a ++ d ++ 1#7)
  | .xor d a b => .two (4#7 ++ b ++ a ++ d ++ 1#7)
  | .sll d a b => .two (5#7 ++ b ++ a ++ d ++ 1#7)
  | .srl d a b => .two (6#7 ++ b ++ a ++ d ++ 1#7)
  | .sra d a b => .two (7#7 ++ b ++ a ++ d ++ 1#7)
  | .slt d a b => .two (8#7 ++ b ++ a ++ d ++ 1#7)
  | .sltu d a b => .two (9#7 ++ b ++ a ++ d ++ 1#7)
  | .min d a b => .two (10#7 ++ b ++ a ++ d ++ 1#7)
  | .max d a b => .two (11#7 ++ b ++ a ++ d ++ 1#7)
  | .minu d a b => .two (12#7 ++ b ++ a ++ d ++ 1#7)
  | .maxu d a b => .two (13#7 ++ b ++ a ++ d ++ 1#7)
  | .csel d a b => .two (14#7 ++ b ++ a ++ d ++ 1#7)
  | .addi d a i => .two (i ++ a ++ d ++ 3#7)
  | .lui d i => .two (i ++ d ++ 5#7)
  | .auipc d i => .two (i ++ d ++ 7#7)
  | .mul d a b => .two (0#7 ++ b ++ a ++ d ++ 9#7)
  | .mulh d a b => .two (1#7 ++ b ++ a ++ d ++ 9#7)
  | .mulhu d a b => .two (2#7 ++ b ++ a ++ d ++ 9#7)
  | .div d a b => .two (3#7 ++ b ++ a ++ d ++ 9#7)
  | .divu d a b => .two (4#7 ++ b ++ a ++ d ++ 9#7)
  | .rem d a b => .two (5#7 ++ b ++ a ++ d ++ 9#7)
  | .remu d a b => .two (6#7 ++ b ++ a ++ d ++ 9#7)
  | .clz d a => .two (0#13 ++ a ++ d ++ 11#7)
  | .ctz d a => .two (64#13 ++ a ++ d ++ 11#7)
  | .popc d a => .two (128#13 ++ a ++ d ++ 11#7)
  | .rev8 d a => .two (192#13 ++ a ++ d ++ 11#7)
  | .brev d a => .two (256#13 ++ a ++ d ++ 11#7)
  | .rotl d a b => .two (5#7 ++ b ++ a ++ d ++ 11#7)
  | .rotr d a b => .two (6#7 ++ b ++ a ++ d ++ 11#7)
  | .bext d a b => .two (7#7 ++ b ++ a ++ d ++ 11#7)
  | .bins d a b => .two (8#7 ++ b ++ a ++ d ++ 11#7)
  | .clmul d a b => .two (9#7 ++ b ++ a ++ d ++ 11#7)
  | .clmulh d a b => .two (10#7 ++ b ++ a ++ d ++ 11#7)
  | .draw d b => .two (11#7 ++ b ++ 0#6 ++ d ++ 11#7)
  | .fadd d a b => .two (0#7 ++ b ++ a ++ d ++ 13#7)
  | .fsub d a b => .two (1#7 ++ b ++ a ++ d ++ 13#7)
  | .fmul d a b => .two (2#7 ++ b ++ a ++ d ++ 13#7)
  | .fdiv d a b => .two (3#7 ++ b ++ a ++ d ++ 13#7)
  | .fsqrt d a => .two (256#13 ++ a ++ d ++ 13#7)
  | .fmin d a b => .two (5#7 ++ b ++ a ++ d ++ 13#7)
  | .fmax d a b => .two (6#7 ++ b ++ a ++ d ++ 13#7)
  | .feq d a b => .two (7#7 ++ b ++ a ++ d ++ 13#7)
  | .flt d a b => .two (8#7 ++ b ++ a ++ d ++ 13#7)
  | .fle d a b => .two (9#7 ++ b ++ a ++ d ++ 13#7)
  | .fclass d a => .two (640#13 ++ a ++ d ++ 13#7)
  | .fcvtF32I64 d a => .two (704#13 ++ a ++ d ++ 13#7)
  | .fcvtI64F32 d a => .two (768#13 ++ a ++ d ++ 13#7)
  | .fcvtF32Fx64 d a => .two (832#13 ++ a ++ d ++ 13#7)
  | .fcvtFx64F32 d a => .two (896#13 ++ a ++ d ++ 13#7)
  | .frcp d a => .two (960#13 ++ a ++ d ++ 13#7)
  | .frsqrt d a => .two (1024#13 ++ a ++ d ++ 13#7)
  | .frcps d a b => .two (17#7 ++ b ++ a ++ d ++ 13#7)
  | .frsqrts d a b => .two (18#7 ++ b ++ a ++ d ++ 13#7)
  | .fexp2 d a => .two (1216#13 ++ a ++ d ++ 13#7)
  | .flog2 d a => .two (1280#13 ++ a ++ d ++ 13#7)
  | .fmadd d a b => .two (0#7 ++ b ++ a ++ d ++ 15#7)
  | .fmsub d a b => .two (1#7 ++ b ++ a ++ d ++ 15#7)
  | .fnmadd d a b => .two (2#7 ++ b ++ a ++ d ++ 15#7)
  | .fnmsub d a b => .two (3#7 ++ b ++ a ++ d ++ 15#7)
  | .beq a b o => .two (o ++ b ++ a ++ 17#10)
  | .bne a b o => .two (o ++ b ++ a ++ 145#10)
  | .blt a b o => .two (o ++ b ++ a ++ 273#10)
  | .bge a b o => .two (o ++ b ++ a ++ 401#10)
  | .bltu a b o => .two (o ++ b ++ a ++ 529#10)
  | .bgeu a b o => .two (o ++ b ++ a ++ 657#10)
  | .btst a b o => .two (o ++ b ++ a ++ 785#10)
  | .btstz a b o => .two (o ++ b ++ a ++ 913#10)
  | .bz d i => .two (i ++ d ++ 19#7)
  | .j i => .two (i ++ 21#13)
  | .jal d i => .two (i ++ d ++ 23#7)
  | .jalr d a i => .two (i ++ a ++ d ++ 25#7)
  | .ldI8 d b o => .two (o ++ 0#3 ++ b ++ d ++ 27#7)
  | .ldN8 d b o => .two (o ++ 1#3 ++ b ++ d ++ 27#7)
  | .ldI16 d b o => .two (o ++ 2#3 ++ b ++ d ++ 27#7)
  | .ldN16 d b o => .two (o ++ 3#3 ++ b ++ d ++ 27#7)
  | .ldI32 d b o => .two (o ++ 4#3 ++ b ++ d ++ 27#7)
  | .ldN32 d b o => .two (o ++ 5#3 ++ b ++ d ++ 27#7)
  | .ld d b o => .two (o ++ 6#3 ++ b ++ d ++ 27#7)
  | .st8 d b o => .two (o ++ 0#3 ++ b ++ d ++ 29#7)
  | .st16 d b o => .two (o ++ 2#3 ++ b ++ d ++ 29#7)
  | .st32 d b o => .two (o ++ 4#3 ++ b ++ d ++ 29#7)
  | .st d b o => .two (o ++ 6#3 ++ b ++ d ++ 29#7)
  | .ldAcqN32 d b c o => .two (o ++ c ++ 0#3 ++ b ++ d ++ 31#7)
  | .ldAcq d b c o => .two (o ++ c ++ 1#3 ++ b ++ d ++ 31#7)
  | .stRel32 d b c o => .two (o ++ c ++ 2#3 ++ b ++ d ++ 31#7)
  | .stRel d b c o => .two (o ++ c ++ 3#3 ++ b ++ d ++ 31#7)
  | .stnt32 d b o => .two (o ++ 4#6 ++ b ++ d ++ 31#7)
  | .stnt d b o => .two (o ++ 5#6 ++ b ++ d ++ 31#7)
  | .amoswap d a b c => .two (0#4 ++ c ++ b ++ a ++ d ++ 33#7)
  | .amoaddI64 d a b c => .two (1#4 ++ c ++ b ++ a ++ d ++ 33#7)
  | .amoand d a b c => .two (2#4 ++ c ++ b ++ a ++ d ++ 33#7)
  | .amoor d a b c => .two (3#4 ++ c ++ b ++ a ++ d ++ 33#7)
  | .amoxor d a b c => .two (4#4 ++ c ++ b ++ a ++ d ++ 33#7)
  | .amomaxI64 d a b c => .two (5#4 ++ c ++ b ++ a ++ d ++ 33#7)
  | .amominI64 d a b c => .two (6#4 ++ c ++ b ++ a ++ d ++ 33#7)
  | .amomaxN64 d a b c => .two (7#4 ++ c ++ b ++ a ++ d ++ 33#7)
  | .amominN64 d a b c => .two (8#4 ++ c ++ b ++ a ++ d ++ 33#7)
  | .amocas d a b c => .two (9#4 ++ c ++ b ++ a ++ d ++ 33#7)
  | .amoaddI32 d a b c => .two (10#4 ++ c ++ b ++ a ++ d ++ 33#7)
  | .amoswap32 d a b c => .two (11#4 ++ c ++ b ++ a ++ d ++ 33#7)
  | .amoaddFx64 d a b c => .two (12#4 ++ c ++ b ++ a ++ d ++ 33#7)
  | .amoaddF32 d a b c => .two (13#4 ++ c ++ b ++ a ++ d ++ 33#7)
  | .amocas32 d a b c => .two (14#4 ++ c ++ b ++ a ++ d ++ 33#7)
  | .fence c => .two (0#10 ++ c ++ 35#19)
  | .mflush d a b => .two (2#7 ++ b ++ a ++ d ++ 35#7)
  | .cinv a b => .two (3#7 ++ b ++ a ++ 35#13)
  | .put a b c => .two (0#7 ++ c ++ b ++ a ++ 37#7)
  | .putV a b c => .two (8#7 ++ c ++ b ++ a ++ 37#7)
  | .vld d b o => .two (o ++ 0#3 ++ b ++ 0#1 ++ d ++ 39#7)
  | .vst d b o => .two (o ++ 0#3 ++ b ++ 1#1 ++ d ++ 39#7)
  | .vldTa6 d b o => .two (o ++ 1#3 ++ b ++ 0#1 ++ d ++ 39#7)
  | .vstTa6 d b o => .two (o ++ 1#3 ++ b ++ 1#1 ++ d ++ 39#7)
  | .vgather t d a b => .two (0#6 ++ t ++ b ++ a ++ d ++ 41#7)
  | .vscatter t d a b => .two (1#6 ++ t ++ b ++ a ++ d ++ 41#7)
  | .vaddInt t s d a b => .two (s ++ 0#5 ++ t ++ b ++ a ++ d ++ 43#7)
  | .vsubInt t s d a b => .two (s ++ 1#5 ++ t ++ b ++ a ++ d ++ 43#7)
  | .vmulInt t s d a b => .two (s ++ 2#5 ++ t ++ b ++ a ++ d ++ 43#7)
  | .vmulh t s d a b => .two (s ++ 3#5 ++ t ++ b ++ a ++ d ++ 43#7)
  | .vadds t s d a b => .two (s ++ 4#5 ++ t ++ b ++ a ++ d ++ 43#7)
  | .vsubs t s d a b => .two (s ++ 5#5 ++ t ++ b ++ a ++ d ++ 43#7)
  | .vminInt t s d a b => .two (s ++ 6#5 ++ t ++ b ++ a ++ d ++ 43#7)
  | .vmaxInt t s d a b => .two (s ++ 7#5 ++ t ++ b ++ a ++ d ++ 43#7)
  | .vmadd t s d a b => .two (s ++ 8#5 ++ t ++ b ++ a ++ d ++ 43#7)
  | .vwmul t s d a b => .two (s ++ 9#5 ++ t ++ b ++ a ++ d ++ 43#7)
  | .vand t s d a b => .two (s ++ 10#5 ++ t ++ b ++ a ++ d ++ 43#7)
  | .vor t s d a b => .two (s ++ 11#5 ++ t ++ b ++ a ++ d ++ 43#7)
  | .vxor t s d a b => .two (s ++ 12#5 ++ t ++ b ++ a ++ d ++ 43#7)
  | .vshl t s d a b => .two (s ++ 13#5 ++ t ++ b ++ a ++ d ++ 43#7)
  | .vshr t s d a b => .two (s ++ 14#5 ++ t ++ b ++ a ++ d ++ 43#7)
  | .vclmul t s d a b => .two (s ++ 15#5 ++ t ++ b ++ a ++ d ++ 43#7)
  | .vaddFloat t s d a b => .two (s ++ 0#5 ++ t ++ b ++ a ++ d ++ 45#7)
  | .vsubFloat t s d a b => .two (s ++ 1#5 ++ t ++ b ++ a ++ d ++ 45#7)
  | .vmulFloat t s d a b => .two (s ++ 2#5 ++ t ++ b ++ a ++ d ++ 45#7)
  | .vfma t s d a b => .two (s ++ 3#5 ++ t ++ b ++ a ++ d ++ 45#7)
  | .vminFloat t s d a b => .two (s ++ 4#5 ++ t ++ b ++ a ++ d ++ 45#7)
  | .vmaxFloat t s d a b => .two (s ++ 5#5 ++ t ++ b ++ a ++ d ++ 45#7)
  | .vexp2 d a => .two (3264#15 ++ a ++ d ++ 45#7)
  | .vlog2 d a => .two (3776#15 ++ a ++ d ++ 45#7)
  | .vrcp d a => .two (4288#15 ++ a ++ d ++ 45#7)
  | .vrsqrt d a => .two (4800#15 ++ a ++ d ++ 45#7)
  | .vrcps s d a b => .two (s ++ 166#9 ++ b ++ a ++ d ++ 45#7)
  | .vrsqrts s d a b => .two (s ++ 182#9 ++ b ++ a ++ d ++ 45#7)
  | .vcvt t u d a => .two (0#6 ++ t ++ 0#1 ++ u ++ a ++ d ++ 47#7)
  | .vcvtw t u d a => .two (1#6 ++ t ++ 0#1 ++ u ++ a ++ d ++ 47#7)
  | .vquant t d a b => .two (2#6 ++ t ++ b ++ a ++ d ++ 47#7)
  | .vamax t a => .two (3#6 ++ t ++ 0#5 ++ a ++ 47#12)
  | .vmov t d a => .two (0#6 ++ t ++ 0#5 ++ a ++ d ++ 49#7)
  | .vbcast t d a => .two (1#6 ++ t ++ 0#5 ++ a ++ d ++ 49#7)
  | .vextract t d a b => .two (2#6 ++ t ++ b ++ a ++ d ++ 49#7)
  | .vperm t d a b => .two (3#6 ++ t ++ b ++ a ++ d ++ 49#7)
  | .vslide t d a b => .two (4#6 ++ t ++ b ++ a ++ d ++ 49#7)
  | .viota t d => .two (5#6 ++ t ++ 0#10 ++ d ++ 49#7)
  | .vredsum t d a => .two (6#6 ++ t ++ 0#5 ++ a ++ d ++ 49#7)
  | .vredmax t d a => .two (7#6 ++ t ++ 0#5 ++ a ++ d ++ 49#7)
  | .vredmin t d a => .two (8#6 ++ t ++ 0#5 ++ a ++ d ++ 49#7)
  | .vsample d a b => .two (150#10 ++ b ++ a ++ d ++ 49#7)
  | .vcmpeq t d a b => .two (0#6 ++ t ++ b ++ a ++ d ++ 51#7)
  | .vcmpne t d a b => .two (1#6 ++ t ++ b ++ a ++ d ++ 51#7)
  | .vcmplt t d a b => .two (2#6 ++ t ++ b ++ a ++ d ++ 51#7)
  | .vcmple t d a b => .two (3#6 ++ t ++ b ++ a ++ d ++ 51#7)
  | .vsel t d a b => .two (4#6 ++ t ++ b ++ a ++ d ++ 51#7)
  | .kand d a b => .two (80#10 ++ b ++ a ++ d ++ 51#7)
  | .kor d a b => .two (96#10 ++ b ++ a ++ d ++ 51#7)
  | .kxor d a b => .two (112#10 ++ b ++ a ++ d ++ 51#7)
  | .kandn d a b => .two (128#10 ++ b ++ a ++ d ++ 51#7)
  | .kpop d a => .two (4608#15 ++ a ++ d ++ 51#7)
  | .vmov16 d b => .one (0#1 ++ b ++ d ++ 0#5)
  | .vbcast16 d b => .one (1#1 ++ b ++ d ++ 0#5)
  | .vaddI3216 s d b => .one (s ++ b ++ d ++ 2#5)
  | .vsubI3216 s d b => .one (s ++ b ++ d ++ 4#5)
  | .vand16 s d b => .one (s ++ b ++ d ++ 6#5)
  | .vor16 s d b => .one (s ++ b ++ d ++ 8#5)
  | .vxor16 s d b => .one (s ++ b ++ d ++ 10#5)
  | .vshlI3216 s d b => .one (s ++ b ++ d ++ 12#5)
  | .vshrN3216 s d b => .one (s ++ b ++ d ++ 14#5)
  | .vshrI3216 s d b => .one (s ++ b ++ d ++ 16#5)
  | .vminI3216 s d b => .one (s ++ b ++ d ++ 18#5)
  | .vmaxI3216 s d b => .one (s ++ b ++ d ++ 20#5)
  | .vaddF3216 s d b => .one (s ++ b ++ d ++ 22#5)
  | .vsubF3216 s d b => .one (s ++ b ++ d ++ 24#5)
  | .vmulF3216 s d b => .one (s ++ b ++ d ++ 26#5)
  | .vminF3216 s d b => .one (s ++ b ++ d ++ 28#5)
  | .vmaxF3216 s d b => .one (s ++ b ++ d ++ 30#5)
  | .pfx s m o r z k => .two (m ++ 0#10 ++ s ++ o ++ r ++ z ++ k ++ 127#7)
  | .pfac a b => .two (1#7 ++ b ++ a ++ 53#13)
  | .pfacv d a b => .two (2#7 ++ b ++ a ++ d ++ 53#7)
  | .pdiv a b => .two (3#7 ++ b ++ a ++ 53#13)
  | .pconv a => .two (256#13 ++ a ++ 53#13)
  | .pld a => .two (320#13 ++ a ++ 53#13)
  | .pst a => .two (384#13 ++ a ++ 53#13)
  | .pget d a => .two (448#13 ++ a ++ d ++ 53#7)
  | .pstat d => .two (32768#19 ++ d ++ 53#7)
  | .rcommit d a => .two (64#13 ++ a ++ d ++ 55#7)
  | .rstat d => .two (12288#19 ++ d ++ 55#7)
  | .oclaim a b => .two (0#13 ++ b ++ a ++ 57#7)
  | .orelease a => .two (32768#19 ++ a ++ 57#7)
  | .ofill g a b c => .two (2#4 ++ g ++ c ++ b ++ a ++ 57#7)
  | .mma g a b c => .two (3#4 ++ g ++ c ++ b ++ a ++ 57#7)
  | .mmask g a => .two (4#4 ++ g ++ 0#12 ++ a ++ 57#7)
  | .adrain g a c => .two (5#4 ++ g ++ c ++ 0#6 ++ a ++ 57#7)
  | .azero g a => .two (6#4 ++ g ++ 0#12 ++ a ++ 57#7)
  | .cpy g a b c => .two (0#4 ++ g ++ c ++ b ++ a ++ 59#7)
  | .cpyt g a b c => .two (1#4 ++ g ++ c ++ b ++ a ++ 59#7)
  | .halo g a b c => .two (2#4 ++ g ++ c ++ b ++ a ++ 59#7)
  | .garm g => .two (0#4 ++ g ++ 61#25)
  | .gset g a => .two (1#4 ++ g ++ 0#12 ++ a ++ 61#7)
  | .send a b c => .two (0#7 ++ c ++ b ++ a ++ 63#7)
  | .sendr a b c => .two (8#7 ++ c ++ b ++ a ++ 63#7)
  | .bind a b => .two (1024#13 ++ b ++ a ++ 63#7)
  | .unbind b => .two (1536#13 ++ b ++ 63#13)
  | .chput c n => .two (32#7 ++ c ++ 0#6 ++ n ++ 63#7)
  | .wclose a b => .two (2560#13 ++ b ++ a ++ 63#7)
  | .spawn a b c => .two (0#7 ++ c ++ b ++ a ++ 65#7)
  | .spawnj a b c => .two (8#7 ++ c ++ b ++ a ++ 65#7)
  | .yield a => .two (98304#19 ++ a ++ 65#7)
  | .tset a b c => .two (0#7 ++ c ++ b ++ a ++ 67#7)
  | .tmark a b => .two (512#13 ++ b ++ a ++ 67#7)
  | .twait a b => .two (1024#13 ++ b ++ a ++ 67#7)
  | .tstat a b => .two (1536#13 ++ b ++ a ++ 67#7)
  | .tclr a => .two (131072#19 ++ a ++ 67#7)
  | .cwait a b c => .two (0#7 ++ c ++ b ++ a ++ 69#7)
  | .ctrig a b c => .two (8#7 ++ c ++ b ++ a ++ 69#7)
  | .evset a b => .two (1024#13 ++ b ++ a ++ 69#7)
  | .evclr a b => .two (1536#13 ++ b ++ a ++ 69#7)
  | .evwait a b => .two (2048#13 ++ b ++ a ++ 69#7)
  | .rinit a b c => .two (40#7 ++ c ++ b ++ a ++ 69#7)
  | .rnext d b => .two (3072#13 ++ b ++ d ++ 69#7)
  | .tjoin a b => .two (3584#13 ++ b ++ a ++ 69#7)
  | .tleave a => .two (262144#19 ++ a ++ 69#7)
  | .tbar a => .two (294912#19 ++ a ++ 69#7)
  | .launch d b => .two (5120#13 ++ b ++ d ++ 69#7)
  | .digest d b c => .two (88#7 ++ c ++ b ++ d ++ 69#7)
  | .tkn g a b c => .two (0#4 ++ g ++ c ++ b ++ a ++ 71#7)
  | .dtkn g a b c => .two (1#4 ++ g ++ c ++ b ++ a ++ 71#7)
  | .combineMaxi a b c => .two (16#7 ++ c ++ b ++ a ++ 71#7)
  | .combineAddfx a b c => .two (24#7 ++ c ++ b ++ a ++ 71#7)
  | .srr d n => .two (0#7 ++ n ++ d ++ 73#7)
  | .srw d n => .two (8#7 ++ n ++ d ++ 73#7)
  | .trap n => .two (16#7 ++ n ++ 73#13)
  | .ntdrain => .two (33554467#32)
  | .pclr => .two (53#32)
  | .rbegin => .two (55#32)
  | .rabort => .two (67108919#32)
  | .done => .two (536870977#32)
  | .eret => .two (805306441#32)
  | .bkpt => .two (1073741897#32)
  | .halt => .two (1342177353#32)
  | .waiti => .two (1610612809#32)
  | .putPerform => .none
  | .regionInstructionLimit => .none
  | .ofillStart => .none
  | .ofillCompletion => .none
  | .mmaStart => .none
  | .mmaKstepBoundary => .none
  | .mmaCompletion => .none
  | .mmaskStart => .none
  | .adrainStart => .none
  | .adrainCompletion => .none
  | .azeroStart => .none
  | .copyRequestSend => .none
  | .copyStart => .none
  | .cpytStart => .none
  | .copyCompletion => .none
  | .haloStart => .none
  | .haloStripDelivery => .none
  | .messageArrival => .none
  | .sendStatusWrite => .none
  | .outboundResend => .none
  | .pipAccept => .none
  | .wcloseMarkerArrival => .none
  | .channelEntryArrival => .none
  | .spaceUpdateArrival => .none
  | .combineRouterMerge => .none
  | .combineRootArrival => .none
  | .tknStart => .none
  | .tknEntryWrite => .none
  | .dtknStart => .none
  | .yieldDeadlineOverrun => .none
  | .dispatch => .none
  | .resumption => .none
  | .deadlockProbeSend => .none
  | .deadlockProbeReceive => .none
  | .launchStart => .none
  | .launchCompletion => .none
  | .launchEndByFault => .none
  | .pageFaultEntryPost => .none
  | .pageFaultResume => .none
  | .pageFaultRefuse => .none
  | .launchQueueTailWrite => .none
  | .launchQueueStop => .none
  | .launchQueueStopped => .none
  | .launchQueueRestart => .none
  | .launchQueueOverrunClear => .none
  | .launchQueueHeadWrite => .none
  | .eventVectorSetWindowWrite => .none
  | .eventVectorClearWindowWrite => .none
  | .runControlWrite => .none
  | .translationInvalidation => .none
  | .invalidationDone => .none
  | .l2Purge => .none
  | .l2PurgeDone => .none
  | .addressRangeEntryWrite => .none
  | .registerWrite => .none
  | .translationWalk => .none
  | .mscMissFill => .none
  | .scrub => .none
  | .pageRetirement => .none
  | .replicaDecision => .none
  | .replicaTimeout => .none
  | .hostWrite => .none
  | .hostRead => .none
  | .hostMailboxDoorbell => .none
  | .deviceMailboxDoorbell => .none
  | .ranvikFlitReceive => .none
  | .laneFailure => .none
  | .linkTraining => .none
  | .ranvikPortTraining => .none
  | .ethernetWrite => .none
  | .textFrameReceive => .none
  | .textNoticeResend => .none
  | .transmitEntrySend => .none
  | .powerOn => .none
  | .powerOff => .none
  | .idleEntry => .none
  | .wake => .none
  | .overTemperature => .none
  | .criticalTemperature => .none
  | .textCommandAccept => .none
  | .arithmeticClockCycle => .none
  | .ethernetPortTraining => .none
  | .telemetryAlarm => .none

/-- The bytes of a word as memory holds them, lowest address first (R2, R71). -/
def Words.bytes : Words → List Byte
  | .one h => [h.extractLsb' 0 8, h.extractLsb' 8 8]
  | .two w => [w.extractLsb' 0 8, w.extractLsb' 8 8, w.extractLsb' 16 8, w.extractLsb' 24 8]
  | .none => []

/-- The bytes of an instruction word whose bits are `w`, bit 0 the least significant, as the hardware stores them; every byte above
is zero (the longest instruction is a word and the word it modifies, 8 bytes). -/
def tableBytes (w : Nat) : List Byte :=
  [0, 1, 2, 3, 4, 5, 6, 7].map fun j => BitVec.ofNat 8 (w / 2 ^ (8 * j))

/-- What the decoder reads from an instruction of `nbits` bits numbered as the opcode table numbers them. -/
def decodeTableWord (nbits w : Nat) : Option Instr :=
  match decode (tableBytes (w % 2 ^ nbits)) with
  | .ok (i, _) => some i
  | .error _ => none

end Sys2Proof
end

