-- ==== Sys2Proof/Machine/Fetch.lean ====
section
/-! DEFINITION. Fetching the next instruction (R71, R72), the patch overlay (R87), and a prefix with its instruction (R77 to R79). -/

namespace Sys2Proof.Machine

open Sys2Proof

/-! ## Halfwords -/

/-- Whether a 32-bit word's major uses the field of a patch (R87). -/
def patchFits (w : BitVec 32) (field : Nat) : Bool :=
  let m := (w.extractLsb' 1 6).toNat
  w.getLsbD 0 &&
    (if field = 0 then m == 0x01 || m == 0x0C
     else if field = 1 then m == 0x02 || m == 0x03 || m == 0x09 || m == 0x0A || m == 0x0B
     else if field = 2 then m == 0x08
     else if field = 3 then m == 0x0D || m == 0x0E || m == 0x13 || m == 0x0F
     else false)

/-- The lowest bit of a patch field in a word. -/
def patchShift (w : BitVec 32) (field : Nat) : Nat :=
  if field = 0 then 19 else if field = 1 then 13 else if field = 2 then 22
  else if (w.extractLsb' 1 6).toNat = 0x0F then 25 else 22

/-- A word with the named field, which runs to bit 31, replaced by the low bits of a value. -/
def overlay (w : BitVec 32) (field : Nat) (v : Word) : BitVec 32 :=
  let sh := patchShift w field
  BitVec.ofNat 32 (v.toNat % 2 ^ (32 - sh) * 2 ^ sh + w.toNat % 2 ^ sh)

/-- The patch of a site: the later entry of the list wins. -/
def Launch.patchAt (l : Launch) (site : Nat) : Option Patch := l.patches.reverse.find? fun p => p.site = site

/-- A halfword of the code as memory holds it, if its page can be fetched and its granule is not poisoned. -/
def State.codeHalf (s : State) (va : Nat) : Option (BitVec 16) :=
  match s.locatePieces s.asker .fetch (pieces va 2) with
  | .ok (p :: _, _) => if !p.host && s.poisoned p.pa then none else some (BitVec.ofNat 16 (leNat (s.physBytes p.host p.pa 2)))
  | _ => none

/-- Halfword `i` of the code, `h` in memory, with the overlay of the site before it, whose second half it is, and of its own site; and
whether it is a site that does not fit (R87). A site is judged by its first halfword. Of two sites one halfword apart, the overlay of the later
lies over that of the earlier in the halfword that both have (log 13, DESIGN CHOICE: R87 does not say which wins). -/
def State.overlaid (s : State) (i : Nat) (h : BitVec 16) : BitVec 16 × Bool :=
  let base := s.job.codeVA.toNat
  let h1 := match (if i = 0 then none else s.job.patchAt (i - 1)) with
    | some p =>
      (match s.codeHalf (base + 2 * (i - 1)) with
       | some lo => if patchFits (h ++ lo) p.field then (overlay (h ++ lo) p.field p.value).extractLsb' 16 16 else h
       | none => h)
    | none => h
  match s.job.patchAt i with
  | some p =>
    let w : BitVec 32 := (0 : BitVec 16) ++ h
    if patchFits w p.field then
      let sh := patchShift w p.field
      if sh < 16 then (BitVec.ofNat 16 (p.value.toNat * 2 ^ sh + h1.toNat % 2 ^ sh), false) else (h1, false)
    else (h1, true)
  | none => (h1, false)

/-- The halfwords of the 64-byte line at a VA of the code, each with its number in the code. -/
def State.lineSites (s : State) (va : Nat) : List Nat := (List.range 32).map fun i => (va / 64 * 64 - s.job.codeVA.toNat) / 2 + i

/-- The tag of a line: the context and LAUNCHID, with the number of the line in the code, when it holds a halfword of a patch site (R87). -/
def State.lineTag (s : State) (va : Nat) : Option (Nat × BitVec 32 × Nat) :=
  let l := s.job
  let at_ := (va / 64 * 64 - l.codeVA.toNat) / 2
  if l.patches.any fun p => decide (at_ ≤ p.site + 1) && decide (p.site < at_ + 32) then some (l.ctx, l.launchId, at_ / 32) else none

/-- Is the overlay of a line known: a site whose second half the line begins with can be judged by its first half? -/
def State.lineKnown (s : State) (va : Nat) : Bool :=
  match (s.lineSites va).head? with
  | some (i + 1) => (s.job.patchAt i).isNone || (s.codeHalf (s.job.codeVA.toNat + 2 * i)).isSome
  | _ => true

/-- The line at a VA of the code, whose bytes lie in a granule, as it is filled from memory with its overlay in place (R72, R87). -/
def State.codeLine (s : State) (va : Nat) (p : Spot) : ILine :=
  let tag := s.lineTag va
  let raw := s.physBytes p.host (p.pa / 64 * 64) 64
  let halves := (s.lineSites va).zipIdx.map fun e => s.overlaid e.1 (BitVec.ofNat 16 (recNat raw (2 * e.2) 2))
  if tag.isNone then { host := p.host, line := p.pa / 64, tag := tag, data := BitVec.ofNat 512 (leNat raw), misfits := 0 }
  else
    { host := p.host, line := p.pa / 64, tag := tag, data := BitVec.ofNat 512 (leNat (halves.flatMap fun h => leBytes 2 h.1.toNat)),
      misfits := BitVec.ofNat 32 (halves.zipIdx.foldl (fun a e => if e.1.2 then a + 2 ^ e.2 else a) 0) }

/-- A line whose overlay is known enters the instruction cache of an octave, which gives up its oldest of 1,024 lines (R8; log 4, DESIGN CHOICE). -/
def State.cacheCode (s : State) (oct : Nat) (l : ILine) : State :=
  s.modOctave oct fun o => { o with icache := keepLast 1024 (o.icache ++ [l]) }

/-- A halfword as the decoder sees it, with the fetch faults of R72 in the order of R79. It comes from the octave's instruction cache,
which is filled from memory as memory stands then: after a store to the code the halfwords stay the old ones until the line is given up, and
a line without sites stays after its launch has ended (R72; log 13, DESIGN CHOICE). A site that does not fit is 0x18 (R87), before the faults of
its second halfword (log 13, DESIGN CHOICE: R79 does not list it). A poisoned granule reads as zeros and is not cached (R157). -/
def State.fetchHalf (s : State) (va : Nat) : Except Flt (BitVec 16 × State) :=
  let l := s.job
  if va < l.codeVA.toNat || l.codeVA.toNat + l.codeLen < va + 2 then .error { code := 0x06, addr := va, acc := 0 }
  else
    match s.locatePieces s.asker .fetch (pieces va 2) with
    | .error e => .error e
    | .ok (ps, ts) =>
      let s := s.noteAll s.asker ts
      match ps.head? with
      | none => .ok (0, s)
      | some p =>
        let hit := (s.octave s.myOctave).icache.find? fun x => x.host == p.host && x.line == p.pa / 64 && x.tag == s.lineTag va
        match hit with
        | none =>
          if !p.host && s.poisoned p.pa then .ok (0, (s.memError 1 (some s.ctxId) p.pa).settle)
          else
            let c := s.codeLine va p
            if c.misfits.getLsbD (va / 2 % 32) then .error { code := 0x18, addr := va, acc := 0 }
            else .ok (c.data.extractLsb' (8 * (va % 64)) 16, if s.lineKnown va then s.cacheCode s.myOctave c else s)
        | some c =>
          if c.misfits.getLsbD (va / 2 % 32) then .error { code := 0x18, addr := va, acc := 0 }
          else .ok (c.data.extractLsb' (8 * (va % 64)) 16, s)

/-! ## Words -/

/-- The halfword or word at an address, by bit 0 of its first halfword (R71). -/
def State.fetchWord (s : State) (va : Nat) : Except Flt (BitVec 16 ⊕ BitVec 32) × State :=
  match s.fetchHalf va with
  | .error e => (.error e, s)
  | .ok (lo, t) =>
    if lo.getLsbD 0 then
      match t.fetchHalf (va + 2) with
      | .error e => (.error e, t)
      | .ok (hi, u) => (.ok (.inr (hi ++ lo)), u)
    else (.ok (.inl lo), t)

def decodeWord (w : BitVec 16 ⊕ BitVec 32) : Except Reject Instr :=
  match w with
  | .inl h => decode16 h
  | .inr w => decode32 w

/-- A word of major 0x3F (R77). -/
def isPrefixWord (w : BitVec 32) : Bool := w.extractLsb' 0 7 == 0x7F

/-! ## A prefix with its instruction (R77 to R79) -/

/-- May the word after a prefix be prefixed (R78)? -/
def prefixable (w : BitVec 16 ⊕ BitVec 32) : Bool :=
  match w with
  | .inl _ => false
  | .inr w =>
    let m := (w.extractLsb' 1 6).toNat
    let c := (w.extractLsb' 26 6).toNat
    w.getLsbD 0 && decide (0x13 ≤ m) && decide (m ≤ 0x19) && !(m == 0x18 && c == 2) && !(m == 0x19 && decide (5 ≤ c) && decide (c ≤ 9))

/-- vmadd and vfma take the fourth operand (R78). -/
def takesFourth (i : Instr) : Bool := match i with | .vmadd _ _ _ _ _ => true | .vfma _ _ _ _ _ => true | _ => false

/-- The bits of a prefix that an instruction must not set: the zeroing bit of vsel, vst, vst.ta6 and vscatter, the mask bit of
vst.ta6 (R136, R170, R171). -/
def refuses (i : Instr) (p : Pfx) : Bool :=
  match i with
  | .vsel _ _ _ _ => p.zeroing
  | .vst _ _ _ => p.zeroing
  | .vstTa6 _ _ _ => p.zeroing || p.masked
  | .vscatter _ _ _ _ => p.zeroing
  | _ => false

/-- A prefix and the word after it: the instruction, or the first of the faults 0x01, 0x03, 0x02 and 0x04 (R79). `bad` says that the
prefix has a reserved bit set. -/
def decodePair (p : Pfx) (bad : Bool) (w : BitVec 16 ⊕ BitVec 32) : Except Code Instr :=
  let fourth := p.scalar || p.fourth != 0
  match decodeWord w with
  | .error .illegalEncoding => .error 0x01
  | r =>
    if !prefixable w || p.round = 6 then .error 0x03
    else
      match r with
      | .error e => .error (if bad || fourth then 0x02 else e.code)
      | .ok i => if bad || (fourth && !takesFourth i) || refuses i p then .error 0x02 else .ok i

/-- The fields of a prefix word (R77). -/
def Pfx.ofFields (s m : BitVec 1) (o : BitVec 5) (r : BitVec 3) (z : BitVec 1) (k : BitVec 4) : Pfx :=
  { present := true, masked := m == 1, mask := k, zeroing := z == 1, round := r, scalar := s == 1, fourth := o }

def Pfx.ofWord (w : BitVec 32) : Pfx :=
  Pfx.ofFields (w.extractLsb' 20 1) (w.extractLsb' 31 1) (w.extractLsb' 15 5) (w.extractLsb' 12 3) (w.extractLsb' 11 1)
    (w.extractLsb' 7 4)

/-- Reserved bits of a prefix that are set: a mask field or the zeroing bit without a mask (R77). -/
def Pfx.bad (p : Pfx) : Bool := !p.masked && (p.zeroing || p.mask != 0)

/-- What stands behind the prefix at the program counter. -/
def State.fetchPair (s : State) (p : Pfx) (bad : Bool) : Except Flt Instr × State :=
  match s.fetchWord (s.f.pc.toNat + 4) with
  | (.error e, t) => (.error e, t)
  | (.ok w, t) =>
    match decodePair p bad w with
    | .error c => (.error { code := c, addr := 0, acc := 0 }, t)
    | .ok i => (.ok i, t)

/-! ## The next instruction -/

def State.takeFlt (s : State) (e : Flt) : State := s.takeFault e.code 0 (BitVec.ofNat 64 e.addr) e.acc

/-- The fault 0x02 of a cpyt's register field comes before the 0x04 of its pair (R79). -/
def State.cpytLate (s : State) (w : BitVec 32) (r : Reject) : Bool :=
  r == .misalignedGroup && w.extractLsb' 0 7 == 0x3B && w.extractLsb' 28 4 == 1 && s.cpytField (w.extractLsb' 13 6) (w.extractLsb' 19 6)

/-- The instruction at the program counter, or the fault that its fetch and decoding raise. A prefix word whose reserved bits are set
is judged together with the instruction behind it (R79). -/
def State.fetch (s : State) : Except Flt Instr × State :=
  match s.fetchWord s.f.pc.toNat with
  | (.error e, t) => (.error e, t)
  | (.ok w, t) =>
    match decodeWord w with
    | .ok i => (.ok i, t)
    | .error r =>
      let plain : Except Flt Instr × State := (.error { code := r.code, addr := 0, acc := 0 }, t)
      match w with
      | .inl _ => plain
      | .inr w =>
        if isPrefixWord w then
          match t.fetchPair (Pfx.ofWord w) true with
          | (.error e, u) => (.error e, u)
          | (.ok _, u) => (.error { code := 0x02, addr := 0, acc := 0 }, u)
        else if t.cpytLate w r then (.error { code := 0x02, addr := 0, acc := 0 }, t)
        else plain

/-! ## Which firing issues -/

/-- The firing in context `k` becomes the one from which the next instruction issues. -/
def State.turnTo (s : State) (k : Nat) : State :=
  if k = s.f.key then s
  else
    let g := s.firing k
    { s with f := g, firings := Tbl.set (Tbl.erase s.firings k) s.f.key s.f }

/-- Does the slot beside that of a firing hold a firing that runs? -/
def State.mateRuns (s : State) (g : Firing) : Bool :=
  let p := s.pcore (s.lc (lcOf g.key)).pcore
  let other := if g.slot = some 0 then p.slot1 else p.slot0
  other.busy && (match other.resident with | some k => k != g.key && (s.firing k).st == .running | none => false)

/-- A firing that can issue now: the arithmetic clock runs (R9, R362), the firing runs and its core is not halted (R24, R341), its core has
not issued in this cycle, and it is not the other slot's turn (R23). -/
def State.canIssue (s : State) (g : Firing) : Bool :=
  let p := s.pcore (s.lc (lcOf g.key)).pcore
  s.pkg.power == .active && g.st == .running && !p.halted && !p.ran &&
    !(s.mateRuns g && p.lastSlot == (if g.slot = some 0 then 1 else 2))

/-- The core of the issuing firing issues from its slot in this cycle (R23). -/
def State.takeTurn (s : State) : State :=
  s.modPCore s.me.pcore fun p => { p with ran := true, lastSlot := if s.f.slot = some 0 then 1 else 2 }

/-- The firing that issues when the agenda names none: the issuing one goes on, else the first that can (log 1, DESIGN CHOICE). -/
def State.pickNext (s : State) : Option Nat :=
  if s.canIssue s.f then some s.f.key else (s.firings.find? fun e => s.canIssue e.2).map fun e => e.1

end Sys2Proof.Machine
end

