-- ==== Sys2Proof/Machine/Messages.lean ====
section
/-! DEFINITION. Sending messages, binding tags, appending to channels, closing windows, and router combines (R264, R265, R268, R270, R271). -/

namespace Sys2Proof.Machine

open Sys2Proof

/-! ## Waiting for an outbound item (R257) -/

/-- An instruction that puts an item into the outbound buffer: what it makes at its issue is made once, and kept while it waits. Where its release
performs a put that ends the launch, the item is discarded with it (R42). -/
def State.outItem (s : State) (make : State → Except Eff (Out × State)) : Outcome :=
  s.issue .word fun s => s.outside
    (let go (o : Out) (t : State) : Eff :=
       if t.f.st = .free then .leave t
       else if t.me.outbound.length < 8 then .retire ((t.placeItem t.myLc o).settle) else .wait t (.item o)
     match s.f.wait with
     | .metItem o => go o s
     | _ =>
       match make s with
       | .error e => e
       | .ok (o, t) => go o t)

/-! ## send, sendr (R264) -/

/-- Does a device field name this device? -/
def State.isHere (s : State) (d : BitVec 18) : Bool := d == 0x3FFFF || d == s.device

/-- The message of a destination word, with its payload and status word; the send ticket rises. -/
def State.makeMsg (s : State) (w : Word) (data : List Byte) (status : Option (Nat × Bool)) : Out × State :=
  let c := s.me
  let d : BitVec 18 := w.extractLsb' 32 18
  let m : Msg :=
    { launch := s.myLaunch, target := fld w 31 16, tag := w.extractLsb' 8 8, dev := s.device, sender := BitVec.ofNat 16 c.index,
      ticket := c.ticket, epoch := if s.job.det then c.epoch else 0, first := c.epochTicket, data := data, status := status, from_ := some s.myLc }
  let t := s.modLc s.myLc fun c => { c with ticket := c.ticket + 1 }
  if s.isHere d then (.msg m, t.release 3) else (.far m d, t.release 4)

/-- The checks of a send up to its source. -/
def State.sendChecks (s : State) (w : Word) (b : BitVec 6) : Except Eff (Option (Nat × Bool) × State) :=
  let n := fld w 7 0
  if fld w 63 50 ≠ 0 then .error (.fault 0x02 0 0)
  else if n = 0 ∨ 64 < n then .error (.fault 0x0B 0 0)
  else if s.isHere (w.extractLsb' 32 18) && decide (s.job.ncore ≤ fld w 31 16) then .error (.fault 0x09 0 0)
  else if b = 0 then .ok (none, s)
  else
    let va := s.sreg b
    if va.toNat % 8 ≠ 0 then .error (.fault 0x07 va 2)
    else
      match s.locate s.asker .store (pieces va.toNat 8) with
      | .error e => .error (.ofFlt e)
      | .ok (sp, ts) => .ok (sp.head?.map fun p => (p.pa, p.host), s.noteAll s.asker ts)

def execSend (a b c : BitVec 6) (s : State) : Outcome :=
  s.outItem fun s =>
    let w := s.sreg a
    if 31 < c.toNat then .error (.fault 0x02 0 0)
    else
      match s.sendChecks w b with
      | .error e => .error e
      | .ok (st, t) => .ok (t.makeMsg w (leBytes (fld w 7 0) (t.vreg (wide c)).toNat) st)

def execSendr (a b c : BitVec 6) (s : State) : Outcome :=
  s.outItem fun s =>
    let w := s.sreg a
    match s.sendChecks w b with
    | .error e => .error e
    | .ok (st, t) =>
      match t.readPieces (pieces (t.sreg c).toNat (fld w 7 0)) true with
      | .stop e => .error e
      | .ok data u => .ok (u.makeMsg w data st)

/-! ## bind, unbind (R265) -/

def execBind (a b : BitVec 6) (s : State) : Outcome :=
  s.issue .word fun s => s.outside
    (let w := s.sreg b
     let code := s.sreg a
     let tag := fld w 7 0
     if code.getLsbD 0 then .fault 0x07 code 0
     else if fld w 63 25 ≠ 0 || fld w 10 8 ≠ 0 then .fault 0x02 0 0
     else
       let t := s.modLc s.myLc fun c =>
         { c with binds := Tbl.set c.binds tag code,
                  depths := if w.getLsbD 11 then c.depths.set (tag / 64) (fld w 15 12 + 1) else c.depths,
                  team := if w.getLsbD 24 then some (fld w 23 16) else c.team }
       let t := if w.getLsbD 24 then t.modLc t.myLc fun c => if c.window = 0 then { c with counted := t.windowMembers t.myLc } else c else t
       let t := if t.job.det then t.closeAll t.myLc else t
       .retire ((t.unpark t.myLc 24).settle))

def execUnbind (b : BitVec 6) (s : State) : Outcome :=
  s.issue .word fun s => s.outside
    (let w := s.sreg b
     if fld w 63 8 ≠ 0 then .fault 0x02 0 0
     else .retire (s.modLc s.myLc fun c => { c with binds := Tbl.erase c.binds (fld w 7 0) }))

/-! ## chput (R268) -/

def execChput (c n : BitVec 6) (s : State) : Outcome :=
  s.issue .word fun s => s.outside
    (if 15 < n.toNat ∨ 31 < c.toNat then .fault 0x02 0 0
     else
       match Tbl.find s.me.ends n.toNat with
       | none => .fault 0x16 0 0
       | some e =>
         if e.isIn || e.held then .fault 0x16 0 0
         else if decide (2 ^ e.logCap ≤ e.moved - e.freed) then .wait s (.need (.channelSpace n.toNat))
         else
           let x : ChanEntry :=
             { fk := some s.f.key, lc := lcKey s.myLaunch e.peer, inEnd := e.peerEnd, index := e.moved, data := (s.vreg (wide c)).truncate 512 }
           s.released fun u =>
             let t := u.modLc s.myLc fun k => { k with ends := Tbl.set k.ends n.toNat { e with moved := e.moved + 1 } }
             .retire ({ t with net := { t.net with entries := t.net.entries ++ [x] } } : State).settle)

/-! ## wclose (R270) -/

/-- wclose: once its wait is over, the sends that were earlier at its issue have been accepted. It is tried again as the firing resumes: its checks, and
the members to whom the markers go, are those of the resumption, which may not be those of the issue (log 16, DESIGN CHOICE: R270 does not say
which). -/
def execWclose (a b : BitVec 6) (s : State) : Outcome :=
  s.issue .word fun s => s.outside
    (let t := (s.sreg a).toNat
     let w := s.sreg b
     let tm := (s.context s.ctxId).team t
     if 255 < t ∨ fld w 63 1 ≠ 0 then .fault 0x02 0 0
     else if (tm.member s.myLc).isNone then .fault 0x12 0 0
     else if !s.job.det then .retire ((s.releaseDevice).settle)
     else if !(match s.f.wait with | .met _ _ => true | _ => s.needHolds s.f (.sendsAccepted s.me.ticket)) then
       .wait s (.need (.sendsAccepted s.me.ticket))
     else s.released fun u =>
       let u : State := { u with net := { u.net with
         markers := u.net.markers ++ ((u.context s.ctxId).team t).members.map fun m => (m.lc, s.myLc, s.me.epoch) } }
       .retire ((u.modLc u.myLc fun c => if w.getLsbD 0 then { c with epoch := c.epoch + 1, epochTicket := c.ticket } else c).settle))

/-! ## Combines (R271) -/

/-- The router of a physical core: six for each cluster, each for 32 cores, and the quadrant of a router: clusters 2q and 2q + 1 form quadrant
q (R6, R12; log 20, DESIGN CHOICE: R6 says how many, and not which). -/
def routerOf (pcore : Nat) : Nat := clusterOf pcore * 6 + pcore % 256 / 32
def quadrantOf (router : Nat) : Nat := router / 12

/-- The quadrants, four for each die, to which a link leads from quadrant `q` on a minimal way to quadrant `t`: the long link to the index of `t`,
and the bridge at the index of `q` (R12, R13). -/
def nextQuadrants (q t : Nat) : List Nat :=
  (if q % 4 = t % 4 then [] else [q / 4 * 4 + t % 4]) ++ (if q / 4 = t / 4 then [] else [t / 4 * 4 + q % 4])

/-- The router of quadrant `q` that has the link to quadrant `t` (R12). -/
def linkRouter (q t : Nat) : Nat := 12 * q + Config.linkRouter q t % 12

/-- The routers to which a minimal way leads from router `r` to router `dst`: inside a quadrant any router is one hop away, and a quadrant is
left over a link (R12, R13). -/
def minimalHops (r dst : Nat) : List Nat :=
  let q := quadrantOf r
  let t := quadrantOf dst
  if q = t then (if r = dst then [] else [dst])
  else (nextQuadrants q t).map fun n => if r = linkRouter q n then linkRouter n q else linkRouter q n

/-- The router of the root of a combine packet. -/
def State.rootRouter (s : State) (p : Combine) : Nat := routerOf (s.lc (lcKey p.launch p.root)).pcore

/-- The routers to which a combine packet may go on: combining packets take minimal routes, with one hop at most inside a quadrant (R13). -/
def State.hopsOf (s : State) (p : Combine) : List Nat :=
  (minimalHops p.router (s.rootRouter p)).filter fun r => quadrantOf r != quadrantOf p.router || !p.moved

/-- A packet comes to a router; it takes one of the router's 64 combining entries if one is free, else it passes on unmerged (R271). -/
def State.enterRouter (s : State) (p : Combine) (r : Nat) : State :=
  let taken := (s.net.combs.filter fun q => q.router = r && q.entry).length
  { s with net := { s.net with combs := s.net.combs ++ [{ p with router := r, entry := decide (taken < 64) }] } }

/-- A contribution enters the routers at the issuing core, or leaves on Ranvik for the launch paired with this one (R355, R356). -/
def State.sendComb (s : State) (p : Combine) (dev : Option (BitVec 18)) : State :=
  match dev with
  | none => s.enterRouter p (routerOf s.me.pcore)
  | some d =>
    match (s.context s.ctxId).tag with
    | none => s
    | some tag =>
      s.emit [s.flit 3 2 d (.combine tag (BitVec.ofNat 16 p.root) (BitVec.ofNat 9 p.x) p.isMax (BitVec.ofNat 16 p.group)
        (BitVec.ofNat 32 p.n) p.value p.count)]

def State.combine (s : State) (a b c : BitVec 6) (isMax : Bool) : Outcome :=
  s.issue .word fun s => s.outside
    (let w := s.sreg a
     let g := s.sreg c
     let d : BitVec 18 := w.extractLsb' 32 18
     let here := s.isHere d
     let x := fld w 8 0
     let root := lcKey s.myLaunch (fld w 31 16)
     if fld w 63 50 ≠ 0 || fld w 15 9 ≠ 0 || fld g 63 48 ≠ 0 || x = 511 then .fault 0x02 0 0
     else if fld g 31 0 = 0 then .fault 0x0B 0 0
     else if here && decide (s.job.ncore ≤ fld w 31 16) then .fault 0x09 0 0
     else
       match (if here then (s.lc root).mirrorAt (8 * x) 16 else none) with
       | some i => .fault 0x16 (BitVec.ofNat 64 (peerVA (fld w 31 16) 5 (8 * i))) 0
       | none =>
         let p : Combine :=
           { launch := s.myLaunch, root := fld w 31 16, x := x, isMax := isMax, group := fld g 47 32, n := fld g 31 0,
             value := s.sreg b, count := 1, far := false, router := 0, entry := false, moved := false }
         s.released fun t =>
           .retire ((if here then t else t.cleanAll).sendComb p (if here then none else some d)).settle)

def execCombineMaxi (a b c : BitVec 6) (s : State) : Outcome := s.combine a b c true
def execCombineAddfx (a b c : BitVec 6) (s : State) : Outcome := s.combine a b c false

end Sys2Proof.Machine
end

