-- ==== Sys2Proof/Machine/Tiles.lean ====
section
/-! DEFINITION. The tile-table instructions (R274 to R281). -/

namespace Sys2Proof.Machine

open Sys2Proof

/-! ## Transitions (R231, R276) -/

/-- A fill starts on a tile: a ready one goes through empty. A tile that was cleared since its issue stays undefined (log 15, DESIGN
CHOICE). -/
def Tile.startFill (t : Tile) : Tile :=
  if !t.isDefined then t
  else if t.state = 2 then { t with state := 1, arrived := 0, poison := false } else { t with state := 1 }

/-- A tile becomes ready; its phase flips only then. -/
def Tile.makeReady (t : Tile) : Tile := { t with state := 2, phase := !t.phase }

/-- `n` bytes arrive at a tile: a filling one is ready at the expected count. The count of a tile that overlapping fills have left in another
state rises too (R246, R276); an undefined tile has no arrivals (log 15, DESIGN CHOICE). -/
def Tile.arrive (t : Tile) (n : Nat) : Tile :=
  if !t.isDefined then t
  else if t.state = 1 ∧ t.arrived + n = t.expected then { t with arrived := t.arrived + n }.makeReady else { t with arrived := t.arrived + n }

/-- Do `n` more bytes pass the expected count of a tile? -/
def Tile.beyond (t : Tile) (n : Nat) : Bool := t.isDefined && decide (t.expected < t.arrived + n)

/-- Sets a tile of the issuing logical core. -/
def State.putTile (s : State) (t : Nat) (x : Tile) : State := s.modLc s.myLc fun c => c.setTile t x

/-! ## tset (R278) -/

/-- The entry that tset makes of a descriptor, or the fault of its checks. -/
def State.tsetEntry (s : State) (x : Tile) (w : Word) (expected : Nat) : Except Flt Tile :=
  let kind := fld w 55 54
  let fmt := fld w 53 49
  let scaled := w.getLsbD 48
  let k := fld w 47 39
  let size := fld w 37 18
  let base := fld w 17 0
  let full (y : Tile) : Except Flt Tile :=
    if y.size < expected then .error (.plain 0x0B)
    else
      let y := { y with kind := kind, state := 0, phase := x.phase, poison := false, discard := false, scaled := scaled, fmt := fmt,
                        arrived := 0, expected := expected, k := k, uses := x.uses }
      .ok (if expected = 0 then y.makeReady else y)
  if fld w 63 56 ≠ 0 || fld w 38 38 ≠ 0 || kind = 0 || kind = 3 then .error (.plain 0x02)
  else if kind = 2 then
    if !x.isSlot then .error (.plain 0x0D)
    else if base ≠ 0 || size ≠ 0 || !slotAllows fmt k scaled then .error (.plain 0x0B)
    else full { x with size := 8704 }
  else if x.isSlot then .error (.plain 0x0D)
  else if base % 64 ≠ 0 || size = 0 || decide (15 < fmt) || k ≠ 0 || scaled then .error (.plain 0x0B)
  else if s.me.shareSize < base + size then
    .error { code := 0x09, addr := s.ownVA (max base s.me.shareSize), acc := 2 }
  else full { x with base := base, size := size }

def execTset (a b c : BitVec 6) (s : State) : Outcome :=
  s.issue .word fun s => s.outside
    (let x := s.myTile a
     let n := s.sreg c
     if fld n 63 24 ≠ 0 then .fault 0x02 0 0
     else
       match s.tsetEntry x (s.sreg b) (fld n 23 0) with
       | .error e => .ofFlt e
       | .ok y => if x.free then .retire ((s.putTile a.toNat y).settle) else .wait s (.need (.tileFree a.toNat)))

/-! ## tmark (R279) -/

def execTmark (a b : BitVec 6) (s : State) : Outcome :=
  s.issue .word fun s => s.outside
    (let x := s.myTile a
     let w := s.sreg b
     let n := fld w 23 0
     let ord := match s.f.wait with | .met o _ => o.toNat | _ => s.me.issued
     if fld w 63 24 ≠ 0 then .fault 0x02 0 0
     else if !x.isDefined then .fault 0x0C 0 0
     else if x.isSlot then .fault 0x0D 0 0
     else if n = 0 then .retire ((s.release 3).settle)
     else if !s.fillFree s.myLc a.toNat ord then .wait s (.need (.tileFill a.toNat ord))
     else
       let y := x.startFill
       if y.beyond n then .fault 0x0C 0 0
       else s.released fun u => .retire ((u.putTile a.toNat (y.arrive n)).settle))

/-! ## twait, tstat, tclr (R280, R281) -/

def execTwait (a b : BitVec 6) (s : State) : Outcome :=
  s.issue .word fun s => s.outside
    (let x := s.myTile a
     let w := s.sreg b
     let ph := if w.getLsbD 1 then some (w.getLsbD 0) else none
     match s.f.wait with
     | .met _ _ => .retire (s.acquire 3)
     | .metPoison _ => .fault 0x0A 0 0
     | _ =>
       if fld w 63 2 ≠ 0 then .fault 0x02 0 0
       else if !x.isDefined then .fault 0x0C 0 0
       else if x.isReady && (ph.isNone || ph == some x.phase) then
         if x.poison then .fault 0x0A 0 0 else .retire (s.acquire 3)
       else .wait s (.tile a.toNat ph))

def execTstat (a b : BitVec 6) (s : State) : Outcome :=
  s.issue .word fun s => s.outside (.retire (s.setSreg b (s.myTile a).word0))

def execTclr (a : BitVec 6) (s : State) : Outcome :=
  s.issue .word fun s => s.outside
    (let x := s.myTile a
     if x.isSlot then .fault 0x0D 0 0
     else if !x.isDefined then .retire s
     else if x.free then .retire ((s.putTile a.toNat x.clear).settle)
     else .wait s (.need (.tileFree a.toNat)))

end Sys2Proof.Machine
end

