-- ==== Sys2Proof/Machine/ScalarFloat.lean ====
section
/-! DEFINITION. Scalar floating point (R68 to R70, R92, R108 to R111). -/

namespace Sys2Proof.Machine

open Sys2Proof

/-- The f32 pattern of a scalar register (R92). -/
def State.f32Of (s : State) (n : BitVec 6) : Nat := (s.sreg n).toNat % 2 ^ 32
/-- Its value. -/
def State.fval (s : State) (n : BitVec 6) : FVal := Fmt.f32.value (s.f32Of n)

/-- A value with the flags met before rounding, rounded to f32. -/
def roundPair (md : Mode) (k : Nat) (x : FVal × BitVec 5) : Res :=
  let r := Fmt.f32.round md k x.1
  { r with flags := r.flags ||| x.2 }

/-- A scalar instruction that rounds in ROUND: one draw under STO, whatever its operands (R57, R108). -/
def State.floatRounds (s : State) (d : BitVec 6) (f : Mode → Nat → Res) : Outcome :=
  s.issue .word fun s =>
    let md := s.mode 7
    s.rounding md
      (let r := f md (s.drawAt md 0)
       .retire ((s.setSreg d (BitVec.ofNat 64 r.pat)).rounded md 1 r.flags))

/-- A scalar float instruction that does not round in the mode. -/
def State.floatPlain (s : State) (d : BitVec 6) (r : Res) : Outcome :=
  s.issue .word fun s => .retire ((s.setSreg d (BitVec.ofNat 64 r.pat)).raiseFlags r.flags)

/-- A compare: 1 or 0 in all 64 bits. -/
def State.floatCompare (s : State) (d : BitVec 6) (op : Nat) (x y : FVal) : Outcome :=
  let r := compareVal op x y
  s.floatPlain d { pat := if r.1 then 1 else 0, flags := r.2 }

def execFadd (d a b : BitVec 6) (s : State) : Outcome :=
  s.floatRounds d fun md k => roundPair md k (addVal md (s.fval a) (s.fval b))
def execFsub (d a b : BitVec 6) (s : State) : Outcome :=
  s.floatRounds d fun md k => roundPair md k (addVal md (s.fval a) (s.fval b).neg)
def execFmul (d a b : BitVec 6) (s : State) : Outcome :=
  s.floatRounds d fun md k => roundPair md k (mulVal (s.fval a) (s.fval b))
def execFdiv (d a b : BitVec 6) (s : State) : Outcome :=
  s.floatRounds d fun md k => roundPair md k (divVal (s.fval a) (s.fval b))
def execFsqrt (d a : BitVec 6) (s : State) : Outcome :=
  s.floatRounds d fun md k => roundPair md k (sqrtVal (s.fval a))
def execFmin (d a b : BitVec 6) (s : State) : Outcome :=
  s.floatPlain d (Fmt.f32.minMax false (s.f32Of a) (s.f32Of b))
def execFmax (d a b : BitVec 6) (s : State) : Outcome :=
  s.floatPlain d (Fmt.f32.minMax true (s.f32Of a) (s.f32Of b))
def execFeq (d a b : BitVec 6) (s : State) : Outcome := s.floatCompare d 0 (s.fval a) (s.fval b)
def execFlt (d a b : BitVec 6) (s : State) : Outcome := s.floatCompare d 2 (s.fval a) (s.fval b)
def execFle (d a b : BitVec 6) (s : State) : Outcome := s.floatCompare d 3 (s.fval a) (s.fval b)
def execFclass (d a : BitVec 6) (s : State) : Outcome :=
  s.floatPlain d { pat := Fmt.f32.classMask (s.f32Of a), flags := 0 }
def execFcvtF32I64 (d a : BitVec 6) (s : State) : Outcome :=
  s.floatRounds d fun md k => Fmt.f32.round md k (ofIntVal (s.sreg a).toInt)
def execFcvtI64F32 (d a : BitVec 6) (s : State) : Outcome :=
  s.floatRounds d fun md k => toIntVal md k 64 true (s.fval a)
def execFcvtF32Fx64 (d a : BitVec 6) (s : State) : Outcome :=
  s.floatRounds d fun md k => Fmt.f32.round md k (ofFx64 (s.sreg a).toNat)
def execFcvtFx64F32 (d a : BitVec 6) (s : State) : Outcome :=
  s.floatRounds d fun md k => toIntVal md k 64 true ((s.fval a).scale 32)
def execFrcp (d a : BitVec 6) (s : State) : Outcome := s.floatPlain d (frcp (s.f32Of a))
def execFrsqrt (d a : BitVec 6) (s : State) : Outcome := s.floatPlain d (frsqrt (s.f32Of a))
def execFrcps (d a b : BitVec 6) (s : State) : Outcome :=
  s.floatRounds d fun md k => frcps md k (s.f32Of a) (s.f32Of b)
def execFrsqrts (d a b : BitVec 6) (s : State) : Outcome :=
  s.floatRounds d fun md k => frsqrts md k (s.f32Of a) (s.f32Of b)
def execFexp2 (d a : BitVec 6) (s : State) : Outcome := s.floatPlain d (fexp2 (s.f32Of a))
def execFlog2 (d a : BitVec 6) (s : State) : Outcome := s.floatPlain d (flog2 (s.f32Of a))

/-! ## Fused (R111): the destination is the addend -/

/-- ±(x · y) ± z rounded once. -/
def fused (negProduct negAddend : Bool) (x y z : FVal) (md : Mode) (k : Nat) : Res :=
  roundPair md k (fmaVal md (if negProduct then x.neg else x) y (if negAddend then z.neg else z))

def execFmadd (d a b : BitVec 6) (s : State) : Outcome :=
  s.floatRounds d (fused false false (s.fval a) (s.fval b) (s.fval d))
def execFmsub (d a b : BitVec 6) (s : State) : Outcome :=
  s.floatRounds d (fused false true (s.fval a) (s.fval b) (s.fval d))
def execFnmadd (d a b : BitVec 6) (s : State) : Outcome :=
  s.floatRounds d (fused true true (s.fval a) (s.fval b) (s.fval d))
def execFnmsub (d a b : BitVec 6) (s : State) : Outcome :=
  s.floatRounds d (fused true false (s.fval a) (s.fval b) (s.fval d))

end Sys2Proof.Machine
end

