-- ==== Sys2Proof/Machine/VectorInt.lean ====
section
/-! DEFINITION. Vector integer operations (R119, R122 to R124). Each meaning takes the word before it, `px`; the arm of a bare
instruction gives none. -/

namespace Sys2Proof.Machine

open Sys2Proof

/-! ## The frame of an element-wise instruction that does not round (R122) -/

/-- op on two operands, element by element. -/
def State.elementwise (s : State) (h : How) (px : Pfx) (t : Nat) (d : BitVec 5) (xs ys : List Nat)
    (f : Nat → Nat → Nat → Res) : Outcome :=
  s.issue h fun s =>
    let w := typeWidth t
    let r := sweep (fun _ => 0) 0 (ops2 (s.actives px w) f xs ys)
    .retire ((s.writeElems px w d r.out).raiseFlags r.flags)

/-- An integer instruction of major 0x15. -/
def State.vint (s : State) (h : How) (px : Pfx) (t : Nat) (sc : BitVec 1) (d a b : BitVec 5) (f : Nat → Nat → Nat) : Outcome :=
  s.elementwise h px t d (elems (typeWidth t) (s.vreg a)) (s.second t sc b) (exactly f)

/-- The pattern of an integer at the width of a type. -/
def wrap (t : Nat) (x : Int) : Nat := ofInt (typeWidth t) x

/-- An integer clamped to the range of a type. -/
def clamp (t : Nat) (x : Int) : Nat :=
  let w := typeWidth t
  let hi : Int := if isSigned t then (2 ^ (w - 1) : Nat) - 1 else (2 ^ w : Nat) - 1
  let lo : Int := if isSigned t then -(2 ^ (w - 1) : Nat) else 0
  wrap t (if hi < x then hi else if x < lo then lo else x)

/-- The shift amount of an element: the low log2(w) bits. -/
def elemShift (t y : Nat) : Nat := y % typeWidth t

def vAdd (t x y : Nat) : Nat := wrap t (intOf t x + intOf t y)
def vSub (t x y : Nat) : Nat := wrap t (intOf t x - intOf t y)
def vMul (t x y : Nat) : Nat := wrap t (intOf t x * intOf t y)
def vMulh (t x y : Nat) : Nat := wrap t (intOf t x * intOf t y / (2 ^ typeWidth t : Nat))
def vAdds (t x y : Nat) : Nat := clamp t (intOf t x + intOf t y)
def vSubs (t x y : Nat) : Nat := clamp t (intOf t x - intOf t y)
def vMin (t x y : Nat) : Nat := if intOf t y < intOf t x then y else x
def vMax (t x y : Nat) : Nat := if intOf t x < intOf t y then y else x
def vShl (t x y : Nat) : Nat := x * 2 ^ elemShift t y % 2 ^ typeWidth t
/-- vshr: arithmetic for signed types, logical for unsigned ones. -/
def vShr (t x y : Nat) : Nat := wrap t (intOf t x / (2 ^ elemShift t y : Nat))

def vaddIntP (px : Pfx) (t : BitVec 4) (s : BitVec 1) (d a b : BitVec 5) (st : State) : Outcome :=
  st.vint px.how px t.toNat s d a b (vAdd t.toNat)
def vsubIntP (px : Pfx) (t : BitVec 4) (s : BitVec 1) (d a b : BitVec 5) (st : State) : Outcome :=
  st.vint px.how px t.toNat s d a b (vSub t.toNat)
def vmulIntP (px : Pfx) (t : BitVec 4) (s : BitVec 1) (d a b : BitVec 5) (st : State) : Outcome :=
  st.vint px.how px t.toNat s d a b (vMul t.toNat)
def vmulhP (px : Pfx) (t : BitVec 4) (s : BitVec 1) (d a b : BitVec 5) (st : State) : Outcome :=
  st.vint px.how px t.toNat s d a b (vMulh t.toNat)
def vaddsP (px : Pfx) (t : BitVec 4) (s : BitVec 1) (d a b : BitVec 5) (st : State) : Outcome :=
  st.vint px.how px t.toNat s d a b (vAdds t.toNat)
def vsubsP (px : Pfx) (t : BitVec 4) (s : BitVec 1) (d a b : BitVec 5) (st : State) : Outcome :=
  st.vint px.how px t.toNat s d a b (vSubs t.toNat)
def vminIntP (px : Pfx) (t : BitVec 4) (s : BitVec 1) (d a b : BitVec 5) (st : State) : Outcome :=
  st.vint px.how px t.toNat s d a b (vMin t.toNat)
def vmaxIntP (px : Pfx) (t : BitVec 4) (s : BitVec 1) (d a b : BitVec 5) (st : State) : Outcome :=
  st.vint px.how px t.toNat s d a b (vMax t.toNat)
def vandP (px : Pfx) (t : BitVec 4) (s : BitVec 1) (d a b : BitVec 5) (st : State) : Outcome :=
  st.vint px.how px t.toNat s d a b fun x y => x &&& y
def vorP (px : Pfx) (t : BitVec 4) (s : BitVec 1) (d a b : BitVec 5) (st : State) : Outcome :=
  st.vint px.how px t.toNat s d a b fun x y => x ||| y
def vxorP (px : Pfx) (t : BitVec 4) (s : BitVec 1) (d a b : BitVec 5) (st : State) : Outcome :=
  st.vint px.how px t.toNat s d a b fun x y => x ^^^ y
def vshlP (px : Pfx) (t : BitVec 4) (s : BitVec 1) (d a b : BitVec 5) (st : State) : Outcome :=
  st.vint px.how px t.toNat s d a b (vShl t.toNat)
def vshrP (px : Pfx) (t : BitVec 4) (s : BitVec 1) (d a b : BitVec 5) (st : State) : Outcome :=
  st.vint px.how px t.toNat s d a b (vShr t.toNat)

/-- vmadd: x · y + z, the addend from the fourth operand or the destination. -/
def vmaddP (px : Pfx) (t : BitVec 4) (s : BitVec 1) (d a b : BitVec 5) (st : State) : Outcome :=
  let ty := t.toNat
  st.issue px.how fun st =>
    let w := typeWidth ty
    let f (x y z _draw : Nat) : Res := { pat := wrap ty (intOf ty x * intOf ty y + intOf ty z), flags := 0 }
    let r := sweep (fun _ => 0) 0 (ops3 (st.actives px w) f (elems w (st.vreg a)) (st.second ty s b) (st.third ty px d))
    .retire (st.writeElems px w d r.out)

/-- A widening multiply into a register pair (R118, R124). -/
def State.widening (st : State) (px : Pfx) (t : Nat) (sc : BitVec 1) (d a b : BitVec 5) (f : Nat → Nat → Nat) : Outcome :=
  st.issue px.how fun st =>
    let w := typeWidth t
    let r := sweep (fun _ => 0) 0 (ops2 (st.actives px w) (exactly f) (elems w (st.vreg a)) (st.second t sc b))
    .retire (st.writeGroup px 2 (2 * w) d r.out)

def vwmulP (px : Pfx) (t : BitVec 4) (s : BitVec 1) (d a b : BitVec 5) (st : State) : Outcome :=
  st.widening px t.toNat s d a b fun x y => ofInt (2 * typeWidth t.toNat) (intOf t.toNat x * intOf t.toNat y)
def vclmulP (px : Pfx) (t : BitVec 4) (s : BitVec 1) (d a b : BitVec 5) (st : State) : Outcome :=
  st.widening px t.toNat s d a b fun x y => carryless (typeWidth t.toNat) x y

/-! ## The arms -/

def execVaddInt (t : BitVec 4) (s : BitVec 1) (d a b : BitVec 5) (st : State) : Outcome := vaddIntP .none t s d a b st
def execVsubInt (t : BitVec 4) (s : BitVec 1) (d a b : BitVec 5) (st : State) : Outcome := vsubIntP .none t s d a b st
def execVmulInt (t : BitVec 4) (s : BitVec 1) (d a b : BitVec 5) (st : State) : Outcome := vmulIntP .none t s d a b st
def execVmulh (t : BitVec 4) (s : BitVec 1) (d a b : BitVec 5) (st : State) : Outcome := vmulhP .none t s d a b st
def execVadds (t : BitVec 4) (s : BitVec 1) (d a b : BitVec 5) (st : State) : Outcome := vaddsP .none t s d a b st
def execVsubs (t : BitVec 4) (s : BitVec 1) (d a b : BitVec 5) (st : State) : Outcome := vsubsP .none t s d a b st
def execVminInt (t : BitVec 4) (s : BitVec 1) (d a b : BitVec 5) (st : State) : Outcome := vminIntP .none t s d a b st
def execVmaxInt (t : BitVec 4) (s : BitVec 1) (d a b : BitVec 5) (st : State) : Outcome := vmaxIntP .none t s d a b st
def execVmadd (t : BitVec 4) (s : BitVec 1) (d a b : BitVec 5) (st : State) : Outcome := vmaddP .none t s d a b st
def execVwmul (t : BitVec 4) (s : BitVec 1) (d a b : BitVec 5) (st : State) : Outcome := vwmulP .none t s d a b st
def execVand (t : BitVec 4) (s : BitVec 1) (d a b : BitVec 5) (st : State) : Outcome := vandP .none t s d a b st
def execVor (t : BitVec 4) (s : BitVec 1) (d a b : BitVec 5) (st : State) : Outcome := vorP .none t s d a b st
def execVxor (t : BitVec 4) (s : BitVec 1) (d a b : BitVec 5) (st : State) : Outcome := vxorP .none t s d a b st
def execVshl (t : BitVec 4) (s : BitVec 1) (d a b : BitVec 5) (st : State) : Outcome := vshlP .none t s d a b st
def execVshr (t : BitVec 4) (s : BitVec 1) (d a b : BitVec 5) (st : State) : Outcome := vshrP .none t s d a b st
def execVclmul (t : BitVec 4) (s : BitVec 1) (d a b : BitVec 5) (st : State) : Outcome := vclmulP .none t s d a b st

/-! ## The 16-bit forms (R74): the destination is the first source, elements are 32 bits wide, every one active -/

/-- A 16-bit integer form on i32 or n32 elements. -/
def State.vshort (st : State) (t : Nat) (s : BitVec 1) (d b : BitVec 5) (f : Nat → Nat → Nat) : Outcome :=
  st.vint .half .none t s d d b f

def execVaddI3216 (s : BitVec 1) (d b : BitVec 5) (st : State) : Outcome := st.vshort 4 s d b (vAdd 4)
def execVsubI3216 (s : BitVec 1) (d b : BitVec 5) (st : State) : Outcome := st.vshort 4 s d b (vSub 4)
def execVand16 (s : BitVec 1) (d b : BitVec 5) (st : State) : Outcome := st.vshort 4 s d b fun x y => x &&& y
def execVor16 (s : BitVec 1) (d b : BitVec 5) (st : State) : Outcome := st.vshort 4 s d b fun x y => x ||| y
def execVxor16 (s : BitVec 1) (d b : BitVec 5) (st : State) : Outcome := st.vshort 4 s d b fun x y => x ^^^ y
def execVshlI3216 (s : BitVec 1) (d b : BitVec 5) (st : State) : Outcome := st.vshort 4 s d b (vShl 4)
def execVshrN3216 (s : BitVec 1) (d b : BitVec 5) (st : State) : Outcome := st.vshort 5 s d b (vShr 5)
def execVshrI3216 (s : BitVec 1) (d b : BitVec 5) (st : State) : Outcome := st.vshort 4 s d b (vShr 4)
def execVminI3216 (s : BitVec 1) (d b : BitVec 5) (st : State) : Outcome := st.vshort 4 s d b (vMin 4)
def execVmaxI3216 (s : BitVec 1) (d b : BitVec 5) (st : State) : Outcome := st.vshort 4 s d b (vMax 4)

end Sys2Proof.Machine
end

