-- ==== Sys2Proof/Machine/VectorFloat.lean ====
section
/-! DEFINITION. Vector floating point, conversions, quantisation and AMAX (R125 to R128). -/

namespace Sys2Proof.Machine

open Sys2Proof

/-! ## Arithmetic (R125) -/

/-- A value with the flags met before rounding, rounded to a format. -/
def Fmt.roundWith (f : Fmt) (md : Mode) (k : Nat) (x : FVal × BitVec 5) : Res :=
  let r := f.round md k x.1
  { r with flags := r.flags ||| x.2 }

/-- Element-wise with one rounding of each active element in the mode. -/
def State.vround (st : State) (h : How) (px : Pfx) (t : Nat) (d : BitVec 5) (ops : State → Mode → List (Bool × (Nat → Res))) :
    Outcome :=
  st.issue h fun st =>
    let md := st.mode px.round
    st.rounding md
      (let r := sweep (st.drawAt md) 0 (ops st md)
       .retire ((st.writeElems px (typeWidth t) d r.out).rounded md r.used r.flags))

/-- Two operands of a float type. -/
def State.vfloat (st : State) (h : How) (px : Pfx) (t : Nat) (sc : BitVec 1) (d a b : BitVec 5)
    (f : Mode → Nat → Nat → Nat → Res) : Outcome :=
  st.vround h px t d fun st md =>
    ops2 (st.actives px (typeWidth t)) (f md) (elems (typeWidth t) (st.vreg a)) (st.second t sc b)

def fAdd (t : Nat) (md : Mode) (x y k : Nat) : Res :=
  let f := fmtOf t
  f.roundWith md k (addVal md (f.value x) (f.value y))
def fSub (t : Nat) (md : Mode) (x y k : Nat) : Res :=
  let f := fmtOf t
  f.roundWith md k (addVal md (f.value x) (f.value y).neg)
def fMul (t : Nat) (md : Mode) (x y k : Nat) : Res :=
  let f := fmtOf t
  f.roundWith md k (mulVal (f.value x) (f.value y))

def vaddFloatP (px : Pfx) (t : BitVec 4) (s : BitVec 1) (d a b : BitVec 5) (st : State) : Outcome :=
  st.vfloat px.how px t.toNat s d a b (fAdd t.toNat)
def vsubFloatP (px : Pfx) (t : BitVec 4) (s : BitVec 1) (d a b : BitVec 5) (st : State) : Outcome :=
  st.vfloat px.how px t.toNat s d a b (fSub t.toNat)
def vmulFloatP (px : Pfx) (t : BitVec 4) (s : BitVec 1) (d a b : BitVec 5) (st : State) : Outcome :=
  st.vfloat px.how px t.toNat s d a b (fMul t.toNat)

/-- vfma: x · y + z rounded once. -/
def vfmaP (px : Pfx) (t : BitVec 4) (s : BitVec 1) (d a b : BitVec 5) (st : State) : Outcome :=
  let ty := t.toNat
  st.vround px.how px ty d fun st md =>
    let f := fmtOf ty
    let w := typeWidth ty
    ops3 (st.actives px w) (fun x y z k => f.roundWith md k (fmaVal md (f.value x) (f.value y) (f.value z)))
      (elems w (st.vreg a)) (st.second ty s b) (st.third ty px d)

def vminFloatP (px : Pfx) (t : BitVec 4) (s : BitVec 1) (d a b : BitVec 5) (st : State) : Outcome :=
  st.elementwise px.how px t.toNat d (elems (typeWidth t.toNat) (st.vreg a)) (st.second t.toNat s b)
    fun x y _ => (fmtOf t.toNat).minMax false x y
def vmaxFloatP (px : Pfx) (t : BitVec 4) (s : BitVec 1) (d a b : BitVec 5) (st : State) : Outcome :=
  st.elementwise px.how px t.toNat d (elems (typeWidth t.toNat) (st.vreg a)) (st.second t.toNat s b)
    fun x y _ => (fmtOf t.toNat).minMax true x y

/-- An f32 function of one operand that does not round in the mode. -/
def State.vestimate (st : State) (px : Pfx) (d a : BitVec 5) (f : Nat → Res) : Outcome :=
  st.elementwise px.how px 6 d (elems 32 (st.vreg a)) (elems 32 (st.vreg a)) fun x _ _ => f x

def vexp2P (px : Pfx) (d a : BitVec 5) (st : State) : Outcome := st.vestimate px d a fexp2
def vlog2P (px : Pfx) (d a : BitVec 5) (st : State) : Outcome := st.vestimate px d a flog2
def vrcpP (px : Pfx) (d a : BitVec 5) (st : State) : Outcome := st.vestimate px d a frcp
def vrsqrtP (px : Pfx) (d a : BitVec 5) (st : State) : Outcome := st.vestimate px d a frsqrt
def vrcpsP (px : Pfx) (s : BitVec 1) (d a b : BitVec 5) (st : State) : Outcome :=
  st.vfloat px.how px 6 s d a b fun md x y k => frcps md k x y
def vrsqrtsP (px : Pfx) (s : BitVec 1) (d a b : BitVec 5) (st : State) : Outcome :=
  st.vfloat px.how px 6 s d a b fun md x y k => frsqrts md k x y

/-! ## Conversions (R126) -/

/-- Does a conversion round in the mode: to a float type, or from a float or tapered type to an integer type, and not a copy? -/
def cvtRounds (dst src : Nat) : Bool :=
  dst != src && (isFloatType dst || (isIntType dst && !isIntType src))

/-- One value converted from `src` to `dst`. -/
def cvtElem (dst src : Nat) (md : Mode) (k x : Nat) : Res :=
  if dst = src then { pat := writeAs dst (readAs src x), flags := 0 }
  else if isTaperedType dst then
    let r := toTapered (taperWidth dst) (valueOf src x)
    { r with pat := writeAs dst r.pat }
  else if isFloatType dst then (fmtOf dst).round md k (valueOf src x)
  else if isIntType src then { pat := wrap dst (intOf src x), flags := 0 }
  else toIntVal md k (typeWidth dst) (isSigned dst) (valueOf src x)

/-- A conversion as an element operation; draws are taken only where it rounds in the mode (R120). -/
def State.convert (st : State) (px : Pfx) (dst src : Nat) (xs : List Nat) (act : List Bool)
    (write : State → List (Option Nat) → State) : Eff :=
  let rd := cvtRounds dst src
  let md := st.mode px.round
  let body : Eff :=
    let r := sweep (fun n => if rd then st.drawAt md n else 0) 0 (opsOf act (fun x k => cvtElem dst src md k x) xs)
    let t := write st r.out
    .retire (if rd then t.rounded md r.used r.flags else t.raiseFlags r.flags)
  if rd then st.rounding md body else body

/-- vcvt: from a source group of ratio w(src)/w(dst), or of the same width. -/
def vcvtP (px : Pfx) (t u : BitVec 4) (d a : BitVec 5) (st : State) : Outcome :=
  st.issue px.how fun st =>
    let wd := typeWidth t.toNat
    let ws := typeWidth u.toNat
    st.convert px t.toNat u.toNat (st.readGroup (ws / wd) ws a) (st.actives px wd) fun st out => st.writeElems px wd d out

/-- vcvtw: into a destination group of ratio w(dst)/w(src), masked by source elements. -/
def vcvtwP (px : Pfx) (t u : BitVec 4) (d a : BitVec 5) (st : State) : Outcome :=
  st.issue px.how fun st =>
    let wd := typeWidth t.toNat
    let ws := typeWidth u.toNat
    st.convert px t.toNat u.toNat (elems ws (st.vreg a)) (st.actives px ws) fun st out => st.writeGroup px (wd / ws) wd d out

/-! ## Quantisation (R62, R127) and AMAX (R128) -/

/-- Cuts a list into blocks of 32. -/
def blocks {α : Type} : Nat → List α → List (List α)
  | 0, _ => []
  | n + 1, l => l.take 32 :: blocks n (l.drop 32)

/-- The target of a quantised type. -/
def quantTarget (t : Nat) : BlockTarget :=
  if t = 0 then .int 8 else if t = 11 then .int 4 else .tapered (taperWidth t)

/-- One block: its scale byte, chosen from the active elements, and the converted elements. -/
def quantBlock (t : Nat) (xs : List (Bool × FVal)) : Nat × List (Bool × (Nat → Res)) :=
  let g := quantTarget t
  let b := blockScale g ((xs.filter fun e => e.1).map fun e => e.2)
  (b, xs.map fun e => (e.1, fun _ => let r := blockElem g b e.2; { r with pat := writeAs t r.pat }))

/-- vquant. -/
def vquantP (px : Pfx) (t : BitVec 4) (d a b : BitVec 5) (st : State) : Outcome :=
  let ty := t.toNat
  st.issue px.how fun st =>
    let wd := typeWidth ty
    let src := if ty = 11 then 7 else 6
    let xs := (st.readGroup 4 (4 * wd) a).map (valueOf src)
    let act := st.actives px wd
    let bs := (blocks (4096 / wd / 32) (act.zip xs)).map (quantBlock ty)
    let r := sweep (fun _ => 0) 0 (bs.flatMap fun e => e.2)
    let t' := (st.writeElems px wd d r.out).setVreg b (packV 8 (bs.map fun e => e.1))
    .retire ((t'.raiseFlags r.flags).updateAmax st.myLc (((act.zip xs).filter fun e => e.1).map fun e => e.2))

/-- vamax. -/
def vamaxP (px : Pfx) (t : BitVec 4) (a : BitVec 5) (st : State) : Outcome :=
  st.issue px.how fun st =>
    let w := typeWidth t.toNat
    let xs := (elems w (st.vreg a)).map (valueOf t.toNat)
    .retire (st.updateAmax st.myLc ((((st.actives px w).zip xs).filter fun e => e.1).map fun e => e.2))

/-! ## The arms -/

def execVaddFloat (t : BitVec 4) (s : BitVec 1) (d a b : BitVec 5) (st : State) : Outcome := vaddFloatP .none t s d a b st
def execVsubFloat (t : BitVec 4) (s : BitVec 1) (d a b : BitVec 5) (st : State) : Outcome := vsubFloatP .none t s d a b st
def execVmulFloat (t : BitVec 4) (s : BitVec 1) (d a b : BitVec 5) (st : State) : Outcome := vmulFloatP .none t s d a b st
def execVfma (t : BitVec 4) (s : BitVec 1) (d a b : BitVec 5) (st : State) : Outcome := vfmaP .none t s d a b st
def execVminFloat (t : BitVec 4) (s : BitVec 1) (d a b : BitVec 5) (st : State) : Outcome := vminFloatP .none t s d a b st
def execVmaxFloat (t : BitVec 4) (s : BitVec 1) (d a b : BitVec 5) (st : State) : Outcome := vmaxFloatP .none t s d a b st
def execVexp2 (d a : BitVec 5) (st : State) : Outcome := vexp2P .none d a st
def execVlog2 (d a : BitVec 5) (st : State) : Outcome := vlog2P .none d a st
def execVrcp (d a : BitVec 5) (st : State) : Outcome := vrcpP .none d a st
def execVrsqrt (d a : BitVec 5) (st : State) : Outcome := vrsqrtP .none d a st
def execVrcps (s : BitVec 1) (d a b : BitVec 5) (st : State) : Outcome := vrcpsP .none s d a b st
def execVrsqrts (s : BitVec 1) (d a b : BitVec 5) (st : State) : Outcome := vrsqrtsP .none s d a b st
def execVcvt (t u : BitVec 4) (d a : BitVec 5) (st : State) : Outcome := vcvtP .none t u d a st
def execVcvtw (t u : BitVec 4) (d a : BitVec 5) (st : State) : Outcome := vcvtwP .none t u d a st
def execVquant (t : BitVec 4) (d a b : BitVec 5) (st : State) : Outcome := vquantP .none t d a b st
def execVamax (t : BitVec 4) (a : BitVec 5) (st : State) : Outcome := vamaxP .none t a st

/-! ## The 16-bit forms (R74) -/

def execVaddF3216 (s : BitVec 1) (d b : BitVec 5) (st : State) : Outcome := st.vfloat .half .none 6 s d d b (fAdd 6)
def execVsubF3216 (s : BitVec 1) (d b : BitVec 5) (st : State) : Outcome := st.vfloat .half .none 6 s d d b (fSub 6)
def execVmulF3216 (s : BitVec 1) (d b : BitVec 5) (st : State) : Outcome := st.vfloat .half .none 6 s d d b (fMul 6)
def execVminF3216 (s : BitVec 1) (d b : BitVec 5) (st : State) : Outcome :=
  st.elementwise .half .none 6 d (elems 32 (st.vreg d)) (st.second 6 s b) fun x y _ => Fmt.f32.minMax false x y
def execVmaxF3216 (s : BitVec 1) (d b : BitVec 5) (st : State) : Outcome :=
  st.elementwise .half .none 6 d (elems 32 (st.vreg d)) (st.second 6 s b) fun x y _ => Fmt.f32.minMax true x y

end Sys2Proof.Machine
end

