-- ==== Sys2Proof/Machine/MatrixUnit.lean ====
section
/-! DEFINITION. The matrix unit of an octave: the fill-and-drain path and the compute array (R223, R228 to R242, R251). The subject of
each step names the octave. -/

namespace Sys2Proof.Machine

open Sys2Proof

/-! ## Steps of other agents -/

/-- A step that takes place when its precondition holds. -/
def State.enabled (s : State) (h : Bool) (body : State → State) : Outcome := if h then .next (body s) else .next s

/-- A fault that an engine meets after issue (R223): it is noted in the issuing firing while that is alive, and ends the launch. -/
def State.engineFault (s : State) (lk : Nat) (k : Cmd) (code : Code) : State :=
  let g := s.firing k.fk
  let s := if g.st ≠ .free && g.seqno == k.seqno then
      s.setFiring k.fk { g with cause := BitVec.ofNat 20 code.toNat, epc := k.epc, faddr := 0 }
    else s
  s.endLaunch (launchOfLc lk) code

/-! ## Commands of an octave (R232) -/

/-- The core of a logical core within its octave. -/
def State.coreIn (s : State) (lk : Nat) : Nat := (s.lc lk).pcore % 8

/-- The accumulator that a command names. -/
def Work.acc (w : Work) : Option Nat :=
  match w with
  | .mma _ _ n _ _ => some n
  | .adrain _ _ n => some n
  | .azero n => some n
  | _ => none

/-- Does a command name the mask slot? -/
def Work.usesMask (w : Work) : Bool :=
  match w with
  | .mma _ _ _ _ masked => masked
  | .mmask _ => true
  | _ => false

def Work.isMma (w : Work) : Bool := match w with | .mma _ _ _ _ _ => true | _ => false

/-- Two commands of one logical core that may not run out of order. -/
def Work.conflicts (a b : Work) : Bool :=
  (a.acc.isSome && a.acc == b.acc) || (a.usesMask && b.usesMask) || a.tiles.any fun t => b.tiles.contains t

/-- No earlier command of the logical core holds this one back: none conflicts, wherever it is queued or runs, and none before it in its
queue is held for its guard (R227, R232). -/
def State.unheld (s : State) (lk : Nat) (k : Cmd) : Bool :=
  let before (l : List Cmd) : List Cmd := l.filter fun e => decide (e.order < k.order)
  ((before (s.commandsOf lk)).all fun e => !e.work.conflicts k.work) && (before (s.lc lk).matq).all fun e => e.guard != .pending

/-- The tiles of a command allow its start (R231). -/
def State.tilesAllow (s : State) (lk : Nat) (k : Cmd) : Bool :=
  let c := s.lc lk
  match k.work with
  | .ofill ta tb _ _ _ => (c.tile tb).isReady && s.fillFree lk ta k.order
  | .mma ta tb _ _ _ => (c.tile ta).isReady && (c.tile tb).isReady
  | .adrain ta _ _ => s.fillFree lk ta k.order
  | _ => true

/-- A queued command that may start. -/
def State.able (s : State) (lk : Nat) (k : Cmd) : Bool :=
  !k.started && (k.guard == .free || k.guard == .known true) && s.unheld lk k && s.tilesAllow lk k

/-- The commands in the matrix queues of an octave, each with its logical core. -/
def State.octaveCmds (s : State) (oct : Nat) : List (Nat × Cmd) :=
  s.lcores.flatMap fun e => if octaveOf e.2.pcore = oct then e.2.matq.map fun k => (e.1, k) else []

/-- Places behind the core served last, whose number plus one `last` is. -/
def turnOf (core last : Nat) : Nat := (core + 8 - last) % 8

/-- The least entry of a list by a key of two numbers. -/
def leastBy {α : Type} (key : α → Nat × Nat) : List α → Option α
  | [] => none
  | x :: r =>
    match leastBy key r with
    | none => some x
    | some y => if (key x).1 < (key y).1 ∨ ((key x).1 = (key y).1 ∧ (key x).2 ≤ (key y).2) then some x else some y

/-- What the fill-and-drain path takes next. -/
def State.pathNext (s : State) (oct : Nat) : Option (Nat × Cmd) :=
  let o := s.octave oct
  if o.path.isSome then none
  else leastBy (fun e => (turnOf (s.coreIn e.1) o.pathLast, e.2.order))
    ((s.octaveCmds oct).filter fun e => !e.2.work.isMma && s.able e.1 e.2)

/-- Changes a command of a matrix queue. -/
def State.modCmd (s : State) (lk order : Nat) (h : Cmd → Cmd) : State :=
  s.modLc lk fun c => { c with matq := c.matq.map fun k => if k.order = order then h k else k }

/-- A matrix command has completed: its entry is free. -/
def State.retireCmd (s : State) (lk : Nat) (k : Cmd) : State :=
  (((s.modLc lk fun c => { c with matq := c.matq.filter fun x => x.order ≠ k.order }).unuse lk k.work).prune lk).settle

/-- A command that is on the path. -/
def State.onPath (s : State) (oct : Nat) : Option (Nat × Cmd) :=
  match (s.octave oct).path with
  | none => none
  | some (lk, n) => ((s.lc lk).matq.find? fun k => k.order = n).map fun k => (lk, k)

/-- The source tile of an ofill has its poison bit set (R223). -/
def State.sourcePoisoned (s : State) (lk : Nat) (k : Cmd) : Bool :=
  match k.work with
  | .ofill _ tb _ _ _ => ((s.lc lk).tile tb).poison
  | _ => false

/-- The chosen command takes the path. -/
def State.takePath (s : State) (oct lk : Nat) (k : Cmd) : State :=
  let s := s.modOctave oct fun o => { o with path := some (lk, k.order), pathLast := s.coreIn lk + 1 }
  (s.modCmd lk k.order fun x => { x with started := true }).prune lk

/-- The path is free again, its command complete. -/
def State.leavePath (s : State) (oct lk : Nat) (k : Cmd) : State :=
  (s.modOctave oct fun o => { o with path := none }).retireCmd lk k

/-- A start on the path of a command of one kind; `go` starts it. A source tile with its poison bit set is fault 0x0A instead (R223). -/
def State.startOnPath (s : State) (kind : Work → Bool) (go : State → Nat → Cmd → State) : Outcome :=
  let oct := s.subject.unit
  match s.pathNext oct with
  | some (lk, k) => s.enabled (kind k.work) fun s =>
      if s.sourcePoisoned lk k then (s.engineFault lk k 0x0A).settle else (go (s.takePath oct lk k) lk k).settle
  | none => .next s

/-- The completion of the command on the path, if it is of one kind. -/
def State.finishOnPath (s : State) (kind : Work → Bool) (go : State → Nat → Cmd → State) : Outcome :=
  let oct := s.subject.unit
  match s.onPath oct with
  | some (lk, k) => s.enabled (kind k.work) fun s => (go s lk k).leavePath oct lk k
  | none => .next s

/-! ## Slots and tiles as bytes (R229, R230) -/

/-- Bytes written over a pattern of `w` bits from a byte offset. -/
def putBytes {w : Nat} (v : BitVec w) (off : Nat) (bs : List Byte) : BitVec w :=
  let m := (2 ^ (8 * bs.length) - 1) * 2 ^ (8 * off)
  (v &&& ~~~(BitVec.ofNat w m)) ||| BitVec.ofNat w (leNat bs * 2 ^ (8 * off))

/-- Bytes of a slot tile: offsets below 8,192 are data, the 512 above them the scale store. -/
def OpSlot.write (x : OpSlot) (off : Nat) (bs : List Byte) : OpSlot :=
  let n := 8192 - off
  { x with data := putBytes x.data off (bs.take n), scales := putBytes x.scales (off - 8192) (bs.drop n) }

/-- Granules of a slot that a write of `n` bytes covers whole, and those it touches. -/
def granulesTouched (off n : Nat) : List Nat :=
  if n = 0 then [] else (List.range ((off + n - 1) / 64 + 1 - off / 64)).map fun i => off / 64 + i

def granulesCovered (off n : Nat) : List Nat :=
  (granulesTouched off n).filter fun g => decide (off ≤ 64 * g) && decide (64 * g + 64 ≤ off + n)

/-- A tile of a logical core is ready or filling after a change. -/
def State.modTile (s : State) (lk t : Nat) (h : Tile → Tile) : State := s.modLc lk fun c => c.setTile t (h (c.tile t))

/-- Physical address of a byte of a scratchpad tile. -/
def LCore.tilePA (c : LCore) (t off : Nat) : Nat := c.sharePA ((c.tile t).base + off)

/-- A tile whose whole contents of `n` bytes have come at once (R238, R241); one that was cleared since stays undefined (log 15, DESIGN
CHOICE). -/
def Tile.complete (x : Tile) (n : Nat) (poison : Bool) : Tile :=
  if x.isDefined then { x.makeReady with expected := n, arrived := n, poison := poison } else x

/-! ## ofill (R238) -/

def Work.isOfill (w : Work) : Bool := match w with | .ofill _ _ _ _ _ => true | _ => false

/-- Poisoned granules among `n` bytes at an aligned physical address, by number. -/
def State.poisonedAmong (s : State) (pa n : Nat) : List Nat :=
  (List.range ((n + 63) / 64)).filter fun i => s.poisoned (pa + 64 * i)

/-- ofill copies the image and enters the slot control; poisoned granules stay poisoned in the slot. -/
def State.ofillStart (s : State) (lk : Nat) (k : Cmd) : State :=
  match k.work with
  | .ofill ta tb fmt kk scaled =>
    let c := s.lc lk
    let pa := c.tilePA tb 0
    let n := 64 * rowBytes fmt kk
    let bs := s.readHome false pa (imageBytes fmt kk scaled)
    let bad := s.poisonedAmong pa (imageBytes fmt kk scaled)
    let bad := bad.map fun g => if 64 * g < n then g else g + (8192 - n) / 64
    let s := s.setSlot (octaveOf c.pcore) (c.tile ta).base fun x =>
      let y := x.write 0 (bs.take n)
      let y := if scaled then y.write 8192 (bs.drop n) else y
      { y with fmt := some fmt, k := kk, scaled := scaled,
               poison := bad ++ x.poison.filter fun g =>
                 !(decide (64 * g < n) || (scaled && decide (128 ≤ g))) }
    s.modTile lk ta Tile.startFill
  | _ => s

def State.ofillDone (s : State) (lk : Nat) (k : Cmd) : State :=
  match k.work with
  | .ofill ta tb fmt kk scaled =>
    s.modTile lk ta fun x => x.complete (imageBytes fmt kk scaled) ((s.lc lk).tile tb).poison
  | _ => s

def execOfillStart (s : State) : Outcome := s.startOnPath Work.isOfill State.ofillStart
def execOfillCompletion (s : State) : Outcome := s.finishOnPath Work.isOfill State.ofillDone

/-! ## Accumulators (R239, R241, R242) -/

/-- Accumulator n of a core: 64 rows of 64 patterns of 32 bits, row-major. -/
def State.accRows (s : State) (c : LCore) (n : Nat) : List (List Nat) :=
  (List.range 64).map fun i => unpack 32 64 (leNat (s.readHome false (c.accPA (16384 * n + 256 * i)) 256))

/-- Writes an accumulator; poison marks of its granules stay. -/
def State.setAcc (s : State) (c : LCore) (n : Nat) (rows : List (List Nat)) : State :=
  let bs := rows.flatMap fun r => r.flatMap fun x => leBytes 4 x
  { s with mem := { s.mem with home := Mem.write s.mem.home (c.accPA (16384 * n)) bs } }

/-- azero, complete when it starts. -/
def State.azeroRun (s : State) (lk : Nat) (k : Cmd) : State :=
  match k.work with
  | .azero n =>
    let c := s.lc lk
    let pa := c.accPA (16384 * n)
    let s : State := { s with mem := { s.mem with
      home := Mem.clear s.mem.home pa 16384,
      poison := s.mem.poison.filter (fun g => decide (64 * g < pa) || decide (pa + 16384 ≤ 64 * g)) } }
    s.modLc lk fun c => if n = 0 then { c with ovf0 := false } else { c with ovf1 := false }
  | _ => s

def Work.isAzero (w : Work) : Bool := match w with | .azero _ => true | _ => false
def Work.isMmask (w : Work) : Bool := match w with | .mmask _ => true | _ => false
def Work.isAdrain (w : Work) : Bool := match w with | .adrain _ _ _ => true | _ => false

def execAzeroStart (s : State) : Outcome :=
  s.startOnPath Work.isAzero fun t lk k => (t.azeroRun lk k).leavePath s.subject.unit lk k

/-- mmask, complete when it starts (R240). -/
def State.mmaskRun (s : State) (lk : Nat) (k : Cmd) : State :=
  match k.work with
  | .mmask b => s.modLc lk fun c => { c with mask := b }
  | _ => s

def execMmaskStart (s : State) : Outcome :=
  s.startOnPath Work.isMmask fun t lk k => (t.mmaskRun lk k).leavePath s.subject.unit lk k

/-! ## adrain (R241) -/

/-- A row of a scaled result: its two scale bytes, and its elements. -/
def drainRow (fmt : Nat) (xs : List FVal) : List Nat × List Nat :=
  let g := quantTarget fmt
  let bs := blocks 2 xs
  let ss := bs.map (blockScale g)
  (ss, (bs.zip ss).flatMap fun e => e.1.map fun x => (blockElem g e.2 x).pat)

/-- The result bytes of a drain. -/
def drainImage (fmt : Nat) (rows : List (List Nat)) : List Byte :=
  let vals (r : List Nat) : List FVal := r.map fun x => Fmt.f32.value x
  if fmt = 4 ∨ fmt = 6 then rows.flatMap fun r => r.flatMap fun x => leBytes 4 x
  else if fmt = 7 ∨ fmt = 8 then
    rows.flatMap fun r => (vals r).flatMap fun x => leBytes 2 ((fmtOf fmt).round .rne 0 x).pat
  else
    let w := packedBits fmt
    let out := rows.map fun r => drainRow fmt (vals r)
    (out.flatMap fun e => leBytes (8 * w) (pack w e.2)) ++ out.flatMap fun e => leBytes 8 (pack 8 e.1)

/-- adrain converts the accumulator; a poisoned granule of the accumulator is remembered for the tile. -/
def State.adrainStart (s : State) (lk : Nat) (k : Cmd) : State :=
  match k.work with
  | .adrain ta fmt n =>
    let c := s.lc lk
    let rows := s.accRows c n
    let bad := !(s.poisonedAmong (c.accPA (16384 * n)) 16384).isEmpty
    let s := if (c.tile ta).isDefined then
        s.writePhys (some (s.launch (launchOfLc lk)).ctx) false (c.tilePA ta 0) (drainImage fmt rows) else s
    (s.modTile lk ta Tile.startFill).modCmd lk k.order fun x => { x with poison := bad }
  | _ => s

/-- At its completion it updates AMAX, i32 excepted (R148). -/
def State.adrainDone (s : State) (lk : Nat) (k : Cmd) : State :=
  match k.work with
  | .adrain ta fmt n =>
    let s := if fmt = 4 then s else s.updateAmax lk ((s.accRows (s.lc lk) n).flatMap fun r => r.map fun x => Fmt.f32.value x)
    s.modTile lk ta fun x => x.complete (drainBytes fmt) k.poison
  | _ => s

def execAdrainStart (s : State) : Outcome := s.startOnPath Work.isAdrain State.adrainStart
def execAdrainCompletion (s : State) : Outcome := s.finishOnPath Work.isAdrain State.adrainDone

/-! ## mma (R239) -/

/-- The small formats, any two of which pair. -/
def isSmall (t : Nat) : Bool := t == 0 || t == 1 || t == 11 || t == 12 || t == 9 || t == 10

def pairAllowed (a b : Nat) : Bool :=
  (a == 6 && b == 6) || ((a == 7 || a == 8) && (b == 7 || b == 8)) || (isSmall a && isSmall b)

/-- The two slots of an mma. -/
def State.mmaSlots (s : State) (lk ta tb : Nat) : OpSlot × OpSlot :=
  let c := s.lc lk
  let o := s.octave (octaveOf c.pcore)
  (Tbl.get .unclaimed o.slots (c.tile ta).base, Tbl.get .unclaimed o.slots (c.tile tb).base)

/-- The start-time fault of an mma (R223): poison, then a pair that the unit cannot take. -/
def State.mmaFault (s : State) (lk : Nat) (k : Cmd) : Option Code :=
  match k.work with
  | .mma ta tb _ _ _ =>
    let c := s.lc lk
    let (x, y) := s.mmaSlots lk ta tb
    if (c.tile ta).poison || (c.tile tb).poison || !x.poison.isEmpty || !y.poison.isEmpty then some 0x0A
    else
      match x.fmt, y.fmt with
      | some a, some b => if pairAllowed a b && x.k == y.k then none else some 0x0B
      | _, _ => some 0x0B
  | _ => none

/-- The patterns of block j (32 elements) of a row of a slot. -/
def OpSlot.block (x : OpSlot) (row j : Nat) : List Nat :=
  let t := x.fmt.getD 0
  let w := packedBits t
  unpack w 32 (x.data.toNat / 2 ^ (8 * rowBytes t x.k * row + 32 * w * j))

/-- The scale byte of a block; 127 for a slot without scales. -/
def OpSlot.scaleByte (x : OpSlot) (row j : Nat) : Nat :=
  if x.scaled then x.scales.toNat / 2 ^ (8 * (8 * row + j)) % 256 else 127

/-- A block with its values and its scale exponent; the scale byte 0xFF makes every element a NaN (R61). -/
def OpSlot.values (x : OpSlot) (row j : Nat) : List FVal × Int :=
  let b := x.scaleByte row j
  let vs := (x.block row j).map (valueOf (x.fmt.getD 0))
  if b = 255 then (vs.map fun _ => .nan false, 0) else (vs, (b : Int) - 127)

def isIntFormat (t : Nat) : Bool := t == 0 || t == 1 || t == 11 || t == 12

/-- Does a pair of slots take the integer path? -/
def integerPath (x y : OpSlot) : Bool := isIntFormat (x.fmt.getD 0) && isIntFormat (y.fmt.getD 0) && !x.scaled && !y.scaled

/-- The exact sum of the products of a block; of products that are all −0 it is −0 (R63), the zeros of integers and of tapered numbers counting as
+0 (log 22, DESIGN CHOICE). -/
def blockSum : List FVal → List FVal → Option FVal
  | a :: as, b :: bs =>
    let p := (mulVal a b).1
    match blockSum as bs with
    | none => some p
    | some q => some (addVal .rne p q).1
  | _, _ => none

/-- One block of the float path (R63). -/
def floatBlock (a b : List FVal × Int) (acc : Nat) : Nat :=
  let v := ((blockSum a.1 b.1).getD (.zero false)).scale (a.2 + b.2)
  let p := (Fmt.f32.round .rne 0 v).pat
  (Fmt.f32.round .rne 0 (addVal .rne (Fmt.f32.value acc) (Fmt.f32.value p)).1).pat

/-- The exact sum of the products of integers. -/
def intSum : List Int → List Int → Int
  | a :: as, b :: bs => a * b + intSum as bs
  | _, _ => 0

/-- One block of the integer path, with its overflow (R64). -/
def intBlock (a b : List Int) (acc : Nat) : Nat × Bool :=
  let v := toInt 32 acc + intSum a b
  (ofInt 32 v, decide (v < -(2 ^ 31 : Int)) || decide ((2 ^ 31 : Int) ≤ v))

/-- Block j of every row applied to an accumulator: the new rows and whether an integer sum overflowed. -/
def applyBlock (x y : OpSlot) (rows : List (List Nat)) (j : Nat) : List (List Nat) × Bool :=
  if integerPath x y then
    let ints (z : OpSlot) (r : Nat) : List Int := (z.block r j).map (intOf (z.fmt.getD 0))
    let bs := (List.range 64).map (ints y)
    let out := rows.zipIdx.map fun e =>
      let a := ints x e.2
      (e.1.zip bs).map fun p => intBlock a p.2 p.1
    (out.map fun r => r.map fun p => p.1, out.any fun r => r.any fun p => p.2)
  else
    let bs := (List.range 64).map fun r => y.values r j
    (rows.zipIdx.map fun e =>
      let a := x.values e.2 j
      (e.1.zip bs).map fun p => floatBlock a p.2 p.1, false)

/-- Masked entries take the fill pattern (R239, R240). -/
def applyMask (mask : BitVec 4224) (rows : List (List Nat)) : List (List Nat) :=
  let b := leBytes 528 mask.toNat
  let fill := recNat b 512 4
  let count := recNat b 516 4
  let base := recNat b 520 4
  if recNat b 524 4 = 1 then
    rows.zipIdx.map fun r => r.1.zipIdx.map fun e =>
      if count ≤ r.2 || (decide (base ≤ e.2) && !bit (recNat b (8 * r.2) 8) (e.2 - base)) then fill else e.1
  else rows

/-- The k-steps of an mma: 64 columns each, the last one partial if need be (R233). -/
def kSteps (k : Nat) : Nat := (k + 63) / 64

/-- Does k-step `ks` of an mma read poisoned bytes of a row of a slot, of its elements or of its scales? -/
def OpSlot.badRow (x : OpSlot) (ks row : Nat) : Bool :=
  let w := packedBits (x.fmt.getD 0)
  let rb := rowBytes (x.fmt.getD 0) x.k
  let hit := granulesTouched (rb * row + 8 * w * ks) (min (8 * w) (rb - 8 * w * ks)) ++ (if x.scaled then [128 + row / 8] else [])
  hit.any fun g => x.poison.contains g

/-- The granules of an accumulator that poisoned rows of the two slots feed in a k-step: rows of the first are rows of it, rows of the
second its columns, sixteen in a granule (R251). -/
def fedGranules (x y : OpSlot) (ks : Nat) : List Nat :=
  if x.poison.isEmpty && y.poison.isEmpty then []
  else
    let rows := (List.range 64).filter (x.badRow ks)
    let cols := (List.range 64).filter (y.badRow ks)
    (List.range 256).filter fun g => rows.contains (g / 4) || cols.any fun j => j / 16 == g % 4

/-- One k-step of an mma is done: one or two blocks, and after the last one the mask. -/
def State.mmaStep (s : State) (lk : Nat) (k : Cmd) : State :=
  match k.work with
  | .mma ta tb n _ masked =>
    let c := s.lc lk
    let (x, y) := s.mmaSlots lk ta tb
    let js := if 64 * k.ksteps + 32 < x.k then [2 * k.ksteps, 2 * k.ksteps + 1] else [2 * k.ksteps]
    let r := js.foldl (fun (a : List (List Nat) × Bool) j => let b := applyBlock x y a.1 j; (b.1, a.2 || b.2)) (s.accRows c n, false)
    let rows := if masked && decide (kSteps x.k ≤ k.ksteps + 1) then applyMask c.mask r.1 else r.1
    let s := (fedGranules x y k.ksteps).foldl (fun s g => s.setPoison (c.accPA (16384 * n + 64 * g))) (s.setAcc c n rows)
    let s := s.modLc lk fun c =>
      if n = 0 then { c with ovf0 := c.ovf0 || r.2 } else { c with ovf1 := c.ovf1 || r.2 }
    s.modCmd lk k.order fun x => { x with ksteps := x.ksteps + 1 }
  | _ => s

/-- k-steps of a command in all. -/
def State.mmaLength (s : State) (lk : Nat) (k : Cmd) : Nat :=
  match k.work with
  | .mma ta tb _ _ _ => kSteps (s.mmaSlots lk ta tb).1.k
  | _ => 0

/-! ## Arbitration of the array (R234) -/

def Work.prio (w : Work) : Nat := match w with | .mma _ _ _ p _ => p | _ => 0

/-- Effective priority. -/
def Cmd.effective (k : Cmd) : Nat := min 3 (k.work.prio + k.passed / 64)

/-- The mma that runs. -/
def State.running (s : State) (oct : Nat) : Option (Nat × Cmd) :=
  match (s.octave oct).array with
  | none => none
  | some (lk, n) => ((s.lc lk).matq.find? fun k => k.order = n).map fun k => (lk, k)

/-- Candidates: suspended commands and those that may start; not the running one. -/
def State.candidates (s : State) (oct : Nat) : List (Nat × Cmd) :=
  (s.octaveCmds oct).filter fun e =>
    e.2.work.isMma && (s.octave oct).array != some (e.1, e.2.order) && (e.2.started || s.able e.1 e.2)

/-- Octave weight of a context; 0 acts as 1 (R222). -/
def Context.octaveWeight (c : Context) : Nat := max 1 c.weight.toNat

/-- The winner among the candidates: highest effective priority; the core granted last while its run is below its context's weight,
else round robin; the older command of a core. -/
def State.winner (s : State) (oct : Nat) : Option (Nat × Cmd) :=
  let o := s.octave oct
  let cs := s.candidates oct
  let top := cs.foldl (fun m e => max m e.2.effective) 0
  let best := cs.filter fun e => e.2.effective = top
  let again (e : Nat × Cmd) : Bool :=
    s.coreIn e.1 + 1 == o.granted && decide (o.grantRun < (s.context (s.launch (launchOfLc e.1)).ctx).octaveWeight)
  leastBy (fun e => (if again e then 0 else turnOf (s.coreIn e.1) o.granted + 1, e.2.order)) best

/-- The winner starts or resumes; a start-time fault ends its launch instead. -/
def State.grant (s : State) (oct : Nat) (e : Nat × Cmd) : State :=
  let (lk, k) := e
  match (if k.started then none else s.mmaFault lk k) with
  | some code => (s.engineFault lk k code).settle
  | none =>
    let core := s.coreIn lk + 1
    let s := s.modOctave oct fun o =>
      { o with array := some (lk, k.order), granted := core, grantRun := if o.granted = core then o.grantRun + 1 else 1 }
    ((s.modCmd lk k.order fun x => { x with started := true }).prune lk).settle

def execMmaStart (s : State) : Outcome :=
  let oct := s.subject.unit
  match (if (s.octave oct).array.isNone then s.winner oct else none) with
  | some e => .next (s.grant oct e)
  | none => .next s

/-- A k-step that is not the last one ends; a candidate of higher effective priority overtakes. -/
def execMmaKstepBoundary (s : State) : Outcome :=
  let oct := s.subject.unit
  match s.running oct with
  | none => .next s
  | some (lk, k) =>
    s.enabled (decide (k.ksteps + 1 < s.mmaLength lk k)) fun s =>
      let s := s.mmaStep lk k
      match s.winner oct with
      | none => s
      | some e =>
        if k.effective < e.2.effective then (s.modOctave oct fun o => { o with array := none }).grant oct e else s

/-- The last k-step ends: the mma is complete, and every candidate counts it. -/
def execMmaCompletion (s : State) : Outcome :=
  let oct := s.subject.unit
  match s.running oct with
  | none => .next s
  | some (lk, k) =>
    s.enabled (decide (s.mmaLength lk k ≤ k.ksteps + 1)) fun s =>
      let waiting := s.candidates oct
      let s := s.mmaStep lk k
      let s := waiting.foldl (fun s e => s.modCmd e.1 e.2.order fun x => { x with passed := x.passed + 1 }) s
      (s.modOctave oct fun o => { o with array := none }).retireCmd lk k

end Sys2Proof.Machine
end

