-- ==== Sys2Proof/Machine/Streamers.lean ====
section
/-! DEFINITION. The streamers: requests, copies, strips and their completion (R243 to R252). The subject of each step names the logical
core of a request, or the streamer and the command's place among those that run. -/

namespace Sys2Proof.Machine

open Sys2Proof

/-! ## The streamer of a request (R243) -/

/-- The streamer queue of a command. -/
def Work.queue (w : Work) : Nat :=
  match w with
  | .cpy _ _ _ _ q _ => q
  | .cpyt _ _ _ _ q _ => q
  | .halo _ _ q _ _ _ _ => q
  | _ => 0

def Work.ordered (w : Work) : Bool :=
  match w with
  | .cpy _ _ _ _ _ o => o
  | .cpyt _ _ _ _ _ o => o
  | _ => false

/-- Physical address of the first byte of a range in HBM; none for a scratchpad, a tile, or host memory. -/
def hbmAt (pages : List PageMap) (va : Nat) : Option Nat :=
  match pages.find? fun p => decide (p.va ≤ va) && decide (va < p.va + p.len) with
  | some p => if p.host || !isHbm (p.pa + (va - p.va)) then none else some (p.pa + (va - p.va))
  | none => none

def Place.hbm (p : Place) : Option Nat := match p with | .mem va pages => hbmAt pages va | .tile _ _ => none

/-- Is a range in a peer window, or a tile? -/
def Place.onChip (p : Place) : Bool := match p with | .mem va _ => decide (0x400000000000 ≤ va) | .tile _ _ => true

/-- The streamer beside the slice of a core in its cluster. -/
def nearStreamer (pcore : Nat) : Nat := clusterOf pcore * 12 + (pcore % 256) / 16

/-- The physical core whose scratchpad an address of a copy of logical core `lk` lies in, through a window; any other source is the core's own. -/
def State.sourceCore (s : State) (lk va : Nat) : Nat :=
  (s.lc (if 0x400000000000 ≤ va then lcKey (launchOfLc lk) ((va - 0x400000000000) / 2 ^ 24) else lk)).pcore

/-- The virtual address at which a source lies in memory or in a window; 0 for a tile. -/
def Place.source (p : Place) : Nat := match p with | .mem va _ => va | .tile _ _ => 0

/-- The streamer that the sender of a logical core chooses: beside the home slice of the first source byte in memory, of the first
destination byte in memory for a scratchpad source, or near the source core. Host memory has no home slice, as source or as destination, and is
no memory in this sense (log 14, DEDUCED). A copy by table whose window has no position in range has no first source byte, and R243 names no
streamer for it: the model takes the streamer near the issuing core (log 14, DESIGN CHOICE). -/
def State.streamerOf (s : State) (lk : Nat) (w : Work) : Nat :=
  let beside (pa : Option Nat) (va : Nat) : Nat := match pa with | some pa => s.sliceOf pa | none => nearStreamer (s.sourceCore lk va)
  match w with
  | .cpy src dst _ _ _ _ => if src.onChip then beside dst.hbm src.source else beside src.hbm src.source
  | .cpyt l pages dst _ _ _ =>
    (match l.runs with
     | [] => nearStreamer (s.lc lk).pcore
     | r :: _ => if 0x400000000000 ≤ r.1 then beside dst.hbm r.1 else beside (hbmAt pages r.1) r.1)
  | _ => nearStreamer (s.lc lk).pcore

/-! ## Requests (R222, R243) -/

/-- A command for a text engine, and one for a tokeniser. -/
def Work.isText (w : Work) : Bool :=
  match w with
  | .tkn .. => true
  | .dtkn .. => true
  | _ => false
def Work.isTkn (w : Work) : Bool := match w with | .tkn .. => true | _ => false

/-- Do two commands of one logical core go to the same queue, of a streamer or of a text engine? -/
def State.sameQueue (s : State) (lk : Nat) (a b : Work) : Bool :=
  if a.isText || b.isText then a.isText && b.isText && a.isTkn == b.isTkn
  else s.streamerOf lk a == s.streamerOf lk b && a.queue == b.queue

/-- Is a command of the copy queue held by an earlier one: an unresolved guard, or a request to the same queue that is not yet
accepted (R227, R243)? -/
def State.requestHeld (s : State) (lk : Nat) (k : Cmd) : Bool :=
  ((s.lc lk).copyq.filter fun e => decide (e.order < k.order)).any fun e => e.guard == .pending || s.sameQueue lk e.work k.work

/-- A command of the copy queue that may be sent. -/
def State.sendable (s : State) (lk order : Nat) (text : Bool) : Option Cmd :=
  match (s.lc lk).copyq.find? fun k => k.order = order with
  | some k =>
    if (k.guard == .free || k.guard == .known true) && k.work.isText == text && !s.requestHeld lk k then some k else none
  | none => none

/-- A command leaves the copy queue, accepted. -/
def State.acceptCmd (s : State) (lk : Nat) (k : Cmd) : State :=
  (s.modLc lk fun c => { c with copyq := c.copyq.filter fun x => x.order ≠ k.order }).prune lk

/-- Queue q of a streamer, at most 32 entries. -/
def Streamer.queue (x : Streamer) (q : Nat) : List (Nat × Cmd) := x.queues.getD q []

/-- A request reaches its streamer queue; a full one refuses it, and it will be sent again. -/
def execCopyRequestSend (s : State) : Outcome :=
  let lk := s.subject.unit
  match s.sendable lk s.subject.item false with
  | none => .next s
  | some k =>
    let n := s.streamerOf lk k.work
    let q := k.work.queue
    let x := s.streamer n
    if 32 ≤ (x.queue q).length then .next s
    else
      let s := s.modStreamer n fun x => { x with queues := x.queues.set q (x.queue q ++ [(lk, k)]) }
      .next (s.acceptCmd lk k).settle

/-! ## Taking a command from the queues (R243, R244) -/

/-- May the head of a queue start: its ordered bit, its tiles (R231, R244)? -/
def State.headMay (s : State) (x : Streamer) (e : Nat × Cmd) : Bool :=
  let (lk, k) := e
  let w := k.work
  let free (p : Place) : Bool := match p with | .tile t _ => s.fillFree lk t k.order | .mem _ _ => true
  (!w.ordered || x.running.all fun r => !(r.1 == lk && r.2.work.queue == w.queue)) &&
    (match w with
     | .cpy src dst _ _ _ _ =>
       (match src with | .tile t _ => ((s.lc lk).tile t).isReady | .mem _ _ => true) && free dst
     | .cpyt _ _ dst _ _ _ => free dst
     | .halo ta _ _ _ _ _ _ => ((s.lc lk).tile ta).isReady
     | _ => false)

/-- The queue that is served next, in round robin, with its head. -/
def State.nextRequest (s : State) (n : Nat) : Option (Nat × (Nat × Cmd)) :=
  let x := s.streamer n
  if 8 ≤ x.running.length then none
  else
    ((List.range 4).map fun i => (x.last + i) % 4).findSome? fun q =>
      match (x.queue q).head? with
      | some e => if s.headMay x e then some (q, e) else none
      | none => none

/-- The streamer takes the command from its queue. -/
def State.takeRequest (s : State) (n q : Nat) (e : Nat × Cmd) : State :=
  s.modStreamer n fun x =>
    { x with queues := x.queues.set q ((x.queue q).drop 1), last := q + 1, running := x.running ++ [(e.1, { e.2 with started := true })] }

/-- A running command changes. -/
def State.modRunning (s : State) (n lk order : Nat) (h : Cmd → Cmd) : State :=
  s.modStreamer n fun x =>
    { x with running := x.running.map fun e => if e.1 = lk ∧ e.2.order = order then (e.1, h e.2) else e }

/-- A command has completed: it leaves the streamer, and its tiles are used by one command less. -/
def State.retireCopy (s : State) (n lk : Nat) (k : Cmd) : State :=
  let s := s.modStreamer n fun x => { x with running := x.running.filter fun e => !(e.1 == lk && e.2.order == k.order) }
  (s.unuse lk k.work).settle

/-- A start of a command of one kind. -/
def State.startCopy (s : State) (kind : Work → Bool) (go : State → Nat → Nat → Cmd → State) : Outcome :=
  let n := s.subject.unit
  match s.nextRequest n with
  | some (q, e) => s.enabled (kind e.2.work) fun s => (go (s.takeRequest n q e) n e.1 e.2).settle
  | none => .next s

/-! ## Bytes with their poison (R249, R250) -/

/-- A byte and whether its granule was poisoned. -/
abbrev Marked := List (Byte × Bool)

def marked (bs : List Byte) (bad : Bool) : Marked := bs.map fun b => (b, bad)

/-- Bytes of a page map from an offset, granule by granule. -/
def State.readPage (s : State) (host : Bool) (pa n : Nat) : Marked :=
  (pieces pa n).flatMap fun g =>
    let bad := !host && s.poisoned g.1
    if !host && isDeviceReg g.1 then marked (s.regBytes g.1 g.2) false
    else if !host && isWindowPA g.1 then marked (s.physWindow g.1 g.2) bad
    else marked (s.readHome host g.1 g.2) bad

/-- Bytes of a range from one page after another: each address is read through the first page of the command that holds it. -/
def State.readThrough (s : State) (pages : List PageMap) : Nat → Nat → Nat → Marked
  | 0, _, _ => []
  | f + 1, va, n =>
    match pages.find? fun p => decide (p.va ≤ va) && decide (va < p.va + p.len) with
    | none => []
    | some p =>
      let k := min n (p.va + p.len - va)
      s.readPage p.host (p.pa + (va - p.va)) k ++ (if n = k then [] else s.readThrough pages f (va + k) (n - k))

/-- Bytes of a range through the pages that its command holds. -/
def State.readPages (s : State) (pages : List PageMap) (va n : Nat) : Marked :=
  if n = 0 then [] else s.readThrough pages (pages.length + 1) va n

/-- The source bytes of a copy. -/
def State.readPlace (s : State) (lk : Nat) (p : Place) (n : Nat) : Marked :=
  match p with
  | .mem va pages => s.readPages pages va n
  | .tile t off => s.readPage false ((s.lc lk).tilePA t off) n

/-- Lines of HBM that a copy reads become resident. -/
def State.fillPages (s : State) (pages : List PageMap) : State :=
  pages.foldl (fun s p => if p.host then s else s.fillRange p.pa p.len) s

/-- Bytes written within one granule; a byte read poisoned poisons the granule, and so does a granule that keeps its poison. The
answer says whether poison was met. -/
def State.writeMarked (s : State) (who : Option Nat) (host : Bool) (pa : Nat) (bs : Marked) : Bool × State :=
  let bad := bs.any fun e => e.2
  let data := bs.map fun e => e.1
  if !host && isDeviceReg pa then (bad, s.sendRegister pa data)
  else
    let lost := !host && s.poisoned pa && decide (data.length < 64)
    let s := s.writeGranule who host pa data
    (bad || lost, if bad && !host then s.setPoison pa else s)

/-- Bytes written from a physical address on. -/
def State.writeRun (s : State) (who : Option Nat) (host : Bool) (pa : Nat) (bs : Marked) : Bool × State :=
  (pieces pa bs.length).foldl
    (fun (r : Bool × State) g =>
      let (b, t) := r.2.writeMarked who host g.1 ((bs.drop (g.1 - pa)).take g.2)
      (r.1 || b, t)) (false, s)

/-- Bytes written through the pages of a command. -/
def State.writePages (s : State) (who : Option Nat) (pages : List PageMap) (va : Nat) (bs : Marked) : Bool × State :=
  pages.foldl
    (fun (r : Bool × State) p =>
      let lo := max va p.va
      let hi := min (va + bs.length) (p.va + p.len)
      if lo < hi then
        let (b, t) := r.2.writeRun who p.host (p.pa + (lo - p.va)) ((bs.drop (lo - va)).take (hi - lo))
        (r.1 || b, t)
      else r) (false, s)

/-- Bytes written within one granule of a slot: a write of part of a poisoned granule loses them, and one of the whole granule clears its
poison unless it brings poison (R163, R249, R250). The answer says whether bytes were lost. -/
def OpSlot.writePart (x : OpSlot) (off : Nat) (bs : Marked) : Bool × OpSlot :=
  let g := off / 64
  if x.poison.contains g && decide (bs.length < 64) then (true, x)
  else
    let kept := x.poison.filter fun h => h != g
    (false, { x.write off (bs.map fun e => e.1) with poison := if bs.any fun e => e.2 then g :: kept else kept })

/-- Bytes written into a slot, granule by granule; the granules whose bytes were lost are counted. -/
def OpSlot.writeMarked (x : OpSlot) (off : Nat) (bs : Marked) : Nat × OpSlot :=
  (pieces off bs.length).foldl
    (fun (r : Nat × OpSlot) g =>
      let (lost, y) := r.2.writePart g.1 ((bs.drop (g.1 - off)).take g.2)
      (if lost then r.1 + 1 else r.1, y)) (0, x)

/-- Bytes written into slot `n` of an octave. A granule that loses bytes posts the event of the context (R250, R344). The answer says whether
poison was met. -/
def State.writeSlot (s : State) (who : Option Nat) (oct n off : Nat) (bs : Marked) : Bool × State :=
  let (lost, x) := (Tbl.get .unclaimed (s.octave oct).slots n).writeMarked off bs
  let s := s.setSlot oct n fun _ => x
  (bs.any (fun e => e.2) || lost != 0, (List.range lost).foldl (fun s _ => s.memError 2 who slotPA) s)

/-- Bytes written to the destination of a command, from an offset within it; a slot tile enters its slot, and a tile that was cleared since
the issue takes nothing (log 15, DESIGN CHOICE). -/
def State.writePlace (s : State) (lk : Nat) (p : Place) (off : Nat) (bs : Marked) : Bool × State :=
  let who := some (s.launch (launchOfLc lk)).ctx
  match p with
  | .mem va pages => s.writePages who pages (va + off) bs
  | .tile t o =>
    let c := s.lc lk
    let x := c.tile t
    if !x.isDefined then (bs.any fun e => e.2, s)
    else if x.isSlot then s.writeSlot who (octaveOf c.pcore) x.base (o + off) bs
    else s.writeRun who false (c.tilePA t (o + off)) bs

/-! ## Starting and completing (R246) -/

/-- The destination tile of a copy starts to fill; a slot takes format, K and scaled bit as tset recorded them (R229). -/
def State.startDest (s : State) (lk : Nat) (p : Place) : State :=
  match p with
  | .mem _ _ => s
  | .tile t _ =>
    let c := s.lc lk
    let x := c.tile t
    let s := if x.isSlot && x.k != 0 then
        s.setSlot (octaveOf c.pcore) x.base fun y => { y with fmt := some x.fmt, k := x.k, scaled := x.scaled }
      else s
    s.modTile lk t Tile.startFill

/-- Poison that a copy met: its destination tile is marked, and the command remembers it for its counter. -/
def State.notePoison (s : State) (n lk : Nat) (k : Cmd) (p : Place) (bad : Bool) : State :=
  if bad then
    let s := match p with | .tile t _ => s.modTile lk t fun x => { x with poison := true } | .mem _ _ => s
    s.modRunning n lk k.order fun x => { x with poison := true }
  else s

def Work.isCpy (w : Work) : Bool := match w with | .cpy _ _ _ _ _ _ => true | _ => false
def Work.isCpyt (w : Work) : Bool := match w with | .cpyt _ _ _ _ _ _ => true | _ => false
def Work.isHalo (w : Work) : Bool := match w with | .halo _ _ _ _ _ _ _ => true | _ => false

/-- The tile of a place. -/
def Place.tileOf (p : Place) : Option Nat := match p with | .tile t _ => some t | .mem _ _ => none

/-- A cpy starts: the source tile drains, the destination tile fills, the bytes move. A source tile's poison bit alone, without a poisoned granule, is
no fault and goes no further, for R249 and R344 have copies raise none where R223 names any poisoned source tile (log 14, DEDUCED). A tile that is both drains, and fills when it is
empty again, at the completion (R276; log 15, DESIGN CHOICE). -/
def State.cpyStart (s : State) (n lk : Nat) (k : Cmd) : State :=
  match k.work with
  | .cpy src dst len _ _ _ =>
    let s := match src.tileOf with | some t => s.modTile lk t fun x => { x with state := 3 } | none => s
    let s := (if src.tileOf.isSome && src.tileOf == dst.tileOf then s else s.startDest lk dst).fillPages src.pages
    let (bad, s) := s.writePlace lk dst 0 (s.readPlace lk src len)
    s.notePoison n lk k dst bad
  | _ => s

def execCopyStart (s : State) : Outcome := s.startCopy Work.isCpy State.cpyStart

/-! ## cpyt (R247) -/

/-- The pattern of the element at a bit address, with its poison. -/
def State.elementAt (s : State) (pages : List PageMap) (w : Nat) (at_ : Option Nat) (fill : BitVec 32) : Nat × Bool :=
  match at_ with
  | none => (fill.toNat % 2 ^ w, false)
  | some b =>
    let bs := s.readPages pages (b / 8) ((b % 8 + w + 7) / 8)
    (leNat (bs.map fun e => e.1) / 2 ^ (b % 8) % 2 ^ w, bs.any fun e => e.2)

/-- A destination row as bytes; a byte is poisoned with an element that it holds. -/
def rowMarked (w : Nat) (xs : List (Nat × Bool)) : Marked :=
  let n := (xs.length * w + 7) / 8
  let bs := leBytes n (pack w (xs.map fun e => e.1))
  let badBits := xs.flatMap fun e => List.replicate w e.2
  bs.zipIdx.map fun e => (e.1, ((badBits.drop (8 * e.2)).take 8).any fun b => b)

/-- The rows of a window, each with its number. -/
def State.windowRows (s : State) (l : Layout) (pages : List PageMap) : List (Nat × Marked) :=
  l.rowList.map fun i =>
    (l.rowNumber i, rowMarked l.bitsOf ((l.rowElems i.1 i.2.1 i.2.2).map fun a => s.elementAt pages l.bitsOf a l.fill))

/-- The scale bytes of each row; 127 for a row that is out of range. With transpose set, where p1 runs along a destination row, row u takes the scale
row org1 + u all the same (log 14, DESIGN CHOICE: R247 numbers the scale rows by p1 and does not speak of transpose). -/
def State.windowScales (s : State) (l : Layout) (pages : List PageMap) : List (Nat × Marked) :=
  if l.scales = 0 then []
  else
    l.rowList.map fun i =>
      let p1 := l.orgAt 1 + i.1
      (l.rowNumber i,
       if l.inside 1 p1 then s.readPages pages (l.scaleAt p1.toNat 0).toNat l.blocks
       else marked (List.replicate l.blocks 127) false)

/-- The bytes of a row between two steps of the bank interleave, which moves runs of 64. -/
def rowPieces (l : Layout) (row : Nat) (bs : Marked) : List (Nat × Marked) :=
  (pieces 0 bs.length).map fun g => (l.destAt row g.1, (bs.drop g.1).take g.2)

/-- Scale bytes written into the scale store of the destination slot. -/
def State.writeScales (s : State) (lk : Nat) (p : Place) (scales : List (Nat × Marked)) : Bool × State :=
  match p with
  | .mem _ _ => (false, s)
  | .tile t _ =>
    let c := s.lc lk
    let who := some (s.launch (launchOfLc lk)).ctx
    scales.foldl
      (fun (q : Bool × State) r =>
        let (b, u) := q.2.writeSlot who (octaveOf c.pcore) (c.tile t).base (8192 + 8 * r.1) r.2
        (q.1 || b, u)) (false, s)

/-- A cpyt starts. -/
def State.cpytStart (s : State) (n lk : Nat) (k : Cmd) : State :=
  match k.work with
  | .cpyt l pages dst _ _ _ =>
    let rows := s.windowRows l pages
    let scales := s.windowScales l pages
    let s := (s.startDest lk dst).fillPages pages
    let (bad, s) := (rows.flatMap fun r => rowPieces l r.1 r.2).foldl
      (fun (r : Bool × State) e => let (b, t) := r.2.writePlace lk dst e.1 e.2; (r.1 || b, t)) (false, s)
    let (worse, s) := s.writeScales lk dst scales
    s.notePoison n lk k dst (bad || worse)
  | _ => s

def execCpytStart (s : State) : Outcome := s.startCopy Work.isCpyt State.cpytStart

/-- The completion writes of a copy: the destination tile's arrivals, the source tile, then the counter, as releases. -/
def State.copyDone (s : State) (n lk : Nat) (k : Cmd) (dst : Place) (len : Nat) (src : Option Nat) (ctr : Option PageMap) : State :=
  let s := match src with
    | some t => s.modTile lk t fun x => if x.isDefined then { x with state := 0, arrived := 0, poison := false } else x
    | none => s
  let s := match dst.tileOf with
    | some t => if src = some t then s.modTile lk t fun x => { x.startFill with poison := k.poison } else s
    | none => s
  if (match dst.tileOf with | some t => ((s.lc lk).tile t).beyond len | none => false) then
    (s.engineFault lk k 0x0C).retireCopy n lk k
  else
    let s := match dst.tileOf with | some t => s.modTile lk t fun x => x.arrive len | none => s
    let s := if dst.onHost then s.cleanAll else s
    let s := match ctr with
      | some c =>
        let s := s.raiseCounter (some (s.launch (launchOfLc lk)).ctx) c.pa k.poison
        if dst.onHost then s.l2Clean (c.pa / 64) else s
      | none => s
    s.retireCopy n lk k

/-- The command that a completion names. -/
def State.runningAt (s : State) : Option (Nat × Cmd) := (s.streamer s.subject.unit).running[s.subject.item]?

def execCopyCompletion (s : State) : Outcome :=
  let n := s.subject.unit
  match s.runningAt with
  | none => .next s
  | some (lk, k) =>
    match k.work with
    | .cpy src dst len ctr _ _ =>
      .next (s.copyDone n lk k dst len src.tileOf ctr)
    | .cpyt l _ dst ctr _ _ => .next (s.copyDone n lk k dst l.dataBytes none ctr)
    | _ => .next s

/-! ## halo (R248) -/

/-- The rows and columns of the strip that goes to a side of its receiver, in the sender's tile: row, column, rows, columns; and the
row and column where the receiver writes it. -/
def stripShape (side h nr nc : Nat) : (Nat × Nat × Nat × Nat) × (Nat × Nat) :=
  if side = 1 then ((h, h, h, nc), (nr + h, h))
  else if side = 0 then ((nr, h, h, nc), (0, h))
  else if side = 3 then ((h, h, nr, h), (h, nc + h))
  else ((h, nc, nr, h), (h, 0))

/-- A strip read from the sender's tile. -/
def State.strip (s : State) (lk ta h nr nc : Nat) (r : Nat × Nat) : Strip :=
  let c := s.lc lk
  let e := packedBits (c.tile ta).fmt / 8
  let pitch := nc + 2 * h
  let (src, dst) := stripShape r.2 h nr nc
  { lc := r.1, side := r.2, elem := e, pitch := pitch, row := dst.1, col := dst.2, rows := src.2.2.1, cols := src.2.2.2,
    data := (List.range src.2.2.1).flatMap fun i =>
      s.readPage false (c.tilePA ta (((src.1 + i) * pitch + src.2.1) * e)) (src.2.2.2 * e) }

/-- A halo starts: the strips for the neighbours of its issue are taken from the tile, which keeps its state; without a neighbour it is
complete (R36, R248). -/
def State.haloStart (s : State) (n lk : Nat) (k : Cmd) : State :=
  match k.work with
  | .halo ta near _ _ h nr nc =>
    let strips := near.map (s.strip lk ta h nr nc)
    if strips.isEmpty then s.retireCopy n lk k else s.modRunning n lk k.order fun x => { x with strips := strips }
  | _ => s

def execHaloStart (s : State) : Outcome := s.startCopy Work.isHalo State.haloStart

/-- Writes a strip into its receiver's tile. -/
def State.writeStrip (s : State) (ta : Nat) (who : Option Nat) (x : Strip) : Bool × State :=
  (List.range x.rows).foldl
    (fun (r : Bool × State) i =>
      let c := r.2.lc x.lc
      let (b, t) := r.2.writeRun who false (c.tilePA ta (((x.row + i) * x.pitch + x.col) * x.elem))
        ((x.data.drop (i * x.cols * x.elem)).take (x.cols * x.elem))
      (r.1 || b, t)) (false, s)

/-- A strip arrives: the bytes, then the receiver's counter; with the last one the command is complete. -/
def State.deliverStrip (s : State) (n lk : Nat) (k : Cmd) (x : Strip) : State :=
  match k.work with
  | .halo ta _ _ base h nr _ =>
    let y := (s.lc x.lc).tile ta
    if y.kind ≠ 1 || decide (y.size < (nr + 2 * h) * x.pitch * x.elem) then (s.engineFault lk k 0x0C).retireCopy n lk k
    else
      let who := some (s.launch (launchOfLc x.lc)).ctx
      let (bad, s) := s.writeStrip ta who x
      let s := s.increment who ((s.lc x.lc).counterPA (base + x.side)) bad
      let left := k.strips.filter fun z => z.side ≠ x.side
      if left.isEmpty then s.retireCopy n lk k else (s.modRunning n lk k.order fun z => { z with strips := left }).settle
  | _ => s

/-- The subject's value is the side of the strip. -/
def execHaloStripDelivery (s : State) : Outcome :=
  let n := s.subject.unit
  match s.runningAt with
  | none => .next s
  | some (lk, k) =>
    match k.strips.find? fun x => x.side = s.subject.value.toNat with
    | some x => .next (s.deliverStrip n lk k x)
    | none => .next s

end Sys2Proof.Machine
end

