-- ==== Sys2Proof/Machine/Traffic.lean ====
section
/-! DEFINITION. What the routers deliver: puts, messages and their outcomes, pips, markers, channel entries, space updates and combine
packets (R169, R187, R195, R257, R263, R264, R267 to R272). The subject of each step names the item. -/

namespace Sys2Proof.Machine

open Sys2Proof

/-- Entry `i` of a list and the list without it, if no earlier entry has its key. -/
def takeFirst {α : Type} (key : α → Nat × Nat) (l : List α) (i : Nat) : Option (α × List α) :=
  match l[i]? with
  | none => none
  | some x => if (l.take i).any fun y => key y == key x then none else some (x, l.eraseIdx i)

/-! ## Puts (R169) -/

/-- Does a put lie on a page of strong order, with its data or its counter? -/
def PendingPut.strong (p : PendingPut) : Bool := p.parts.any (fun g => g.sc) || (match p.ctr with | some (_, sc) => sc | none => false)

/-- Do the data of a put meet bytes at an address? -/
def PendingPut.meets (p : PendingPut) (host : Bool) (pa n : Nat) : Bool :=
  p.parts.any fun g => g.host == host && decide (g.pa < pa + n) && decide (pa < g.pa + g.data.length)

/-- Do two puts of one firing keep their order: they write a common byte, or both lie on pages of strong order (R187, R195)? Two increments
of one counter have none (R169). -/
def PendingPut.ordered (a b : PendingPut) : Bool :=
  let counts (x y : PendingPut) : Bool := match x.ctr with | some (c, _) => y.meets false c 8 | none => false
  a.fk == b.fk && ((a.strong && b.strong) || b.parts.any (fun g => a.meets g.host g.pa g.data.length) || counts a b || counts b a)

/-- Must an earlier put of its firing be performed before a put: one that nothing allows it to overtake, or one whose data its increment
covers (R169, R190)? -/
def PendingPut.before (q p : PendingPut) (counts : Bool) : Bool := q.ordered p || (counts && p.ctr.isSome && q.fk == p.fk && !q.parts.isEmpty)

/-- A put is performed, data and then increment, after the earlier puts of its firing up to the last that comes before it. With the subject's
`yes` its data alone are written, and its increment is still to come. -/
def execPutPerform (s : State) : Outcome :=
  let i := s.subject.unit
  match s.net.puts[i]? with
  | none => .next s
  | some p =>
    let earlier := s.net.puts.take i
    let rest := s.net.puts.drop (i + 1)
    let e := splitPuts p.fk (upToLast p.fk (fun q => q.before p !s.subject.yes) earlier) earlier
    let left := if s.subject.yes then p.written.toList else []
    let t := ({ s with net := { s.net with puts := e.2 ++ left ++ rest } } : State).performAll e.1
    .next (if s.subject.yes then t.writePut p else (t.writePut p).raisePut p).settle

/-! ## The outbound buffer (R257) -/

/-- Where an item is bound for: a logical core, a cluster, or another device. Pips and messages for one logical core have one target, and so
keep their order among themselves (log 16, DESIGN CHOICE: R257 does not say whether they are of one target or of two). -/
def Out.goal (o : Out) : Nat × Nat :=
  match o with
  | .pip _ (some k) _ => (0, k)
  | .pip _ none cl => (1, cl)
  | .msg m => (0, lcKey m.launch m.target)
  | .far _ d => (2, d.toNat)

/-- An item that may be delivered: the first to its target, its outcome open. -/
def LCore.deliverable (c : LCore) (num : Nat) (full : Bool) : Option OutItem :=
  match c.outbound.find? fun o => o.num = num with
  | none => none
  | some o =>
    if o.decided || o.full != full || c.outbound.any fun x => decide (x.num < num) && !x.decided && x.what.goal == o.what.goal then none
    else some o

/-- Marks whether an item found its target full. -/
def State.setFull (s : State) (lk num : Nat) (b : Bool) : State :=
  s.modLc lk fun c => { c with outbound := c.outbound.map fun o => if o.num = num then { o with full := b } else o }

/-- A message is decided at its target (R263); one of a deterministic launch that finds no room is resent. -/
def execMessageArrival (s : State) : Outcome :=
  let lk := s.subject.unit
  match (s.lc lk).deliverable s.subject.item false with
  | some { num := num, what := .msg m, .. } =>
    match s.arrive m with
    | (some code, t) => .next (t.decideItem lk num m code).settle
    | (none, t) => .next (t.setFull lk num true)
  | _ => .next s

/-- The store of a send-status word; its item leaves the buffer. It is made at the word's home by no hart of the sender: a line of the sender's
L1 keeps the old word until it is dropped (log 3, DESIGN CHOICE: R264 says neither who stores nor what the L1 does). -/
def execSendStatusWrite (s : State) : Outcome :=
  let i := s.subject.unit
  match s.net.status[i]? with
  | none => .next s
  | some w =>
    let t : State := { s with net := { s.net with status := s.net.status.eraseIdx i } }
    let t := t.writePlain (some w.ctx) w.host w.pa (leBytes 8 w.value.toNat)
    .next ((t.dropItem w.lc w.num).settle)

/-- An item that found its target full is sent again. -/
def execOutboundResend (s : State) : Outcome :=
  let lk := s.subject.unit
  match (s.lc lk).deliverable s.subject.item true with
  | some o => .next (({ s with polled := true } : State).setFull lk o.num false)
  | none => .next s

/-- A pip reaches the pinned pips of its logical core, which wakes it, or a cluster task queue. -/
def execPipAccept (s : State) : Outcome :=
  let lk := s.subject.unit
  match (s.lc lk).deliverable s.subject.item false with
  | some { num := num, what := .pip q (some k) _, .. } =>
    if 64 ≤ ((s.lc k).pinned.filter fun p => !p.isYielded).length then .next (s.setFull lk num true)
    else
      let t := s.modLc k fun c => { c with pinned := c.pinned ++ [q], wake := true }
      .next ((t.dropItem lk num).settle)
  | some { num := num, what := .pip q none cl, .. } =>
    if 4096 ≤ (s.taskQueue cl).length then .next (s.setFull lk num true)
    else .next (((s.setTaskQueue cl (s.taskQueue cl ++ [q])).dropItem lk num).settle)
  | _ => .next s

/-! ## Markers (R270) -/

/-- A marker counts once for its sender and epoch; a window whose markers are in closes (R269). -/
def execWcloseMarkerArrival (s : State) : Outcome :=
  let i := s.subject.unit
  match s.net.markers[i]? with
  | none => .next s
  | some (lk, sender, epoch) =>
    let t : State := { s with net := { s.net with markers := s.net.markers.eraseIdx i } }
    if !t.hasCore lk then .next t
    else
    let t := t.modLc lk fun c => { c with markers := if c.markers.contains (sender, epoch) then c.markers else c.markers ++ [(sender, epoch)] }
    .next ((t.closeAll lk).unpark lk 24).settle

/-! ## Channels (R267, R268) -/

/-- The entries of a channel arrive in their order. -/
def execChannelEntryArrival (s : State) : Outcome :=
  match takeFirst (fun (e : ChanEntry) => (e.lc, e.inEnd)) s.net.entries s.subject.unit with
  | none => .next s
  | some (e, rest) =>
    .next (({ s with net := { s.net with entries := rest } } : State).enterRing e)

/-- A space update sets the producer's space count; those of one end arrive in the order in which they were sent (log 16, DESIGN CHOICE: R14
promises no order of two packets, and R266 and R267 are silent on it). -/
def execSpaceUpdateArrival (s : State) : Outcome :=
  match takeFirst (fun (e : Nat × Nat × Nat) => (e.1, e.2.1)) s.net.spaces s.subject.unit with
  | none => .next s
  | some ((lk, n, count), rest) =>
    let t : State := { s with net := { s.net with spaces := rest } }
    match Tbl.find (t.lc lk).ends n with
    | none => .next t
    | some x =>
      let t := t.modLc lk fun c => { c with ends := Tbl.set c.ends n { x with freed := count } }
      .next (t.setMirror lk (480 + n) count).settle

/-! ## Combining (R271, R272) -/

/-- Does a value win over another: not NaN first, then the greater, the lower index, the lower pattern? -/
def maxiWins (a b : Word) : Bool :=
  let x := Fmt.f32.value (fld a 63 32)
  let y := Fmt.f32.value (fld b 63 32)
  let tie := decide (fld a 31 0 < fld b 31 0) || (fld a 31 0 == fld b 31 0 && decide (a.toNat ≤ b.toNat))
  if x.isNan then y.isNan && tie
  else if y.isNan then true
  else if y.lt x then true
  else if x.lt y then false
  else tie

/-- Two values combined. -/
def combineValues (isMax : Bool) (a b : Word) : Word := if isMax then (if maxiWins a b then a else b) else a + b

/-- The key of a packet: the context with its launch, root, counter index, operation and group. -/
def Combine.sameKey (p q : Combine) : Bool :=
  p.launch == q.launch && p.root == q.root && p.x == q.x && p.isMax == q.isMax && p.group == q.group

/-- Two packets of one key merged; the expected count is that of the first. -/
def Combine.merge (p q : Combine) : Combine :=
  { p with value := combineValues p.isMax p.value q.value, count := p.count + q.count, far := p.far || q.far, entry := true,
           moved := p.moved || q.moved }

/-- Two combine packets, or two barrier arrivals, of one key and one destination merged in a port unit (R355). -/
def mergeFlits (f g : Flit) : Option Flit :=
  match f.packet, g.packet with
  | .combine t r x m gr n v c, .combine t' r' x' m' gr' _ v' c' =>
    if f.dst == g.dst && t == t' && r == r' && x == x' && m == m' && gr == gr' then
      some { f with packet := .combine t r x m gr n (combineValues m v v') (c + c') }
    else none
  | .barrierArrival t tm l, .barrierArrival t' tm' l' =>
    if f.dst == g.dst && t == t' && tm == tm' then some { f with packet := .barrierArrival t tm (l ++ l') } else none
  | _, _ => none

/-- Two packets of one key meet in a router of this device, or in a port unit when the subject says so: the earlier one has a combining entry
there, into which the later one merges (R271, R355). Which packets meet is the agenda's (log 20, DESIGN CHOICE). -/
def execCombineRouterMerge (s : State) : Outcome :=
  let i := s.subject.unit
  let j := s.subject.item
  if s.subject.yes then
    match s.net.flits[i]?, s.net.flits[j]? with
    | some f, some g =>
      match (if i < j && f.port == g.port && f.entry then mergeFlits f.flit g.flit else none) with
      | some h => .next { s with net := { s.net with flits := (s.net.flits.set i { port := f.port, flit := h, entry := true }).eraseIdx j } }
      | none => .next s
    | _, _ => .next s
  else
    match s.net.combs[i]?, s.net.combs[j]? with
    | some p, some q =>
      s.enabled (decide (i < j) && p.router == q.router && p.entry && p.sameKey q) fun s =>
        { s with net := { s.net with combs := (s.net.combs.set i (p.merge q)).eraseIdx j } }
    | _, _ => .next s

/-- The root's entry has reached its count: the value is written to counter x and counter x + 1 rises. -/
def State.finishCombine (s : State) (lk : Nat) (e : Combine) : State :=
  let c := s.lc lk
  let who := some (s.launch e.launch).ctx
  let s := (s.writePhys who false (c.counterPA e.x) (leBytes 8 e.value.toNat)).settle
  let s := if e.far then s.cleanAll else s
  s.increment who (c.counterPA (e.x + 1)) false

/-- A packet that has come to the router of its root reaches it and merges into the entry of its key; the first makes one of sixteen, and
one that finds them full waits in the router. -/
def execCombineRootArrival (s : State) : Outcome :=
  let i := s.subject.unit
  match s.net.combs[i]? with
  | none => .next s
  | some p =>
    let lk := lcKey p.launch p.root
    let table := (s.lc lk).combs
    let t : State := { s with net := { s.net with combs := s.net.combs.eraseIdx i } }
    let rest := table.filter fun e => !e.sameKey p
    let put (e : Combine) : Outcome :=
      if e.n ≤ e.count then .next ((t.modLc lk fun c => { c with combs := rest }).finishCombine lk e).settle
      else .next (t.modLc lk fun c => { c with combs := rest ++ [e] })
    let near (o : Outcome) : Outcome := if p.router = s.rootRouter p then o else .next s
    match table.find? fun e => e.sameKey p with
    | some e => near (put (e.merge p))
    | none => near (if 16 ≤ table.length then .next s else put p)

end Sys2Proof.Machine
end

