-- ==== Sys2Proof/Machine/LaunchUnit.lean ====
section
/-! DEFINITION. The launch unit: records, arbitration, launch start, completion and rejection (R34, R38 to R42, R84 to R86, R253 to R256,
R283 to R285, R315), the page-fault queue (R338) and the driver's writes to the queues, event vectors and run control. -/

namespace Sys2Proof.Machine

open Sys2Proof

def Rec.prio (r : Rec) : Nat := r.attrs % 4
def Rec.det (r : Rec) : Bool := bit r.attrs 2
def Rec.replay (r : Rec) : Bool := bit r.attrs 3

/-- Limits of the record itself. -/
def Rec.broken (r : Rec) : Bool :=
  r.bad || r.header % 128 != 0 || r.param % 8 != 0 || r.compl % 8 != 0 || r.remap % 64 != 0 || r.gridX == 0 || r.gridY == 0 ||
  decide (65536 < r.gridX) || decide (65536 < r.gridY) || decide (65536 < r.gridX * r.gridY) || (r.replay && !r.det)

/-! ## The kernel header (R84) -/

structure Header where
  flags   : Nat
  code    : Nat
  len     : Nat
  entry   : Nat
  scratch : Nat
  bound   : Nat
  table   : Nat
  patches : Nat
  count   : Nat
  /-- A limit that the header alone breaks, or an entry pip with a code VA of more than 48 bits (R21). -/
  bad     : Bool
deriving DecidableEq, Repr

def Header.ofBytes (b : List Byte) : Header :=
  let flags := recNat b 6 2
  let code := recNat b 8 8
  let len := recNat b 16 4
  let entry := recNat b 20 4
  let bound := recNat b 28 4
  let table := recNat b 32 8
  let patches := recNat b 40 8
  let count := recNat b 48 1
  { flags := flags, code := code, len := len, entry := entry, scratch := recNat b 24 4, bound := bound, table := table,
    patches := patches, count := count,
    bad := recNat b 0 4 != 0x3953574B || recNat b 4 2 != 1 || decide (7 < flags) || code % 64 != 0 || decide (2 ^ 48 ≤ code) ||
      len % 2 != 0 || decide (len < 4) || decide (33554432 < len) || entry % 2 != 0 || decide (len < entry + 4) ||
      decide (2 ^ 48 ≤ code + entry) ||
      bound == 0 || decide (1048576 < bound) || table % 64 != 0 || patches % 8 != 0 || decide (64 < count) ||
      recNat b 49 79 != 0 }

def Header.regions (h : Header) : Bool := bit h.flags 0
def Header.matrix (h : Header) : Bool := bit h.flags 1
def Header.detSafe (h : Header) : Bool := bit h.flags 2

/-- A patch entry (R85): site, field, width of the value, offset in the parameter block. -/
structure PatchEntry where
  site  : Nat
  field : Nat
  width : Nat
  off   : Nat
  bad   : Bool
deriving DecidableEq, Repr

def PatchEntry.ofWord (w : Word) (codeLen : Nat) : PatchEntry :=
  let width := 2 ^ fld w 35 34
  let off := fld w 31 0
  let site := fld w 63 40
  { site := site, field := fld w 39 36, width := width, off := off,
    bad := decide (3 < fld w 39 36) || fld w 33 32 != 0 || off % width != 0 || decide (codeLen < 2 * site + 4) }

/-- The words of a list of bytes. -/
def wordsOf : Nat → List Byte → List Word
  | 0, _ => []
  | n + 1, b => leWord (b.take 8) :: wordsOf n (b.drop 8)

/-! ## The remap table (R34, R228, R285) -/

/-- A placement: physical core, hosting exponent, share index. -/
def placeOf (e : Nat) : Nat × Nat × Nat := (bits e 11 0, bits e 17 16, bits e 14 12)

def remapEntryBad (e : Nat) : Bool := decide (2 ^ 18 ≤ e) || bit e 15

/-- The 32-bit entries of a table. -/
def quartersOf : Nat → List Byte → List Nat
  | 0, _ => []
  | n + 1, b => leNat (b.take 4) :: quartersOf n (b.drop 4)

/-- Two entries of one core agree on hosting and share no index. -/
def placesClash : List (Nat × Nat × Nat) → Bool
  | [] => false
  | p :: r => (r.any fun q => q.1 == p.1 && (q.2.1 != p.2.1 || q.2.2 == p.2.2)) || placesClash r

/-- Does some entry's hosting field say that its physical core hosts more than one logical core (R228, R285; log 17, DEDUCED)? -/
def placesShare (ps : List (Nat × Nat × Nat)) : Bool := ps.any fun p => p.2.1 != 0

def State.remapBad (s : State) (h : Header) (es : List Nat) : Bool :=
  let ps := es.map placeOf
  es.any remapEntryBad || placesClash ps || (h.matrix && placesShare ps) ||
    ps.any fun p =>
      decide (191 < p.1 % 256) || s.pkg.absent.contains p.1 || decide (2 ^ p.2.1 ≤ p.2.2) ||
      decide (131072 / 2 ^ p.2.1 < h.scratch) || s.lcores.any fun e => e.2.pcore == p.1

/-! ## The handler and actor table (R283, R284) -/

/-- What a table declares. -/
structure Table where
  handlers : List (Nat × Option Nat × Word)
  /-- End number, in or out, capacity exponent, peer end, peer delta, ring offset. -/
  ends     : List (Nat × Bool × Nat × Nat × Int × Nat)
  actors   : List (Nat × Actor)
deriving DecidableEq, Repr

def Table.none : Table := { handlers := [], ends := [], actors := [] }

def handlerOf (b : List Byte) : (Nat × Option Nat × Word) × Bool :=
  let x := recNat b 1 1
  ((recNat b 0 1, if bit x 4 then some (x % 16 + 1) else none, recWord b 8), decide (32 ≤ x) || recNat b 2 6 != 0)

def endOf (b : List Byte) : (Nat × Bool × Nat × Nat × Int × Nat) × Bool :=
  let dir := recNat b 1 1
  let ring := recNat b 8 4
  ((recNat b 0 1, dir == 1, recNat b 2 1, recNat b 3 1, toInt 16 (recNat b 4 2), ring),
   decide (15 < recNat b 0 1) || (dir != 1 && dir != 2) || decide (8 < recNat b 2 1) || decide (15 < recNat b 3 1) ||
     ring % 64 != 0 || (dir == 2 && ring != 0) || recNat b 6 2 != 0 || recNat b 12 4 != 0)

/-- A spec (out, end, rate) and whether it is ill-formed. Bits [6:4] of its byte 0, which R283 neither names nor marks as reserved, are taken as
reserved (log 17, DESIGN CHOICE). -/
def specOf (b : List Byte) : (Bool × Nat × Nat) × Bool :=
  let x := recNat b 0 1
  ((bit x 7, x % 16, recNat b 1 1), x / 16 % 8 != 0 || recNat b 1 1 == 0)

def actorOf (b : List Byte) : (Nat × Actor) × Bool :=
  let n := recNat b 1 1
  let specs := (List.range n).map fun i => specOf ((b.drop (16 + 2 * i)).take 2)
  ((recNat b 0 1, { code := recWord b 8, specs := specs.map fun x => x.1, ready := false, alive := false, age := 0 }),
   decide (15 < recNat b 0 1) || n == 0 || decide (8 < n) || recNat b 2 6 != 0 || specs.any fun x => x.2)

/-- Equal entries in a list? -/
def repeats : List Nat → Bool
  | [] => false
  | x :: r => r.contains x || repeats r

/-- A spec names a declared end of its direction, at a rate within its capacity. -/
def Table.specOk (t : Table) (sp : Bool × Nat × Nat) : Bool :=
  t.ends.any fun e => e.1 == sp.2.1 && e.2.1 == !sp.1 && decide (sp.2.2 ≤ 2 ^ e.2.2.1)

/-- An out end has its in end: opposite delta, each the other's peer, equal capacity. -/
def Table.endPaired (t : Table) (e : Nat × Bool × Nat × Nat × Int × Nat) : Bool :=
  e.2.1 || t.ends.any fun i => i.1 == e.2.2.2.1 && i.2.1 && i.2.2.2.2.1 == -e.2.2.2.2.1 && i.2.2.2.1 == e.1 && i.2.2.1 == e.2.2.1

/-- Do the parts of a table agree for shares of at least `share` bytes? -/
def Table.agrees (t : Table) (share : Nat) : Bool :=
  !repeats (t.handlers.map fun h => h.1) && !repeats (t.ends.map fun e => e.1) &&
  t.ends.all (fun e => t.endPaired e && (!e.2.1 || decide (e.2.2.2.2.2 + 64 * 2 ^ e.2.2.1 ≤ share))) &&
  t.actors.all fun a => a.2.specs.all t.specOk

/-- The table at an address; none if it cannot be read or breaks a rule. -/
def State.readTable (s : State) (ctx va share : Nat) : Option Table :=
  if va = 0 then some .none
  else
    match s.unitRead ctx va 16 with
    | .error _ => none
    | .ok b =>
      let h := recNat b 0 2
      let a := recNat b 2 1
      let e := recNat b 3 1
      if 256 < h ∨ 16 < a ∨ 16 < e ∨ recNat b 4 12 ≠ 0 then none
      else
        match s.unitRead ctx (va + 16) (16 * h + 16 * e + 32 * a) with
        | .error _ => none
        | .ok b =>
          let part (off n i : Nat) : List Byte := (b.drop (off + n * i)).take n
          let hs := (List.range h).map fun i => handlerOf (part 0 16 i)
          let es := (List.range e).map fun i => endOf (part (16 * h) 16 i)
          let acts := (List.range a).map fun i => actorOf (part (16 * h + 16 * e) 32 i)
          let t : Table := { handlers := hs.map fun x => x.1, ends := es.map fun x => x.1, actors := acts.map fun x => x.1 }
          if hs.any (fun x => x.2) || es.any (fun x => x.2) || acts.any (fun x => x.2) || !t.agrees share then none else some t

/-! ## The almanac of a deterministic launch (R315) -/

/-- The first of `n` pages from `va` on that a deterministic launch cannot use, by translation and permission alone. -/
def State.firstBad (s : State) (ctx : Nat) (write : Bool) : Nat → Nat → Option Nat
  | 0, _ => none
  | n + 1, va =>
    match s.unitLocate ctx write [(va, 1)] with
    | .error a => some a
    | .ok _ => s.firstBad ctx write n (va / 65536 * 65536 + 65536)

/-- The almanac address that fails the check, if any. -/
def State.almanacBad (s : State) (ctx : Nat) (replay : Bool) : Option Nat :=
  let c := s.context ctx
  let base := c.almBase.toNat
  let n := 16 * c.almCap.toNat
  if base % 64 ≠ 0 then some base
  else if n = 0 then none
  else s.firstBad ctx (!replay) ((base + n - 1) / 65536 + 1 - base / 65536) base

/-! ## Checking a record (R255) -/

/-- A record that passed every check. -/
structure Plan where
  rec_    : Rec
  header  : Header
  patches : List PatchEntry
  places  : List (Nat × Nat × Nat)
  table   : Table
deriving DecidableEq, Repr

/-- The least scratchpad share among placements. -/
def leastShare (ps : List (Nat × Nat × Nat)) : Nat := ps.foldl (fun a p => min a (131072 / 2 ^ p.2.1)) 131072

/-- The checks of a record: its plan, or the address that a failed almanac check notes. -/
def State.checkRecord (s : State) (ctx : Nat) (r : Rec) : Except (Option Nat) Plan :=
  if r.broken then .error none
  else
    match s.unitRead ctx r.header 128 with
    | .error _ => .error none
    | .ok hb =>
      let h := Header.ofBytes hb
      if h.bad || (r.det && !h.detSafe) then .error none
      else
        match s.unitRead ctx h.patches (8 * h.count), s.unitRead ctx r.remap (4 * (r.gridX * r.gridY)) with
        | .ok pb, .ok mb =>
          let patches := (wordsOf h.count pb).map fun w => PatchEntry.ofWord w h.len
          let es := quartersOf (r.gridX * r.gridY) mb
          let ps := es.map placeOf
          if patches.any (fun p => p.bad) || s.remapBad h es then .error none
          else
            match s.readTable ctx h.table (leastShare ps) with
            | none => .error none
            | some t =>
              if r.det && (s.context ctx).almMode != r.replay then .error none
              else
                match (if r.det then s.almanacBad ctx r.replay else none) with
                | some a => .error (some a)
                | none => .ok { rec_ := r, header := h, patches := patches, places := ps, table := t }
        | _, _ => .error none

/-! ## Arbitration (R38, R39) -/

/-- A deterministic launch of a context is live. -/
def State.detLive (s : State) (ctx : Nat) : Bool := s.launches.any fun e => e.2.ctx == ctx && e.2.det

/-- The head of a queue as the unit finds it: none when there is none to test, an unreadable record, or a record. -/
def State.headOf (s : State) (ctx q : Nat) : Option (Except Nat Rec) :=
  let x := (s.context ctx).queue q
  if x.stop || x.tail == x.head || (s.context ctx).isHeld then none
  else
    let va := x.recordVA x.head
    match s.unitRead ctx va 128 with
    | .error _ => some (.error va)
    | .ok b => some (.ok (Rec.ofBytes b))

/-- May a record start now: its wait mask is covered, and no other deterministic launch stands in the way? -/
def State.recordEligible (s : State) (ctx : Nat) (r : Rec) : Bool :=
  r.wait &&& (s.context ctx).events == r.wait && !(r.det && s.detLive ctx)

/-- The eligible heads: context, queue, record. -/
def State.eligible (s : State) : List (Nat × Nat × Except Nat Rec) :=
  s.contexts.flatMap fun c => (List.range 16).filterMap fun q =>
    match s.headOf c.1 q with
    | none => none
    | some (.error va) => some (c.1, q, .error va)
    | some (.ok r) => if s.recordEligible c.1 r then some (c.1, q, .ok r) else none

/-- The class of a head as ageing raised it. A record that could not be read has the lowest class (log 17, DESIGN CHOICE: R39 gives it
none). -/
def State.headClass (s : State) (e : Nat × Nat × Except Nat Rec) : Nat :=
  match e.2.2 with
  | .error _ => 0
  | .ok r => min 3 (r.prio + ((s.context e.1).queue e.2.1).raised)

/-- The head that the unit takes: highest class, round robin over (context, queue) from the one whose launch started last. -/
def State.nextHead (s : State) : Option (Nat × Nat × Except Nat Rec) :=
  leastBy (fun e => (3 - s.headClass e, (16 * e.1 + e.2.1 + 1024 - s.lastStart) % 1024)) s.eligible

/-- An eligible head was passed over. -/
def LQueue.passOver (x : LQueue) : LQueue := if x.pass = 255 then { x with pass := 0, raised := min 3 (x.raised + 1) } else { x with pass := x.pass + 1 }

/-! ## Launch start (R24, R25, R34, R84, R86, R149, R156, R283) -/

/-- The logical core of index i as launch start makes it. Its entry pip is a pinned pip that has arrived, so its wake bit is set (R25, R341;
log 17, DEDUCED). -/
def Plan.core (p : Plan) (launch i : Nat) : LCore :=
  let n := p.rec_.gridX * p.rec_.gridY
  let (pc, hosting, share) := p.places.getD i (0, 0, 0)
  let depths := p.table.handlers.foldl (fun ds h => match h.2.1 with | some d => ds.set (h.1 / 64) d | none => ds) [16, 16, 16, 16]
  let ends := p.table.ends.foldl
    (fun t e => Tbl.set t e.1 { isIn := e.2.1, ring := e.2.2.2.2.2, logCap := e.2.2.1,
                                peer := ((i + e.2.2.2.2.1) % (n : Int)).toNat, peerEnd := e.2.2.2.1, moved := 0, freed := 0,
                                held := false }) []
  let pip : Pip := { Pip.zero with
    w0 := BitVec.ofNat 64 (p.rec_.prio * 2 ^ 62 + 2 ^ 61 + p.header.code + p.header.entry), w3 := BitVec.ofNat 64 (i * 2 ^ 48) }
  { LCore.fresh with
    launch := launch, index := i, pcore := pc, hosting := hosting, share := share, seed := p.rec_.seed, depths := depths, ends := ends,
    binds := p.table.handlers.foldl (fun t h => Tbl.set t h.1 h.2.2) [],
    actors := p.table.actors.foldl (fun t a => Tbl.set t a.1 a.2) [],
    pinned := [QPip.make pip .entry launch], wake := true }

/-- Memory of a core given to a launch: its counters page is zero; its scratchpad is zeroed when it served no launch of this context last
(R156); its accumulators hold whatever `acc` says, for their contents are undefined (log 12, DESIGN CHOICE). -/
def State.giveCore (s : State) (ctx : Nat) (c : LCore) (acc : List Byte) : State :=
  let first := (s.pcore c.pcore).served != ctx + 1
  let pad := windowPA c.pcore 0 0
  let cnt := c.counterPA 0
  let ap := c.accPA 0
  let h := Mem.clear s.mem.home cnt 4096
  let h := if first then Mem.clear h pad 131072 else h
  let h := Mem.write (Mem.clear h ap 32768) ap acc
  let poison := s.mem.poison.filter fun g =>
    !((first && decide (pad ≤ 64 * g) && decide (64 * g < pad + 131072)) || (decide (cnt ≤ 64 * g) && decide (64 * g < cnt + 4096)))
  ({ s with mem := { s.mem with home := h, poison := poison } } : State)

/-- A launch as its plan makes it. -/
def Plan.launch (p : Plan) (ctx : Nat) (id : BitVec 32) (patches : List Patch) : Launch :=
  { ctx := ctx, launchId := id, paramVA := BitVec.ofNat 64 p.rec_.param, compVA := BitVec.ofNat 64 p.rec_.compl, gridX := p.rec_.gridX,
    gridY := p.rec_.gridY, det := p.rec_.det, replay := p.rec_.replay, prio := p.rec_.prio, seed := p.rec_.seed,
    setMask := p.rec_.mask, codeVA := BitVec.ofNat 64 p.header.code, codeLen := p.header.len, regions := p.header.regions,
    matrix := p.header.matrix, bound := BitVec.ofNat 21 p.header.bound, patches := patches, place := p.places,
    live := p.rec_.gridX * p.rec_.gridY, ending := .none }

/-- The values of the patches from the parameter block, or the address that failed (R86): the entries are read in the order of the list, and of
several that fail the first is noted (log 17, DESIGN CHOICE: R86 names one address and gives no order of reading). -/
def State.patchValues (s : State) (ctx param : Nat) : List PatchEntry → Except Nat (List Patch)
  | [] => .ok []
  | e :: r =>
    match s.unitRead ctx ((param + e.off) % 2 ^ 64) e.width with
    | .error a => .error a
    | .ok b => (s.patchValues ctx param r).map fun ps => { site := e.site, field := e.field, value := leWord b } :: ps

/-- The next LAUNCHID passes over 0 (R99). -/
def nextLaunchId (n : BitVec 32) : BitVec 32 := if n + 1 = 0 then 1 else n + 1

/-- A launch starts: it gets its LAUNCHID; its tables, its cores and their entry pips are made. `acc` gives the undefined contents of the
accumulators, 32,768 bytes for each core. -/
def State.startLaunch (s : State) (ctx : Nat) (p : Plan) (acc : List Byte) : State :=
  let id := (s.context ctx).nextId
  let s := s.modContext ctx fun c => { c with nextId := nextLaunchId id }
  match s.patchValues ctx p.rec_.param p.patches with
  | .error a => (s.noteLaunchFault ctx a).completionWord ctx p.rec_.compl (completionOf id.toNat false 0x18)
  | .ok patches =>
    let key := s.nextLaunch
    let s : State := { s with nextLaunch := key + 1 }
    let s := if p.rec_.det then s.modContext ctx fun c => { c with consumed := [] } else s
    let s := s.setLaunch key (p.launch ctx id patches)
    let s := (List.range (p.rec_.gridX * p.rec_.gridY)).foldl
      (fun s i =>
        let c := p.core key i
        let s := (s.giveCore ctx c ((acc.drop (32768 * i)).take 32768)).setLc (lcKey key i) c
        (s.setFiring (firingKey (lcKey key i) 0) (Firing.idle (firingKey (lcKey key i) 0))).setFiring (firingKey (lcKey key i) 1)
          (Firing.idle (firingKey (lcKey key i) 1))) s
    let s := p.places.foldl (fun s x => s.modPCore x.1 fun q => { q with served := ctx + 1 }) s
    s.settle

/-- A head record is rejected with 0x18 (R255). -/
def State.rejectRecord (s : State) (ctx q : Nat) (compl : Option Nat) (noted : Option Nat) : State :=
  let s := s.advanceHead ctx q
  let s := match noted with | some a => s.noteLaunchFault ctx a | none => s
  match compl with
  | some va => s.completionWord ctx va (completionOf 0 false 0x18)
  | none => s.raise (64 + ctx)

/-- The launch unit takes the head that arbitration gives: it starts its launch, after which the round robin goes on, or rejects it (R39,
R255). The subject's data are the undefined contents of the accumulators. -/
def execLaunchStart (s : State) : Outcome :=
  match s.nextHead with
  | none => .next s
  | some (ctx, q, r) =>
    let t := s.eligible.foldl (fun s e => if e.1 = ctx ∧ e.2.1 = q then s else s.modQueue e.1 e.2.1 LQueue.passOver) s
    match r with
    | .error va => .next (t.rejectRecord ctx q none (some va))
    | .ok r =>
      match (if r.compl % 8 ≠ 0 then .error r.compl else t.unitLocate ctx true (pieces r.compl 8)) with
      | .error a => .next (t.rejectRecord ctx q none (some a))
      | .ok _ =>
        match t.checkRecord ctx r with
        | .error noted => .next (t.rejectRecord ctx q (some r.compl) noted)
        | .ok p => .next (({ t with lastStart := 16 * ctx + q + 1 } : State).advanceHead ctx q |>.startLaunch ctx p s.subject.data)

/-! ## The end of a launch (R40, R42) -/

/-- A launch whose live count is zero and whose commands are all complete: bindings and triggers go, its writes are released at system
scope, its set mask enters the event vector, its completion word shows success. -/
def execLaunchCompletion (s : State) : Outcome :=
  let k := s.subject.unit
  match Tbl.find s.launches k with
  | none => .next s
  | some l =>
    s.enabled (l.ending.isNone && l.live == 0 && !s.hasCommands k) fun s =>
      let s := (s.drainPuts fun p => p.launch == k).cleanAll
      let s := s.setEvents l.ctx l.setMask
      let s := s.completionWord l.ctx l.compVA.toNat (completionOf l.launchId.toNat false 0)
      (s.removeLaunch k).settle

/-- A launch that a fault ended and whose started commands are complete: its completion word records the code. -/
def execLaunchEndByFault (s : State) : Outcome :=
  let k := s.subject.unit
  match Tbl.find s.launches k with
  | none => .next s
  | some l =>
    match l.ending with
    | none => .next s
    | some code =>
      s.enabled (!s.hasCommands k) fun s =>
        let s := s.completionWord l.ctx l.compVA.toNat (completionOf l.launchId.toNat false code.toNat)
        (s.removeLaunch k).settle

/-! ## The page-fault queue (R338) -/

/-- The entry of a suspended firing, posted while the ring has room; MSI-X vector 64 + context is raised. -/
def execPageFaultEntryPost (s : State) : Outcome :=
  let fk := s.subject.unit
  let g := s.firing fk
  let ctx := s.ctxOf fk
  let c := s.context ctx
  s.enabled (g.st == .suspended && g.ticket.isNone && c.pfTail - c.pfHead != 1024) fun s =>
    let w0 := BitVec.ofNat 64 ((s.lc (lcOf fk)).index * 2 ^ 48 + g.pfAddr.toNat)
    let w1 := BitVec.ofNat 64 (c.pfNext.toNat * 2 ^ 32 + g.pfAccess.toNat * 2 ^ 30 + g.number * 2 ^ 29)
    let s := s.modContext ctx fun c =>
      { c with pfRing := Tbl.set c.pfRing (c.pfTail.toNat % 1024) (w0, w1), pfTail := c.pfTail + 1, pfNext := c.pfNext + 1 }
    (s.modFiring fk fun g => { g with ticket := some c.pfNext }).raise (64 + ctx)

/-- The subject names the context, its value is the ticket. -/
def execPageFaultResume (s : State) : Outcome :=
  s.written (0x7F0001000010 + 65536 * (s.subject.unit % 64)) [s.subject.value] fun s => s.resumeTicket s.subject.unit s.subject.value
def execPageFaultRefuse (s : State) : Outcome :=
  s.written (0x7F0001000018 + 65536 * (s.subject.unit % 64)) [s.subject.value] fun s => s.refuseTicket s.subject.unit s.subject.value

/-! ## Queue registers (R254, R256); the subject names the context and, as its item, the queue -/

def execLaunchQueueTailWrite (s : State) : Outcome :=
  s.written (queueReg s.subject.unit s.subject.item 3) [s.subject.value] fun s => s.writeTail s.subject.unit s.subject.item s.subject.value
def execLaunchQueueStop (s : State) : Outcome :=
  s.written (queueReg s.subject.unit s.subject.item 1) [0x100] fun s => s.modQueue s.subject.unit s.subject.item fun x => { x with stop := true }

/-- Stopped is set once no record of the queue is being started, which is at once between steps. -/
def execLaunchQueueStopped (s : State) : Outcome :=
  let x := (s.context s.subject.unit).queue s.subject.item
  s.enabled (x.stop && !x.stopped) fun s => s.modQueue s.subject.unit s.subject.item fun x => { x with stopped := true }

def execLaunchQueueRestart (s : State) : Outcome :=
  s.written (queueReg s.subject.unit s.subject.item 1) [0] fun s => s.modQueue s.subject.unit s.subject.item fun x => { x with stop := false, stopped := false }
def execLaunchQueueOverrunClear (s : State) : Outcome :=
  let x := (s.context s.subject.unit).queue s.subject.item
  s.written (queueReg s.subject.unit s.subject.item 1) [BitVec.ofNat 64 (0x400 + flag x.stop 8)] fun s => s.modQueue s.subject.unit s.subject.item fun x => { x with overrun := false }
def execLaunchQueueHeadWrite (s : State) : Outcome :=
  s.written (queueReg s.subject.unit s.subject.item 2) [s.subject.value] fun s => s.writeHead s.subject.unit s.subject.item s.subject.value

/-! ## Event windows (R302) and run control (R341) -/

/-- The subject names the context and, as its item, the word. -/
def execEventVectorSetWindowWrite (s : State) : Outcome :=
  s.written (0x7F0000410000 + 32 * (s.subject.unit % 64) + 8 * (s.subject.item % 4)) [s.subject.value] fun s => (s.setEvents s.subject.unit (eventMask (s.subject.item % 4) s.subject.value)).settle
def execEventVectorClearWindowWrite (s : State) : Outcome :=
  s.written (0x7F0000420000 + 32 * (s.subject.unit % 64) + 8 * (s.subject.item % 4)) [s.subject.value] fun s => s.clearEvents s.subject.unit (eventMask (s.subject.item % 4) s.subject.value)

def execRunControlWrite (s : State) : Outcome :=
  s.written (0x7F0000900000 + 8 * (s.subject.unit % 4096)) [s.subject.value] fun s => s.runControl s.subject.unit s.subject.value

end Sys2Proof.Machine
end

