-- ==== Sys2Proof/Machine/Serving.lean ====
section
/-! DEFINITION. The issue of text commands (R324, R325). -/

namespace Sys2Proof.Machine

open Sys2Proof

/-- Is a channel end no out end whose consumer lies on this die? -/
def State.channelBad (s : State) (n : Nat) : Bool :=
  match Tbl.find s.me.ends n with
  | none => true
  | some e => e.isIn || dieOf (s.lc (lcKey s.myLaunch e.peer)).pcore != dieOf s.me.pcore

def misaligned (va : Word) (n : Nat) : Bool := va.toNat % n != 0

/-- The source of a text command and the header of its vocabulary, checked in that order, in the memory space or a peer window (R154, R164):
the pages of the source, and the header's place, which the command keeps (R290). -/
def State.checkText (s : State) (src n voc : Nat) : Except Flt (List PageMap × List Spot × State) :=
  match s.checkRange .load [0, 1, 2, 3, 4, 5] src n with
  | .error e => .error e
  | .ok (ps, t) =>
    match t.locate t.asker .load (pieces voc 64) with
    | .error e => .error { e with acc := 3 }
    | .ok (sp, ts) => .ok (ps, sp, t.noteAll t.asker ts)

/-- tkn (R325): an odd c is judged after the region, as the rule's list has it, and so is that of dtkn. -/
def execTkn (g : BitVec 3) (a b c : BitVec 6) (s : State) : Outcome :=
  s.engine .text g fun s =>
    let w := s.sreg c
    let src := (s.sreg a).toNat
    let voc := s.sreg b
    let n := fld w 23 0
    let chan := fld w 29 26
    if c.toNat % 2 ≠ 0 then .error (.plain 0x04)
    else if fld w 63 33 ≠ 0 || fld w 31 30 ≠ 0 || fld w 25 24 ≠ 0 then .error (.plain 0x02)
    else if misaligned voc 64 then .error { code := 0x07, addr := voc.toNat, acc := 3 }
    else if n = 0 then .error (.plain 0x0B)
    else if s.channelBad chan then .error (.plain 0x16)
    else
      match s.checkText src n voc.toNat with
      | .error e => .error e
      | .ok (ps, hd, t) =>
        match t.checkCounter (t.sreg (c + 1)) with
        | .error e => .error e
        | .ok (ctr, u) => .ok (.tkn src ps n voc.toNat hd (w.getLsbD 32) chan ctr, false, u)

def execDtkn (g : BitVec 3) (a b c : BitVec 6) (s : State) : Outcome :=
  s.engine .text g fun s =>
    let w := s.sreg c
    let ids := s.sreg a
    let voc := s.sreg b
    let blk := s.sreg (c + 1)
    let n := fld w 15 0
    if c.toNat % 2 ≠ 0 then .error (.plain 0x04)
    else if fld w 63 18 ≠ 0 || fld w 16 16 ≠ 0 then .error (.plain 0x02)
    else if misaligned voc 64 then .error { code := 0x07, addr := voc.toNat, acc := 3 }
    else if misaligned ids 4 then .error { code := 0x07, addr := ids.toNat, acc := 3 }
    else if misaligned blk 64 then .error { code := 0x07, addr := blk.toNat, acc := 3 }
    else if n = 0 then .error (.plain 0x0B)
    else
      match s.checkText ids.toNat (4 * n) voc.toNat with
      | .error e => .error e
      | .ok (ps, hd, t) =>
        match t.checkRange .store [] blk.toNat 64 with
        | .error e => .error e
        | .ok (bs, u) =>
          match u.fetchBytes u.asker blk.toNat 16 with
          | .error e => .error { e with acc := 3 }
          | .ok (rec, v) =>
            match v.checkRange .store [0, 5] (recNat rec 0 8) (recNat rec 8 4) with
            | .error e => .error e
            | .ok (os, x) =>
              .ok (.dtkn ids.toNat ps n voc.toNat hd (w.getLsbD 17) blk.toNat (recNat rec 0 8) (recNat rec 8 4) bs os, false, x)

end Sys2Proof.Machine
end

