-- ==== Sys2Proof/Machine/Text.lean ====
section
/-! DEFINITION. The text engines: tokenising and detokenising (R292, R293, R324 to R329). The subject of each step names the engine; of an
acceptance, the logical core and, as its item, the issue order of the command. A step of a tokeniser says `yes` for a tokeniser. -/

namespace Sys2Proof.Machine

open Sys2Proof

/-! ## UTF-8 -/

/-- Is a byte a continuation byte that may follow the lead byte `a` as its second? -/
def utf8Second (a b : Nat) : Bool :=
  decide ((if a = 0xE0 then 0xA0 else if a = 0xF0 then 0x90 else 0x80) ≤ b) &&
  decide (b ≤ (if a = 0xED then 0x9F else if a = 0xF4 then 0x8F else 0xBF))

def utf8Later (b : Nat) : Bool := decide (0x80 ≤ b) && decide (b ≤ 0xBF)

/-- Bytes that a lead byte calls for, itself included; 0 for a byte that leads nothing. -/
def utf8Need (a : Nat) : Nat :=
  if a < 0x80 then 1 else if a < 0xC2 then 0 else if a < 0xE0 then 2 else if a < 0xF0 then 3 else if a < 0xF5 then 4 else 0

/-- Is a list a lead byte followed only by valid continuations, `n` bytes in all? -/
def utf8Run (b : List Nat) (n : Nat) : Bool :=
  match b.take n with
  | [] => false
  | a :: r =>
    utf8Need a != 0 && r.length + 1 == n &&
      (match r with | [] => true | x :: y => utf8Second a x && y.all utf8Later)

/-- Length of the well-formed sequence at the head; 0 if the head is a byte of an ill-formed one. -/
def utf8Len (b : List Nat) : Nat :=
  match b with
  | [] => 0
  | a :: _ => if utf8Need a ≠ 0 ∧ utf8Run b (utf8Need a) then utf8Need a else 0

/-- The code point of a well-formed sequence. -/
def utf8Point (b : List Nat) : Nat :=
  match b with
  | [] => 0
  | a :: r =>
    let lead := if a < 0x80 then a else if a < 0xE0 then a % 32 else if a < 0xF0 then a % 16 else a % 8
    r.foldl (fun v x => v * 64 + x % 64) lead

/-- A unit of the source: its bytes and its code point, none for a byte of an ill-formed sequence (R326). -/
structure Unit8 where
  bytes : List Nat
  point : Option Nat
deriving DecidableEq, Repr

/-- The units of bytes; `fuel` bounds their number. -/
def unitsOf : Nat → List Nat → List Unit8
  | 0, _ => []
  | n + 1, b =>
    match b with
    | [] => []
    | a :: r =>
      let k := utf8Len b
      if k = 0 then { bytes := [a], point := none } :: unitsOf n r
      else { bytes := b.take k, point := some (utf8Point (b.take k)) } :: unitsOf n (b.drop k)

/-! ## The vocabulary image (R292) -/

/-- Reading the image through the state: an address that fails gives 0x09, poison on a poison-trap page 0x0A. -/
abbrev Reading (α : Type) := StateT State (Except Code) α

/-- The engine of a logical core as one who accesses memory. -/
def State.engineAsker (s : State) (lk : Nat) : Asker :=
  { ctx := (s.launch (launchOfLc lk)).ctx, launch := launchOfLc lk, pcore := (s.lc lk).pcore, service := false, fk := none }

def vocabBytes (q : Asker) (va n : Nat) : Reading (List Byte) := fun s =>
  match s.fetchBytes q va n with
  | .ok r => .ok r
  | .error e => .error (if e.code = 0x0A then 0x0A else 0x09)

/-- A vocabulary header. -/
structure Vocab where
  va       : Nat
  count    : Nat
  bexp     : Nat
  ranges   : Nat
  specials : Nat
  endId    : Nat
  tokens   : Nat
  buckets  : Nat
  classes  : Nat
  spTable  : Nat
deriving DecidableEq, Repr

/-- The 64 bytes of the header, read where the checks of issue found it (R290). -/
def headBytes (q : Asker) (head : List Spot) : Reading (List Byte) := fun s =>
  if (s.poisonHit head).isSome then .error 0x0A else .ok (s.loadSpots q false head)

/-- The header, unless it breaks a limit (0x0B). -/
def readVocab (q : Asker) (va : Nat) (head : List Spot) : Reading Vocab := do
  let b ← headBytes q head
  let v : Vocab :=
    { va := va, count := recNat b 8 4, bexp := recNat b 12 4, ranges := recNat b 16 4, specials := recNat b 20 4, endId := recNat b 24 4,
      tokens := recNat b 32 8, buckets := recNat b 40 8, classes := recNat b 48 8, spTable := recNat b 56 8 }
  if recNat b 0 4 ≠ 0x56434B4B ∨ recNat b 4 4 ≠ 1 ∨ v.count < 256 ∨ 1048576 < v.count ∨ v.bexp < 4 ∨ 24 < v.bexp ∨ v.ranges < 1 ∨
      4096 < v.ranges ∨ 256 < v.specials ∨ recNat b 28 4 ≠ 0 then throw 0x0B
  else pure v

/-- An entry of the image whose reserved bits are set fails the command as a header does (R3, R292, R325; log 18, DEDUCED). -/
def reservedClear (b : Bool) : Reading Unit := if b then throw 0x0B else pure ()

/-- The bytes of a token. -/
def tokenBytes (q : Asker) (v : Vocab) (id : Nat) : Reading (List Nat) := do
  let e ← vocabBytes q (v.va + v.tokens + 8 * id) 8
  reservedClear (recNat e 5 3 != 0)
  let b ← vocabBytes q (v.va + recNat e 0 4) (recNat e 4 1 + 1)
  pure (b.map fun x => x.toNat)

/-- The class ranges: first and last code point, class. -/
def readClasses (q : Asker) (v : Vocab) : Reading (List (Nat × Nat × Nat)) := do
  let b ← vocabBytes q (v.va + v.classes) (8 * v.ranges)
  reservedClear ((List.range v.ranges).any fun i => recNat b (8 * i + 6) 2 != 0)
  pure ((List.range v.ranges).map fun i =>
    let w := recNat b (8 * i) 8
    (bits w 20 0, bits w 41 21, bits w 47 42))

/-- The special texts: id and bytes. -/
def readSpecials (q : Asker) (v : Vocab) : Reading (List (Nat × List Nat)) := do
  let b ← vocabBytes q (v.va + v.spTable) (8 * v.specials)
  (List.range v.specials).mapM fun i => do
    reservedClear (bits (recNat b (8 * i) 8) 63 20 != 0)
    let id := bits (recNat b (8 * i) 8) 19 0
    let t ← tokenBytes q v id
    pure (id, t)

/-- The class of a code point. -/
def classOf (cs : List (Nat × Nat × Nat)) (p : Nat) : Nat :=
  match cs.find? fun c => decide (c.1 ≤ p) && decide (p ≤ c.2.1) with
  | some c => c.2.2
  | none => 0

/-- The merge of a pair, searched from a bucket on: rank and result. -/
def probeMerge (q : Asker) (v : Vocab) (l r : Nat) : Nat → Nat → Reading (Option (Nat × Nat))
  | 0, _ => pure none
  | n + 1, i => do
    let b ← vocabBytes q (v.va + v.buckets + 16 * (i % 2 ^ v.bexp)) 16
    let w := recNat b 0 16
    if w = 2 ^ 128 - 1 then pure none
    else if bits w 63 60 ≠ 0 ∨ bits w 127 96 ≠ 0 then throw 0x0B
    else if bits w 19 0 = l ∧ bits w 39 20 = r then pure (some (bits w 95 64, bits w 59 40))
    else probeMerge q v l r n (i + 1)

/-- The merge of a pair of ids. -/
def findMerge (q : Asker) (v : Vocab) (l r : Nat) : Reading (Option (Nat × Nat)) :=
  probeMerge q v l r (2 ^ v.bexp) ((l * 2654435761 + r) % 2 ^ 32 / 2 ^ (32 - v.bexp))

/-! ## Tokenising (R326) -/

/-- A piece of the source: a special's id, or bytes between specials. -/
inductive Piece where
  | special (id : Nat)
  | text (b : List Nat)
deriving DecidableEq, Repr

/-- The longest special text at the head of the bytes; of equal texts, the first in the table. -/
def specialAt (sp : List (Nat × List Nat)) (b : List Nat) : Option (Nat × Nat) :=
  sp.foldl
    (fun best e =>
      let longer : Bool := match best with | none => true | some x => decide (x.2 < e.2.length)
      if e.2 == b.take e.2.length && longer then some (e.1, e.2.length) else best) none

/-- The source cut at its special texts; `acc` holds the bytes since the last one, latest first. -/
def cutSpecials (sp : List (Nat × List Nat)) : Nat → List Nat → List Nat → List Piece
  | 0, _, acc => if acc.isEmpty then [] else [.text acc.reverse]
  | n + 1, b, acc =>
    let flush := if acc.isEmpty then [] else [Piece.text acc.reverse]
    match b with
    | [] => flush
    | a :: r =>
      match specialAt sp b with
      | some (id, k) => flush ++ .special id :: cutSpecials sp n (b.drop k) []
      | none => cutSpecials sp n r (a :: acc)

/-- A boundary falls between two code points of these classes. -/
def classSplit (a b : Nat) : Bool :=
  decide (32 ≤ a) || decide (32 ≤ b) || (a != b && !(a == 1 && decide (2 ≤ b) && decide (b ≤ 31)))

/-- Units grouped into chunks; the units of each chunk in order. -/
def chunksOf (cs : List (Nat × Nat × Nat)) : List Unit8 → List (List Unit8)
  | [] => []
  | u :: r =>
    match chunksOf cs r with
    | [] => [[u]]
    | c :: more =>
      let together := match u.point, (c.head?.bind fun x => x.point) with
        | some p, some p' => !classSplit (classOf cs p) (classOf cs p')
        | _, _ => false
      if together then (u :: c) :: more else [u] :: c :: more

/-- A chunk cut every 256 bytes, each cut at the start of the code point it would split: `off` bytes of the chunk stand before these
units, and `acc` holds the units since the last cut, latest first. A unit that reaches beyond a multiple of 256 begins a part. -/
def cutChunk : List Unit8 → Nat → List Unit8 → List (List Unit8)
  | [], _, acc => if acc.isEmpty then [] else [acc.reverse]
  | u :: r, off, acc =>
    let stop := off + u.bytes.length
    let cutHere := off ≠ 0 ∧ (off % 256 = 0 ∨ (off / 256 < stop / 256 ∧ stop % 256 ≠ 0))
    if cutHere then acc.reverse :: cutChunk r stop [u] else cutChunk r stop (u :: acc)

/-- Joins the pair at position i. -/
def joinPair (ids : List Nat) (i id : Nat) : List Nat := ids.take i ++ id :: ids.drop (i + 2)

/-- Of the adjacent pairs with a merge, the one of lowest rank, the leftmost on equal ranks: rank, position, result. -/
def bestMerge (q : Asker) (v : Vocab) : List Nat → Nat → Reading (Option (Nat × Nat × Nat))
  | a :: b :: r, i => do
    let here ← findMerge q v a b
    let later ← bestMerge q v (b :: r) (i + 1)
    pure (match here, later with
      | some (rank, id), some x => if rank ≤ x.1 then some (rank, i, id) else some x
      | some (rank, id), none => some (rank, i, id)
      | none, x => x)
  | _, _ => pure none

/-- Merges a chunk until no pair has a merge; each merge shortens it. -/
def mergeChunk (q : Asker) (v : Vocab) : Nat → List Nat → Reading (List Nat)
  | 0, ids => pure ids
  | n + 1, ids => do
    match ← bestMerge q v ids 0 with
    | none => pure ids
    | some (_, i, id) => mergeChunk q v n (joinPair ids i id)

/-- The ids of a piece of the source. -/
def pieceIds (q : Asker) (v : Vocab) (cs : List (Nat × Nat × Nat)) (p : Piece) : Reading (List Nat) := do
  match p with
  | .special id => pure [id]
  | .text b =>
    let chunks := (chunksOf cs (unitsOf b.length b)).flatMap fun c => cutChunk c 0 []
    let ids ← chunks.mapM fun c =>
      let bytes := c.flatMap fun u => u.bytes
      mergeChunk q v bytes.length bytes
    pure ids.flatten

/-- The ids of a source. -/
def tokenise (q : Asker) (voc : Nat) (head : List Spot) (specials : Bool) (src : List Nat) : Reading (List Nat) := do
  let v ← readVocab q voc head
  let sp ← if specials then readSpecials q v else pure []
  let cs ← readClasses q v
  let ids ← (cutSpecials sp (src.length + 1) src []).mapM (pieceIds q v cs)
  pure ids.flatten

/-! ## The engines (R324) -/

/-- The engine of a logical core: two of each kind on a die. -/
def State.textEngineOf (s : State) (lk : Nat) : Nat :=
  let p := (s.lc lk).pcore
  2 * dieOf p + clusterOf p % 8 / 4

def State.engineTable (s : State) (tok : Bool) : Tbl TextEngine := if tok then s.tokenisers else s.detokenisers

def State.textEngine (s : State) (tok : Bool) (n : Nat) : TextEngine := Tbl.get .fresh (s.engineTable tok) n

def State.modText (s : State) (tok : Bool) (n : Nat) (h : TextEngine → TextEngine) : State :=
  let t := Tbl.set (s.engineTable tok) n (h (s.textEngine tok n))
  if tok then { s with tokenisers := t } else { s with detokenisers := t }

/-- A text command reaches its engine; a full queue of 32 leaves it where it is. -/
def execTextCommandAccept (s : State) : Outcome :=
  let lk := s.subject.unit
  match s.sendable lk s.subject.item true with
  | none => .next s
  | some k =>
    let tok := k.work.isTkn
    let n := s.textEngineOf lk
    if 32 ≤ (s.textEngine tok n).queue.length then .next s
    else .next ((s.modText tok n fun x => { x with queue := x.queue ++ [(lk, k)] }).acceptCmd lk k).settle

/-- A command that fails at its start ends its launch (R223, R325). -/
def State.textFault (s : State) (lk : Nat) (k : Cmd) (code : Code) : State := (s.engineFault lk k code).settle

/-- Marks an out end as held by a text command, or free again. -/
def State.holdEnd (s : State) (lk chan : Nat) (b : Bool) : State :=
  s.modLc lk fun c =>
    match Tbl.find c.ends chan with
    | some e => { c with ends := Tbl.set c.ends chan { e with held := b } }
    | none => c

/-- The head of a tokeniser's queue starts: its source and its image are read, and its ids are ready to be written. -/
def State.startTkn (s : State) (n lk : Nat) (k : Cmd) : State :=
  match k.work with
  | .tkn src pages len voc head specials chan _ =>
    let s := s.modText true n fun x => { x with queue := x.queue.drop 1 }
    let b := s.readPages pages src len
    let s := s.fillPages pages
    (match (tokenise (s.engineAsker lk) voc head specials (b.map fun e => if e.2 then 0 else e.1.toNat)).run s with
     | .error code => s.textFault lk k code
     | .ok (ids, t) =>
       (t.holdEnd lk chan true).modText true n fun x =>
         { x with running := some (lk, { k with started := true, poison := b.any fun e => e.2 }), ids := ids.map (BitVec.ofNat 32) })
  | _ => s

/-- Is an out end of a logical core held? -/
def LCore.endHeld (c : LCore) (chan : Nat) : Bool := match Tbl.find c.ends chan with | some e => e.held | none => false

def execTknStart (s : State) : Outcome :=
  let n := s.subject.unit
  let x := s.textEngine true n
  match x.queue.head? with
  | none => .next s
  | some (lk, k) =>
    match k.work with
    | .tkn _ _ _ _ _ _ chan _ => s.enabled (x.running.isNone && !(s.lc lk).endHeld chan) fun s => s.startTkn n lk k
    | _ => .next s

/-- An output entry: count, flags, up to fifteen ids (R327). -/
def tknEntry (ids : List (BitVec 32)) (last poison : Bool) : BitVec 512 :=
  BitVec.ofNat 512 (ids.length + flag last 8 + flag (last && poison) 9 + 2 ^ 32 * leNat (ids.flatMap fun i => leBytes 4 i.toNat))

/-- The command has written its last entry: its end is free, its counter rises, the engine takes its next command. -/
def State.finishTkn (s : State) (n lk : Nat) (k : Cmd) (chan : Nat) (ctr : Option PageMap) : State :=
  let s := (s.holdEnd lk chan false).modText true n fun x => { x with running := none, ids := [] }
  (match ctr with
   | some c => s.raiseCounter (some (s.launch (launchOfLc lk)).ctx) c.pa k.poison
   | none => s).settle

/-- The next entry of a running tkn is written once its channel has space and the entries sent before it have arrived. A launch that
has ended no longer makes space, and its command does not wait for it (log 18, DEDUCED). -/
def execTknEntryWrite (s : State) : Outcome :=
  let n := s.subject.unit
  let x := s.textEngine true n
  match x.running with
  | none => .next s
  | some (lk, k) =>
    match k.work with
    | .tkn _ _ _ _ _ _ chan ctr =>
      match Tbl.find (s.lc lk).ends chan with
      | none => .next s
      | some e =>
        let there := lcKey (launchOfLc lk) e.peer
        let room := decide (e.moved - e.freed < 2 ^ e.logCap) || (s.launch (launchOfLc lk)).ending.isSome
        s.enabled (room && !s.net.entries.any fun y => y.lc == there && y.inEnd == e.peerEnd) fun s =>
          let rest := x.ids.drop 15
          let last := rest.isEmpty
          let s := s.modLc lk fun c => { c with ends := Tbl.set c.ends chan { e with moved := e.moved + 1 } }
          let s := s.enterRing { fk := none, lc := there, inEnd := e.peerEnd, index := e.moved, data := tknEntry (x.ids.take 15) last k.poison }
          if last then s.finishTkn n lk k chan ctr else s.modText true n fun y => { y with ids := rest }
    | _ => .next s

/-! ## Detokenising (R328, R329) -/

/-- The stream while its ids are appended: held bytes, flags, bytes written. -/
structure Stream where
  held    : List Nat
  ended   : Bool
  full    : Bool
  range   : Bool
  poison  : Bool
  written : Nat
deriving DecidableEq, Repr

/-- The bytes held back: the longest suffix of at most three bytes that is a lead byte with fewer continuations than it needs. -/
def heldSuffix (p : List Nat) : List Nat :=
  let open_ (n : Nat) : Bool :=
    let h := p.drop (p.length - n)
    decide (n ≤ p.length) && utf8Run h n && (match h with | a :: _ => decide (n < utf8Need a) | [] => false)
  if open_ 3 then p.drop (p.length - 3) else if open_ 2 then p.drop (p.length - 2) else if open_ 1 then p.drop (p.length - 1) else []

def replacement : List Nat := [0xEF, 0xBF, 0xBD]

/-- Each byte of an ill-formed sequence is replaced. -/
def repair (b : List Nat) : List Nat := (unitsOf b.length b).flatMap fun u => if u.point.isSome then u.bytes else replacement

/-- Text is written if it fits; what waits on a counter that it writes is tested (R299, R300). -/
def State.appendText (s : State) (who : Option Nat) (pages : List PageMap) (base cap : Nat) (x : Stream) (e : List Nat) :
    Option (Stream × State) :=
  if cap < x.written + e.length then none
  else
    let (_, t) := s.writePages who pages (base + x.written) (marked (e.map (BitVec.ofNat 8)) false)
    some ({ x with written := x.written + e.length }, t.settle)

/-- One id is appended. -/
def appendId (q : Asker) (v : Vocab) (pages : List PageMap) (base cap : Nat) (x : Stream) (id : Nat × Bool) : Reading Stream := do
  let x := if id.2 then { x with poison := true } else x
  let i := if id.2 then 0 else id.1
  if x.ended || x.full then pure x
  else if i = v.endId then pure { x with ended := true }
  else if v.count ≤ i then pure { x with range := true }
  else
    let t ← tokenBytes q v i
    let p := x.held ++ t
    let h := heldSuffix p
    let e := repair (p.take (p.length - h.length))
    match (← get).appendText (some q.ctx) pages base cap x e with
    | none => pure { x with full := true }
    | some (x, t) => do
      set t
      pure { x with held := h }

/-- The held bytes are flushed at the end. -/
def State.flushText (s : State) (who : Option Nat) (pages : List PageMap) (base cap : Nat) (x : Stream) : Stream × State :=
  match s.appendText who pages base cap x (x.held.flatMap fun _ => replacement) with
  | none => ({ x with full := true, held := [] }, s)
  | some (x, t) => ({ x with held := [] }, t)

/-- Reserved bytes of a state block, and a held count beyond three. -/
def blockBad (b : List Byte) : Bool :=
  decide (3 < recNat b 16 1) || decide (16 ≤ recNat b 20 1) || recNat b 21 3 != 0 || recNat b 32 32 != 0

/-- The state block as a command found it. -/
def Stream.ofBlock (b : List Byte) : Stream :=
  let f := recNat b 20 1
  { held := ((b.drop 17).take (recNat b 16 1)).map fun x => x.toNat, ended := bit f 0, full := bit f 1, range := bit f 2, poison := bit f 3,
    written := recNat b 12 4 }

/-- The state block with a new stream in it. -/
def Stream.block (x : Stream) (b : List Byte) : List Byte :=
  b.take 12 ++ leBytes 4 x.written ++ leBytes 1 x.held.length ++ leBytes 3 (leNat (x.held.map (BitVec.ofNat 8))) ++
    leBytes 1 (flag x.ended 0 + flag x.full 1 + flag x.range 2 + flag x.poison 3) ++ b.drop 21

/-- A dtkn runs: its ids' texts are appended, its state block is written, its counter rises, a release at system scope when it wrote host
memory (R15, R190). -/
def dtknRun (lk : Nat) (k : Cmd) : Reading Unit := do
  match k.work with
  | .dtkn ids pages count voc head flush block base cap blockPages outPages =>
    let s ← get
    let q := s.engineAsker lk
    let b := (s.readPages blockPages block 64).map fun e => if e.2 then 0 else e.1
    let list := (List.range count).map fun i =>
      let e := s.readPages pages (ids + 4 * i) 4
      (leNat (e.map fun x => x.1), e.any fun x => x.2)
    set (s.fillPages pages)
    let v ← readVocab q voc head
    if blockBad b then throw 0x0B
    let x ← list.foldlM (appendId q v outPages base cap) (Stream.ofBlock b)
    let u ← get
    let (x, t) := if flush then u.flushText (some q.ctx) outPages base cap x else (x, u)
    let t := (t.writePages (some q.ctx) blockPages block (marked (x.block b) false)).2.settle
    let far := (outPages ++ blockPages).any fun p => p.host
    let t := if far then t.cleanAll else t
    let ctr := recNat b 24 8
    if ctr = 0 then set t
    else if ctr % 8 ≠ 0 then throw 0x07
    else
      match t.locate q .increment (pieces ctr 8) with
      | .error _ => throw 0x09
      | .ok (sp, _) => set (match sp with
          | p :: _ => let t := t.raiseCounter (some q.ctx) p.pa false; if far then t.l2Clean (p.pa / 64) else t
          | [] => t)
  | _ => pure ()

def execDtknStart (s : State) : Outcome :=
  let n := s.subject.unit
  let x := s.textEngine false n
  match x.queue.head? with
  | none => .next s
  | some (lk, k) =>
    s.enabled (x.running.isNone && !k.work.isTkn) fun s =>
      let s := s.modText false n fun x => { x with queue := x.queue.drop 1 }
      match (dtknRun lk k).run s with
      | .error code => s.textFault lk k code
      | .ok (_, t) => t.settle

end Sys2Proof.Machine
end

