-- ==== Sys2Proof/Machine/HostPort.lean ====
section
/-! DEFINITION. What reaches the package from the host: accesses to device memory, writes of the device registers, the mailbox (R161, R200,
R201, R254, R286, R287, R290, R302, R344, R349, R351, R358, R360, R361). The subject's unit is the BAR of a host access: 0 for BAR 0, 2 for
BAR 2, 4 for the rest of the physical map, any other for CXL.mem; its value is the offset or the address. -/

namespace Sys2Proof.Machine

open Sys2Proof

/-! ## Memory at the memory-side cache (R162, R201) -/

/-- Is an address of HBM that a host may reach? -/
def State.hbmMapped (s : State) (pa : Nat) : Bool := isHbm pa && !s.dieDead pa

/-- Bytes within one granule written from outside (R201, R344): the home line is cleaned and invalidated, and the bytes enter at the
memory-side cache. Bytes for part of a poisoned granule are lost, which is reported for the context `who`, or for none; the line
leaves its slice all the same, and a region that tracks it meets a conflict (R202, R204). -/
def State.enterGranule (s : State) (who : Option Nat) (pa : Nat) (bs : List Byte) : State :=
  let s := s.l2Drop (pa / 64)
  if s.poisoned pa && bs.length < 64 then s.memError 2 who pa
  else
    let s := s.clearPoison pa
    let s : State := { s with mem := { s.mem with home := Mem.write s.mem.home pa bs, side := Mem.write s.mem.side pa bs } }
    s.mscDirty pa

/-- Bytes written from outside at a physical address: HBM, or an on-chip window of kind 0 or 5; other addresses discard them (R155). What
waits on a counter is tested at each granule (R299). -/
def State.enterPhys (s : State) (who : Option Nat) (pa : Nat) (bs : List Byte) : State :=
  (granules (bs.length + 1) pa bs).foldl
    (fun s g =>
      if s.hbmMapped g.1 then (s.enterGranule who g.1 g.2).settle
      else if isWindowPA g.1 && (windowKind g.1 == 0 || windowKind g.1 == 5) then (s.writeGranule who false g.1 g.2).settle
      else s) s

/-- Bytes of a granule or window as the host reads them. What a poisoned granule gives is `lost`. -/
def State.hostBytes (s : State) (pa n : Nat) (lost : List Byte) : List Byte :=
  if s.hbmMapped pa then (if s.poisoned pa then sliceBytes lost 0 n else Mem.read s.mem.side pa n)
  else if isWindowPA pa then (if s.poisoned pa then sliceBytes lost 0 n else s.physWindow pa n)
  else if isDeviceReg pa then s.regBytes pa n
  else List.replicate n 0

/-- Does an access meet the range of a purge that is under way (R287)? -/
def State.purging (s : State) (pa n : Nat) : Bool :=
  s.pkg.purgeBusy && decide (pa < s.pkg.purgeBase.toNat + s.pkg.purgeLen.toNat) && decide (s.pkg.purgeBase.toNat < pa + n)

/-! ## The address-range table (R286, R287) -/

/-- The subject names the entry and, as its item, the word. -/
def execAddressRangeEntryWrite (s : State) : Outcome :=
  s.written (0x7F0000200000 + 32 * (s.subject.unit % 64) + 8 * (s.subject.item % 4)) [s.subject.value] fun s => s.writeRange (s.subject.unit % 64) (s.subject.item % 4) s.subject.value

/-! ## Purge (R287) -/

/-- The subject gives base and length. -/
def execL2Purge (s : State) : Outcome :=
  s.written 0x7F0000200800 [s.subject.value, s.subject.value2] fun s => s.purge s.subject.value s.subject.value2

def execL2PurgeDone (s : State) : Outcome :=
  s.enabled s.pkg.purgeBusy fun s => { s with pkg := { s.pkg with purgeBusy := false } }

/-! ## Invalidation of translations (R158, R290) -/

/-- The subject names die and context; its values are the address and the length. -/
def execTranslationInvalidation (s : State) : Outcome :=
  s.written (0x7F0000301000 + 4096 * (s.subject.unit % 2)) [BitVec.ofNat 64 (s.subject.item % 64), s.subject.value, s.subject.value2] fun s =>
    s.invalidate (s.subject.unit % 2) (s.subject.item % 64) s.subject.value s.subject.value2

def PageMap.meets (p : PageMap) (va len : Nat) : Bool := decide (p.va < va + len) && decide (va < p.va + p.len)

/-- The ranges that the issue checks of a command covered, which it holds: a vocabulary header and a counter are among them. Those in a peer window lie
beyond the memory space and meet no range of it. -/
def Work.pages (w : Work) : List PageMap :=
  match w with
  | .cpy src dst _ ctr _ _ => src.pages ++ dst.pages ++ ctr.toList
  | .cpyt _ ps dst ctr _ _ => ps ++ dst.pages ++ ctr.toList
  | .tkn _ ps _ voc _ _ _ ctr => { va := voc, len := 64, pa := 0, host := false } :: (ps ++ ctr.toList)
  | .dtkn _ ps _ voc _ _ _ _ _ bs os => { va := voc, len := 64, pa := 0, host := false } :: (ps ++ bs ++ os)
  | _ => []

/-- Every command that is queued or running, with its logical core. -/
def State.allCommands (s : State) : List (Nat × Cmd) :=
  (s.lcores.flatMap fun e => (e.2.matq ++ e.2.copyq).map fun k => (e.1, k)) ++
  (s.streamers.flatMap fun e => (e.2.queues.flatMap fun q => q) ++ e.2.running) ++
  ((s.tokenisers ++ s.detokenisers).flatMap fun e => e.2.queue ++ e.2.running.toList)

/-- Is a command outstanding whose checks covered a range of a context? -/
def State.rangeInUse (s : State) (ctx va len : Nat) : Bool :=
  s.allCommands.any fun e =>
    (s.launch (launchOfLc e.1)).ctx == ctx && e.2.work.pages.any fun p => p.meets va len

def execInvalidationDone (s : State) : Outcome :=
  let die := s.subject.unit
  match Tbl.find s.pkg.invals die with
  | none => .next s
  | some (ctx, va, len, done) =>
    s.enabled (!done && !s.rangeInUse ctx va.toNat len.toNat) fun s =>
      { s with pkg := { s.pkg with invals := Tbl.set s.pkg.invals die (ctx, va, len, true) } }

/-- The subject gives the address of the register and the word; `yes` says that the management core writes it. -/
def execRegisterWrite (s : State) : Outcome :=
  match s.pkg.power with
  | .active => .next (s.writeReg s.subject.yes s.subject.value.toNat s.subject.value2).settle
  | .gated => .next (s.hold s.subject.yes s.subject.value.toNat (leBytes 8 s.subject.value2.toNat))
  | .off => .next s
  | .rom => .next s

/-! ## Host accesses (R200, R201, R351) -/

/-- The physical address of `n` bytes of a host access: BAR 0 shows the device registers, BAR 2 its window on HBM, CXL.mem HBM, over a link that
trained CXL (R350, R351), and path 4 the rest of the physical map, which the host reaches by a way that the manual does not name (R155; log
21, DEDUCED). None for what none of them maps. -/
def State.hostAddress (s : State) (n : Nat) : Option Nat :=
  let v := s.subject.value.toNat
  if s.subject.unit = 0 then (if v + n ≤ 2 ^ 32 then some (0x7F0000000000 + v) else none)
  else if s.subject.unit = 2 then (if v + n ≤ 2 ^ s.pkg.bar2 then some (s.pkg.window.toNat + v) else none)
  else if s.subject.unit = 4 then (if 0x8000000000 ≤ v ∧ v + n ≤ 2 ^ 64 then some v else none)
  else if 0 < s.pkg.link.cxl && v + n ≤ 0x8000000000 then some v else none

/-- A write of bytes from outside that belongs to no context, or of the management core, granule by granule: registers word by word, memory at
the memory-side cache; any other address discards its bytes (R155). -/
def State.outsideWrite (s : State) (mgmt : Bool) (pa : Nat) (bs : List Byte) : State :=
  (granules (bs.length + 1) pa bs).foldl
    (fun s g =>
      if isDeviceReg g.1 then (s.regWords g.1 g.2).foldl (fun s e => s.writeReg mgmt e.1 e.2) s else s.enterPhys none g.1 g.2) s

/-- The registers of the host mailbox and its doorbell, which the ROM serves (R360, R361). -/
def isMailbox (pa n : Nat) : Bool := decide (0x7F0000001000 ≤ pa) && decide (pa + n ≤ 0x7F0000003010)

/-- A write from outside in the power state of the package: in the ROM only the mailbox is there. -/
def State.arriveWrite (s : State) (pa : Nat) (bs : List Byte) : Outcome :=
  match s.pkg.power with
  | .active => if s.purging pa bs.length then .next s else .next (s.outsideWrite false pa bs).settle
  | .gated => .next (s.hold false pa bs)
  | .off => .next s
  | .rom => s.enabled (isMailbox pa bs.length) fun s => s.outsideWrite false pa bs

def execHostWrite (s : State) : Outcome :=
  match s.hostAddress s.subject.data.length with
  | some pa => s.arriveWrite pa s.subject.data
  | none => .next s

/-- A RoCEv2 or Ultra Ethernet write reaches device memory (R357): the subject's value is its physical address. -/
def execEthernetWrite (s : State) : Outcome :=
  if isHbm s.subject.value.toNat then s.arriveWrite s.subject.value.toNat s.subject.data else .next s

/-- Bytes that the outside reads: as the memory-side cache holds them, which fetches what it has not; `lost` is what a poisoned granule
gives. -/
def State.outsideRead (s : State) (pa n : Nat) (lost : List Byte) : State :=
  let gs := pieces pa n
  let bs := gs.flatMap fun g => s.hostBytes g.1 g.2 (lost.drop (g.1 - pa))
  let s := gs.foldl (fun s g => if s.hbmMapped g.1 then s.mscRequest (g.1 / 2048) (granuleHalves g.1) else s) s
  { s with pkg := { s.pkg with hostData := bs } }

/-- Is a read from outside served in the power state of the package? In the ROM only the mailbox is there. -/
def State.serves (s : State) (pa n : Nat) : Bool :=
  match s.pkg.power with
  | .active => !s.purging pa n
  | .gated => !s.purging pa n
  | .rom => isMailbox pa n
  | .off => false

/-- The item of the subject is the number of bytes; its data are what a poisoned granule gives. -/
def execHostRead (s : State) : Outcome :=
  let n := s.subject.item
  match s.hostAddress n with
  | some pa => s.enabled (s.serves pa n) fun s => s.outsideRead pa n s.subject.data
  | none => .next s

/-- A Ranvik port. -/
def State.rport (s : State) (p : Nat) : RPort := Tbl.get .fresh s.pkg.ranvik p
def State.modRPort (s : State) (p : Nat) (h : RPort → RPort) : State :=
  { s with pkg := { s.pkg with ranvik := Tbl.set s.pkg.ranvik p (h (s.rport p)) } }

/-- At the wake the calibration lane of every port is to be calibrated again (R17). -/
def State.uncalibrated (s : State) : State :=
  let s := (List.range 4).foldl (fun s p => s.modPort p fun x => { x with calibrated := false }) s
  (List.range 36).foldl (fun s p => s.modRPort p fun x => { x with calibrated := false }) s

/-- The package leaves the idle state; the writes that it holds are applied in arrival order, each as the one who made it (R362). -/
def State.wake (s : State) : State :=
  let t : State := ({ s with pkg := { s.pkg with power := .active, heldWrites := [] } } : State).uncalibrated
  (s.pkg.heldWrites.foldl (fun t w => t.outsideWrite w.1 w.2.1.toNat w.2.2) t).settle

/-- What arrives at a Ranvik or Ethernet port: while the clock is gated it ends the idle state first (R362). -/
def State.arrival (s : State) (h : State → State) : Outcome :=
  s.enabled (s.pkg.power == .active || s.pkg.power == .gated) fun s => h (if s.pkg.power = .gated then s.wake else s)

/-- A RoCEv2 read of device memory (R357), an arrival that ends the idle state (R362); the reply's bytes stand where those of a host read do. -/
def State.ethernetRead (s : State) (pa n : Nat) : Outcome :=
  s.enabled (decide (pa + n ≤ 0x8000000000) && s.serves pa n) fun s =>
    (if s.pkg.power = .gated then s.wake else s).outsideRead pa n s.subject.data

/-! ## Accesses of the management core (R16, R155) -/

/-- May the management core reach a physical address now: an on-chip window or a device register? -/
def State.mgmtReaches (s : State) (pa : Nat) : Bool :=
  (s.pkg.power == .active || s.pkg.power == .gated) && (isWindowPA pa || isDeviceReg pa)

/-- It reads `n` bytes; `lost` is what a poisoned granule gives. -/
def State.mgmtRead (s : State) (pa n : Nat) (lost : List Byte) : State :=
  { s with pkg := { s.pkg with mgmtData := (pieces pa n).flatMap fun g => s.hostBytes g.1 g.2 (lost.drop (g.1 - pa)) } }

/-- It writes bytes; while the clock is gated they are held as a write of the host is. -/
def State.mgmtWrite (s : State) (pa : Nat) (bs : List Byte) : State :=
  if s.pkg.power = .gated then s.hold true pa bs else (s.outsideWrite true pa bs).settle

/-! ## The mailbox (R360, R361) -/

/-- The host's doorbell is a write of the host: while the clock is gated it is held, and wakes the package (R362). -/
def execHostMailboxDoorbell (s : State) : Outcome :=
  match s.pkg.power with
  | .off => .next s
  | .gated => .next (s.hold false 0x7F0000003000 (leBytes 8 s.subject.value.toNat))
  | _ => .next (s.ringIn s.subject.value)

/-- What an attestation report signs: nonce, measurement of the running image, serial number, version of that image (R361). -/
def State.reportBody (s : State) (nonce : List Byte) : List Byte :=
  sliceBytes nonce 0 48 ++ leBytes 48 (Config.sha384 s.pkg.image.body).toNat ++ leBytes 16 Config.serialNumber.toNat ++
    leBytes 8 (Config.imageVersion s.pkg.image.body).toNat

/-- The bytes of a reply. -/
def State.mailBytes (s : State) (r : MailReply) : List Byte :=
  match r with
  | .bytes data => data
  | .attestation nonce => s.reportBody nonce ++ leBytes 96 (Config.identitySign (s.reportBody nonce)).toNat
  | .failure code => [code]

def mailFails (r : MailReply) : Bool := match r with | .failure _ => true | _ => false

/-- The management core writes bytes from the start of the device-to-host page on, at most 4 KiB; the rest of the page stands (R360). -/
def State.postMail (s : State) (bs : List Byte) : State :=
  let bs := bs.take 4096
  let word (m : Tbl Word) (i : Nat) : Tbl Word :=
    let new := (bs.drop (8 * i)).take 8
    Tbl.set m i (leWord (new ++ (leBytes 8 (Tbl.get 0 m i).toNat).drop new.length))
  { s with pkg := { s.pkg with mailOut := (List.range ((bs.length + 7) / 8)).foldl word s.pkg.mailOut } }

/-- Hendeotte posts a reply; out of the ROM there is only the failure code. -/
def execDeviceMailboxDoorbell (s : State) : Outcome :=
  let r := s.subject.mail
  s.enabled (s.pkg.power != .off && (s.pkg.power == .rom) == mailFails r) fun s =>
    let t := s.postMail (s.mailBytes r)
    ({ t with pkg := { t.pkg with bellOut := s.subject.value, request := false } } : State).raise 0

end Sys2Proof.Machine
end

