-- ==== Sys2Proof/Machine/Management.lean ====
section
/-! DEFINITION. Memory maintenance, Hendeotte, the clock and the power states (R18, R20, R158, R161, R163, R291, R313, R345 to R349, R351,
R361 to R363). -/

namespace Sys2Proof.Machine

open Sys2Proof

/-! ## Errors met in DRAM (R163, R347) -/

/-- A corrected error is counted for its frame; a frame at the threshold gets a kind 3 entry and starts again. A full table gives up the
frame counted least recently. -/
def State.countSoft (s : State) (pa : Nat) : State :=
  let st := stackOf pa
  let l := Tbl.get [] s.mem.soft st
  let n := s.softCount pa + 1
  let rest := l.filter fun e => e.1 ≠ pa / 65536
  let keep := if rest.length < 4096 then rest else rest.drop 1
  let put (l : List (Nat × Nat)) (s : State) : State := { s with mem := { s.mem with soft := Tbl.set s.mem.soft st l } }
  let s := put (keep ++ [(pa / 65536, n)]) s
  if s.pkg.softLimit ≤ n then put keep (s.faultEntry 3 none false pa) else s

/-- What a read of a granule of DRAM met. -/
def State.ecc (s : State) (pa : Nat) (f : ScrubFinding) : State :=
  match f with
  | .clean => s
  | .corrected => s.countSoft pa
  | .uncorrectable => s.setPoison pa

/-- The scrubber of a stack reads the granule at which its pass stands, the subject's value, and the pass goes on at the granule of `value2`;
its order is Hendeotte's (R17, R19). A correction is written back unless a newer write came (the subject's `yes`), and changes no value; an
uncorrectable error is reported, the granule's bytes are left as they are (R18), and it is marked poisoned in every memory that holds it, as R163
has it of any uncorrectable error (log 21, DEDUCED). -/
def execScrub (s : State) : Outcome :=
  let pa := s.subject.value.toNat / 64 * 64
  let st := stackOf pa
  let due := match Tbl.find s.pkg.scrubAt st with | some g => g == pa / 64 | none => true
  s.enabled (s.pkg.power == .active && isHbm pa && due) fun s =>
    let s : State := { s with pkg := { s.pkg with scrubAt := Tbl.set s.pkg.scrubAt st (s.subject.value2.toNat / 64) } }
    match s.subject.finding with
    | .uncorrectable => (s.setPoison pa).faultEntry 4 none false pa
    | f => s.ecc pa f

/-- The halves of a 2 KiB line that the memory-side cache holds. -/
def State.mscValid (s : State) (l : Nat) : BitVec 64 := (s.mscLine l).elim 0 fun e => e.valid

/-- The stack controller fills the halves that the subject's value names in the 2 KiB line of its unit: a line that is absent, with the predicted
sectors, or halves that a resident line lacks (R161). Its finding is about granule `item` of the line, if DRAM was read for that
(R163). An access whose own step reads DRAM meets the errors of such a fill before it, and no other (log 21, DESIGN CHOICE). -/
def execMscMissFill (s : State) : Outcome :=
  let l := s.subject.unit
  s.enabled (s.pkg.power == .active && isHbm (2048 * l) && ((s.mscLine l).isNone || s.subject.value &&& ~~~s.mscValid l != 0)) fun s =>
    let t := s.mscRequest l s.subject.value
    let pa := 2048 * l + 64 * (s.subject.item % 32)
    if t.mscValid l &&& ~~~s.mscValid l &&& granuleHalves pa = 0 then t else t.ecc pa s.subject.finding

/-- A walker of a die begins a walk for a miss: one of 64, unless one makes a walk for that page already, which the miss then joins (R158). The
walk that an instruction's own access makes begins and ends within its step. -/
def State.walkStart (s : State) (die ctx va : Nat) : Outcome :=
  let l := Tbl.get [] s.net.walks die
  s.enabled (s.pkg.power == .active && decide (die < 2) && decide (l.length < 64) && !l.contains (ctx, va / 65536)) fun s =>
    { s with net := { s.net with walks := Tbl.set s.net.walks die (l ++ [(ctx, va / 65536)]) } }

/-- A walker completes its walk and is free; the page goes to the core whose miss started it, and a walk that fails installs nothing: the access
that missed raises its fault (R158). -/
def execTranslationWalk (s : State) : Outcome :=
  let p := s.subject.unit
  let l := Tbl.get [] s.net.walks (dieOf p)
  let w := (s.subject.item % 64, s.subject.value.toNat / 65536)
  s.enabled (s.pkg.power == .active && decide (p < 4096) && l.contains w) fun s =>
    let s : State := { s with net := { s.net with walks := Tbl.set s.net.walks (dieOf p) (l.erase w) } }
    match s.walk (s.subject.item % 64) s.subject.value.toNat with
    | .ok t => s.noteTrans p t
    | _ => s

/-! ## Page retirement (R291, R346) -/

/-- A bad-page entry. -/
def badPage (cause pa : Nat) : Word := BitVec.ofNat 64 (2 ^ 63 + cause * 2 ^ 60 + pa / 65536 * 65536)

/-- A frame is retired unless it is listed; with a full list it is reported only. -/
def State.retireFrame (s : State) (cause pa : Nat) : State :=
  let w := badPage cause pa
  let same (x : Word) : Bool := fld x 38 16 == fld w 38 16
  if s.pkg.badPages.any same then s
  else if s.pkg.badPages.length < 4096 then
    { s with pkg := { s.pkg with badPages := s.pkg.badPages ++ [w], told := s.pkg.told ++ [w] } }
  else { s with pkg := { s.pkg with unrecorded := s.pkg.unrecorded ++ [w] } }

/-- The cause of a fault-address kind, none for an SRAM error. -/
def causeOf (kind : Nat) : Option Nat := if kind = 1 ∨ kind = 2 then some 1 else if kind = 3 then some 2 else if kind = 4 then some 3 else none

/-- Hendeotte takes the oldest entries of the fault-address queue, `n` of them. -/
def State.drainFaults (s : State) : Nat → State
  | 0 => s
  | n + 1 =>
    let w := (Tbl.get (0, 0) s.pkg.fqRing (s.pkg.fqHead.toNat % 256)).1
    let pa := fld w 47 0
    let s := match causeOf (fld w 62 60) with
      | some c => if isHbm pa then s.retireFrame c pa else s
      | none => s
    ({ s with pkg := { s.pkg with fqHead := s.pkg.fqHead + 1 } } : State).drainFaults n

def execPageRetirement (s : State) : Outcome :=
  s.enabled (s.pkg.power != .off && s.pkg.power != .rom) fun s => s.drainFaults (s.pkg.fqTail - s.pkg.fqHead).toNat

/-! ## Replicas (R348, R349) -/

/-- Replica count of a set word, 0 while it is not valid. -/
def replicaCount (w : Word) : Nat := if w.getLsbD 63 && (fld w 33 32 == 2 || fld w 33 32 == 3) then fld w 33 32 else 0

/-- The contexts of this device in the set of a context. -/
def State.replicas (s : State) (ctx : Nat) : List Nat :=
  (s.contexts.filter fun e => e.2.repSet == (s.context ctx).repSet).map fun e => e.1

/-- Posts of replicas on other devices: step and digest, sixteen bytes each. -/
def farPosts : Nat → List Byte → List (Word × Word)
  | 0, _ => []
  | n + 1, b => (leWord (b.take 8), leWord ((b.drop 8).take 8)) :: farPosts n (b.drop 16)

/-- The digest that more than half of the posts share. -/
def majority (l : List Word) : Option Word := l.find? fun d => decide (l.length < 2 * (l.filter fun x => x == d).length)

/-- The digest that a context has posted for a step under its set word, if that is still to be decided. -/
def Context.undecided (x : Context) (step : Word) : Option Word :=
  (x.posts.find? fun p => p.set == x.repSet && p.step == step && !p.decided).map fun p => p.digest

/-- A step is decided for a context: with the majority its post goes, and its hold with it; any other stands decided, and holds on (R348). -/
def Context.decideStep (x : Context) (step : Word) (winner : Option Word) : Context :=
  let this (p : Post) : Bool := p.set == x.repSet && p.step == step && !p.decided
  { x with posts := if x.undecided step == winner then x.posts.filter fun p => !this p
                    else x.posts.map fun p => if this p then { p with decided := true } else p }

/-- Every replica of the set of the subject's context has posted the step of the subject's value: the holds that the majority's posts placed are released, the
others stand, and the host is told by vector 2. A post of one step holds and is decided by itself, whatever later steps its context has posted. The
subject's data are the posts of replicas elsewhere. With the subject's `yes`, the driver has asked Hendeotte to release the hold of the context. -/
def execReplicaDecision (s : State) : Outcome :=
  let ctx := s.subject.unit
  let step := s.subject.value
  if s.subject.yes then s.enabled (s.context ctx).isHeld fun s => s.modContext ctx Context.unhold
  else
    let mine := s.replicas ctx
    let posted := mine.map fun c => (s.context c).undecided step
    let far := farPosts (s.subject.data.length / 16) s.subject.data
    s.enabled (replicaCount (s.context ctx).repSet != 0 && mine.length + far.length == replicaCount (s.context ctx).repSet &&
        posted.all (fun d => d.isSome) && far.all fun x => x.1 == step) fun s =>
      let winner := majority (posted.filterMap id ++ far.map fun x => x.2)
      (mine.foldl (fun s c => s.modContext c fun x => x.decideStep step winner) s).raise 2

/-- A replica has not posted within the timeout of the first post of a step: vector 2 is raised, the report's bytes come with the subject, and
the holds stand. The subject's value is the step, and its item the number of posts of it that came from other devices, the first of the step among
them it may be. -/
def execReplicaTimeout (s : State) : Outcome :=
  let ctx := s.subject.unit
  let n := ((s.replicas ctx).filter fun c => ((s.context c).undecided s.subject.value).isSome).length
  s.enabled (replicaCount (s.context ctx).repSet != 0 && (s.context ctx).repTimeout != 0 && decide (0 < n + s.subject.item) &&
      decide (n + s.subject.item < replicaCount (s.context ctx).repSet))
    fun s => (s.postMail s.subject.data).raise 2

/-! ## The clock (R9, R313) -/

/-- A firing that waits has waited one cycle more (R47). -/
def Firing.aged (g : Firing) : Firing := if g.st = .waiting then { g with waited := g.waited + 1 } else g

/-- A cycle of the arithmetic clock: CYCLE advances, every waiting firing has waited one cycle more (R47), and each core may issue again (R23). -/
def execArithmeticClockCycle (s : State) : Outcome :=
  s.enabled (s.pkg.power == .active) fun s =>
    { s with cycle := s.cycle + 1, polled := false, f := s.f.aged, firings := Tbl.mapVals (fun _ g => g.aged) s.firings,
             pcores := Tbl.mapVals (fun _ p => { p with ran := false }) s.pcores }

/-- Core `p` counts a cycle that the others have not counted: there is no machine-wide time base (R10; log 5). -/
def State.coreCycle (s : State) (p : Nat) : State :=
  let age (g : Firing) : Firing := if (s.lc (lcOf g.key)).pcore = p then g.aged else g
  ({ s with f := age s.f, firings := Tbl.mapVals (fun _ g => age g) s.firings } : State).modPCore p fun x =>
    { x with skew := x.skew + 1, ran := false }

/-! ## Power (R20, R361 to R363) -/

/-- The package without power: the flash keeps the firmware image and the bad-page list, and host memory, which lies outside, stands. The
agenda of other agents stands. A port whose data lane had failed has its spare lane again (log 20, DESIGN CHOICE: R19 says 'from then on' and R20 that
nothing else keeps its state). -/
def State.unpowered (s : State) : State :=
  { State.reset with
    pkg := { Package.fresh with power := .off, badPages := s.pkg.badPages, flash := s.pkg.flash },
    mem := { Memories.empty with host := s.mem.host }, agenda := s.agenda, subject := s.subject }

def execPowerOff (s : State) : Outcome := s.enabled (s.pkg.power != .off) fun s => s.unpowered

/-- The checks of the boot ROM: the hash of the image's key, and its signature over the hash of its body (R361). -/
def bootVerifies (x : FlashImage) : Bool :=
  decide (Config.sha384 x.key = Config.fusedKeyHash) && Config.ecdsaVerify x.key (Config.sha384 x.body) x.signature

/-- Bring-up: a failed verification leaves the management core in its ROM; otherwise the image of the flash runs, the presence map and the
failed stacks are noted, every core's CYCLE is 0 (R313), and the mailbox reports ready with the bytes of the subject (R361, R363). -/
def execPowerOn (s : State) : Outcome :=
  s.enabled (s.pkg.power == .off) fun s =>
    let b := s.subject.boot
    if bootVerifies s.pkg.flash then
      let t : State :=
        { s with pkg := { s.pkg with power := .active, absent := b.absentCores, deadStacks := b.failedStacks, image := s.pkg.flash },
                 cycle := 0, pcores := [] }
      (t.postMail s.subject.data).raise 0
    else { s with pkg := { s.pkg with power := .rom } }

/-- The pairing tag of a port. -/
def Port.tag (x : Port) : Option (BitVec 32) := if x.pairing.getLsbD 63 then some (x.pairing.truncate 32) else none

/-- The context through which a port reaches its rings: the one that holds the port's tag, live launch or not; without one, context 0
(log 20, DEDUCED). -/
def State.ringContext (s : State) (x : Port) : Nat :=
  match x.tag with
  | some t => ((s.contexts.find? fun e => e.2.tag == some t).map fun e => e.1).getD 0
  | none => 0

/-- Has the doorbell counter of a port risen for an entry that is still to be sent (R359)? -/
def State.transmitDue (s : State) (x : Port) : Bool :=
  match s.unitRead (s.ringContext x) x.doorbell.toNat 8 with
  | .ok b => decide (x.txSent < countOf (leWord b))
  | .error _ => false

/-- Is a port carrying traffic: a flit, a frame's notice on its way, or an entry of a transmit ring to send? -/
def State.portsBusy (s : State) : Bool := !s.net.flits.isEmpty || s.pkg.ports.any fun e => !e.2.notices.isEmpty || s.transmitDue e.2

/-- After 1 ms with no launch live, no command outstanding, no head eligible and no traffic, the arithmetic clock is gated. -/
def execIdleEntry (s : State) : Outcome :=
  s.enabled (s.pkg.power == .active && s.launches.isEmpty && s.allCommands.isEmpty && s.eligible.isEmpty && !s.portsBusy) fun s =>
    { s with pkg := { s.pkg with power := .gated } }

/-- A write that is held, or an arrival at a port (the subject's `yes`), wakes the package. -/
def execWake (s : State) : Outcome :=
  s.enabled (s.pkg.power == .gated && (s.subject.yes || !s.pkg.heldWrites.isEmpty)) State.wake

/-- Past the limit of the cold plate every context is held. -/
def execOverTemperature (s : State) : Outcome :=
  s.enabled (s.pkg.power == .active || s.pkg.power == .gated) fun s =>
    (List.range 64).foldl (fun s c => s.modContext c fun x => { x with held := true }) s

/-- At the critical temperature the board is signalled to remove power. -/
def execCriticalTemperature (s : State) : Outcome :=
  s.enabled (s.pkg.power != .off) fun s => { s with pkg := { s.pkg with removePower := true } }

/-- Telemetry or wear monitoring meets an alarm: MSI-X vector 3. -/
def execTelemetryAlarm (s : State) : Outcome := s.enabled (s.pkg.power == .active || s.pkg.power == .gated) fun s => s.raise 3

end Sys2Proof.Machine
end

