-- ==== Sys2Proof/Machine/Polynomial.lean ====
section
/-! DEFINITION. The product-polynomial accumulator (R138 to R147). Candidates are exact fractions. -/

namespace Sys2Proof.Machine

open Sys2Proof

/-! ## Values -/

/-- An exact fraction: numerator over a positive denominator. -/
abbrev Frac := Int × Nat

/-- The fraction of a finite f32 pattern. -/
def fracOf (p : BitVec 32) : Frac :=
  match Fmt.f32.value p.toNat with
  | .fin n d => (n, d)
  | _ => (0, 1)

def finiteF32 (p : BitVec 32) : Bool := (Fmt.f32.value p.toNat).isFinite

def Frac.add (x y : Frac) : Frac := if x.2 = y.2 then (x.1 + y.1, x.2) else (x.1 * y.2 + y.1 * x.2, x.2 * y.2)
def Frac.mul (x y : Frac) : Frac := (x.1 * y.1, x.2 * y.2)
def Frac.sub (x y : Frac) : Frac := Frac.add x (-y.1, y.2)
/-- x / y for y ≠ 0. -/
def Frac.div (x y : Frac) : Frac := (if y.1 < 0 then -(x.1 * y.2) else x.1 * y.2, x.2 * y.1.natAbs)
/-- |x| ≤ |y|. -/
def Frac.absLe (x y : Frac) : Bool := decide (x.1.natAbs * y.2 ≤ y.1.natAbs * x.2)

/-- The value of a coefficient in units of 2^-149. -/
def coeffInt (p : BitVec 32) : Int := let f := fracOf p; f.1 * (2 ^ 149 / f.2 : Nat)

/-! ## Rescaling (R141) -/

/-- The accumulator with flags raised on the way, or fault 0x0F. -/
abbrev PolyStep := Except Code (Poly × BitVec 5)

/-- The largest magnitude of a list. -/
def maxAbs (ys : List Frac) : Frac := ys.foldl (fun m y => if Frac.absLe m y then y else m) (0, 1)

/-- The rescaling exponent s. -/
def rescaleBy (m : Frac) : Int :=
  let n := m.1.natAbs
  if n = 0 || (decide (m.2 ≤ n * 2 ^ 32) && decide (n < m.2 * 2 ^ 32)) then 0 else ilog2 n m.2

/-- A stored coefficient: y · 2^−s rounded, every zero held as +0. -/
def storeCoeff (s : Int) (y : Frac) : Res :=
  let r := Fmt.f32.round .rne 0 ((FVal.ofRat y.1 y.2).scale (-s))
  { r with pat := if r.pat % 2 ^ 31 = 0 then 0 else r.pat }

/-- 64 coefficients of which the given ones come first and the rest are +0. -/
def coeffs (l : List Nat) : Vector (BitVec 32) 64 :=
  let l := l ++ List.replicate 64 0
  Vector.ofFn fun i : Fin 64 => BitVec.ofNat 32 (l.getD i.1 0)

/-- A scale exponent in range. -/
def scaleFits (e : Int) : Bool := decide (-(2 ^ 31 : Int) ≤ e) && decide (e ≤ 2 ^ 31 - 1)

/-- Rescales and stores candidates y_0 to y_d'. -/
def Poly.rescale (p : Poly) (e : Int) (ys : List Frac) : PolyStep :=
  let s := rescaleBy (maxAbs ys)
  if !scaleFits (e + s) then .error 0x0F
  else
    let rs := ys.map (storeCoeff s)
    let fl := rs.foldl (fun f r => f ||| r.flags) 0
    .ok ({ p with coeff := coeffs (rs.map fun r => r.pat), degree := BitVec.ofNat 6 (ys.length - 1),
                  scale := BitVec.ofInt 32 (e + s), inexact := p.inexact || fl.getLsbD 0 }, fl)

/-- A nonfinite value has entered: c_0 to c_d' become the default NaN. -/
def Poly.nanFill (p : Poly) (d' : Nat) : PolyStep :=
  .ok ({ p with coeff := coeffs (List.replicate (d' + 1) Fmt.f32.nanPat), degree := BitVec.ofNat 6 d', nonfinite := true },
    flInvalid)

/-- The coefficients within the degree. -/
def Poly.terms (p : Poly) : List (BitVec 32) := p.coeff.toList.take (p.degree.toNat + 1)

/-! ## Factors (R143, R144) -/

/-- y_j = c_j · a0 + c_{j−1} · a1 from the top of a list of integers, `prev` being c_{j−1}. -/
def factorTerms (a0 a1 prev : Int) : List Int → List Int
  | [] => [prev * a1]
  | c :: r => (c * a0 + prev * a1) :: factorTerms a0 a1 c r

/-- pfac: multiplies by (a0 + a1·z). -/
def Poly.factor (p : Poly) (a0 a1 : BitVec 32) : PolyStep :=
  let d := p.degree.toNat
  let d' := if d < 63 then d + 1 else 63
  let q := { p with truncated := p.truncated || decide (63 ≤ d) }
  if finiteF32 a0 && finiteF32 a1 && p.terms.all finiteF32 then
    let ys := (factorTerms (coeffInt a0) (coeffInt a1) 0 (p.terms.map coeffInt)).take (d' + 1)
    q.rescale p.scale.toInt (ys.map fun y => (y, 2 ^ 298))
  else q.nanFill d'

/-- Factors applied in order, with the combined flags. -/
def Poly.factors (p : Poly) (fl : BitVec 5) : List (BitVec 32 × BitVec 32) → PolyStep
  | [] => .ok (p, fl)
  | (a0, a1) :: r =>
    match p.factor a0 a1 with
    | .error e => .error e
    | .ok (q, f) => q.factors (fl ||| f) r

/-- q(x): 24 significant bits, RNE, unbounded exponent; and whether it was inexact (R144). -/
def roundTo24 (x : Frac) : Frac × Bool :=
  if x.1 = 0 then ((0, 1), false)
  else
    let e := ilog2 x.1.natAbs x.2
    let (n, d) := scale2 x.1.natAbs x.2 (23 - e)
    let m := roundNat .rne 0 false n d
    let v := scale2 m 1 (e - 23)
    ((if x.1 < 0 then -(v.1 : Int) else v.1, v.2), decide (n % d ≠ 0))

/-- The quotient coefficients of a division: each is q((c − small · previous) / large). -/
def quotients (large small prev : Frac) : List Frac → List Frac × Bool
  | [] => ([], false)
  | c :: r =>
    let y := roundTo24 (Frac.div (Frac.sub c (Frac.mul small prev)) large)
    let t := quotients large small y.1 r
    (y.1 :: t.1, y.2 || t.2)

/-- pdiv: divides out (a0 + a1·z), forward when |a0| ≥ |a1|, else backward. -/
def Poly.divide (p : Poly) (a0 a1 : BitVec 32) : PolyStep :=
  let d := p.degree.toNat
  let zero (a : BitVec 32) : Bool := (Fmt.f32.value a.toNat).isZero
  if p.truncated || d = 0 || (zero a0 && zero a1) then .error 0x0F
  else if !finiteF32 a0 || !finiteF32 a1 then p.nanFill (d - 1)
  else
    let fwd := Frac.absLe (fracOf a1) (fracOf a0)
    let read := if fwd then p.terms.take d else p.terms.drop 1
    if !read.all finiteF32 then p.nanFill (d - 1)
    else
      let cs := read.map fracOf
      let r := if fwd then quotients (fracOf a0) (fracOf a1) (0, 1) cs
        else
          let t := quotients (fracOf a1) (fracOf a0) (0, 1) cs.reverse
          (t.1.reverse, t.2)
      match p.rescale p.scale.toInt r.1 with
      | .error e => .error e
      | .ok (q, fl) =>
        .ok ({ q with inexact := q.inexact || r.2 }, if r.2 then fl ||| flInexact else fl)

/-! ## Images (R145, R146) -/

/-- The 512 bytes of an accumulator. -/
def Poly.image (p : Poly) : List Byte :=
  (p.coeff.toList.flatMap fun c => leBytes 4 c.toNat) ++ leBytes 4 p.scale.toNat ++ [p.degree.zeroExtend 8] ++
  leBytes 1 (flag p.truncated 0 + flag p.inexact 1 + flag p.nonfinite 2) ++ List.replicate 250 0

/-- The accumulator that an image holds, or none when a check of R146 fails. -/
def Poly.ofImage (b : List Byte) : Option Poly :=
  let d := recNat b 260 1
  let fl := recNat b 261 1
  if 63 < d || 7 < fl || (b.drop 262).any fun x => x != 0 then none
  else
    let c (i : Nat) : Nat := let x := recNat b (4 * i) 4; if x % 2 ^ 31 = 0 then 0 else x
    some { coeff := coeffs ((List.range (d + 1)).map c), degree := BitVec.ofNat 6 d, scale := BitVec.ofNat 32 (recNat b 256 4),
           truncated := bit fl 0, inexact := bit fl 1, nonfinite := bit fl 2 }

/-- The sum of a · y over two lists, the second offset by the first's steps: a product of polynomials. -/
def polyMul : List Int → List Int → List Int
  | [], _ => []
  | a :: r, ys =>
    let t := 0 :: polyMul r ys
    let u := ys.map fun y => a * y
    (u.zip t).map (fun e => e.1 + e.2) ++ (if u.length < t.length then t.drop u.length else u.drop t.length)

/-- pconv: multiplies by an image. -/
def Poly.convolve (p q : Poly) : PolyStep :=
  let n := p.degree.toNat + q.degree.toNat
  let d' := min n 63
  let w := { p with truncated := p.truncated || q.truncated || decide (63 < n), inexact := p.inexact || q.inexact,
                    nonfinite := p.nonfinite || q.nonfinite }
  if !(p.terms.all finiteF32 && q.terms.all finiteF32) then w.nanFill d'
  else
    let e := p.scale.toInt + q.scale.toInt
    if !scaleFits e then .error 0x0F
    else
      let ys := (polyMul (p.terms.map coeffInt) (q.terms.map coeffInt)).take (d' + 1)
      w.rescale e (ys.map fun y => (y, 2 ^ 298))

/-! ## The instructions -/

/-- A polynomial instruction that changes the accumulator: fault 0x0E inside an open region (R141). -/
def State.polyStep (s : State) (f : State → PolyStep) : Outcome :=
  s.issue .word fun s => s.outside
    (match f s with
     | .error c => .fault c 0 0
     | .ok (p, fl) => .retire (({ s with f := { s.f with poly := p } } : State).raiseFlags fl))

/-- The f32 pattern of a scalar operand. -/
def State.f32Pattern (s : State) (n : BitVec 6) : BitVec 32 := (s.sreg n).truncate 32

def execPclr (s : State) : Outcome := s.polyStep fun _ => .ok (.one, 0)

def execPfac (a b : BitVec 6) (s : State) : Outcome :=
  s.polyStep fun s => s.f.poly.factor (s.f32Pattern a) (s.f32Pattern b)

/-- pfacv: n factors from two vectors; a count above 128 is fault 0x0F. -/
def execPfacv (d a b : BitVec 6) (s : State) : Outcome :=
  s.polyStep fun s =>
    let n := (s.sreg d).toNat
    if 128 < n then .error 0x0F
    else
      let el (v : BitVec 6) : List (BitVec 32) := (elems 32 (s.vreg (wide v))).map fun x => BitVec.ofNat 32 x
      s.f.poly.factors 0 (((el a).zip (el b)).take n)

def execPdiv (a b : BitVec 6) (s : State) : Outcome :=
  s.polyStep fun s => s.f.poly.divide (s.f32Pattern a) (s.f32Pattern b)

/-- An instruction that reads an image: alignment and memory faults, then the image's own checks, FADDR holding its address. -/
def State.polyImage (s : State) (a : BitVec 6) (f : Poly → Poly → PolyStep) : Outcome :=
  s.issue .word fun s => s.outside
    (match s.loadAt (s.sreg a) 512 64 true with
     | .stop e => e
     | .ok b t =>
       match Poly.ofImage b with
       | none => .fault 0x0F (s.sreg a) 0
       | some q =>
         match f t.f.poly q with
         | .error c => .fault c 0 0
         | .ok (p, fl) => .retire (({ t with f := { t.f with poly := p } } : State).raiseFlags fl))

def execPconv (a : BitVec 6) (s : State) : Outcome := s.polyImage a fun p q => p.convolve q
def execPld (a : BitVec 6) (s : State) : Outcome := s.polyImage a fun _ q => .ok (q, 0)

def execPst (a : BitVec 6) (s : State) : Outcome :=
  s.issue .word fun s => s.outside
    (match s.storeAt (s.sreg a) 64 s.f.poly.image with
     | .stop e => e
     | .ok t => .retire t)

def execPget (d a : BitVec 6) (s : State) : Outcome :=
  s.compute d (((s.f.poly.coeff.toList.getD ((s.sreg a).toNat % 64) 0)).zeroExtend 64)

def execPstat (d : BitVec 6) (s : State) : Outcome := s.compute d s.f.poly.state

end Sys2Proof.Machine
end

