-- ==== Sys2Proof/Machine/System.lean ====
section
/-! DEFINITION. System registers (R94 to R101), traps, the service firing, halt and waiti (R341). -/

namespace Sys2Proof.Machine

open Sys2Proof

/-! ## System registers -/

/-- The assigned numbers (R94). -/
def assignedNumbers : List Nat :=
  [0x000, 0x001, 0x002, 0x003, 0x004, 0x005, 0x010, 0x011, 0x012, 0x013, 0x014, 0x015, 0x016, 0x020, 0x021, 0x030, 0x031,
   0x032, 0x033, 0x034, 0x035, 0x040]

/-- The numbers that srw may name, and those of them that need service mode (R94). -/
def writableNumbers : List Nat := [0x001, 0x002, 0x003, 0x004, 0x005, 0x030, 0x031, 0x034, 0x040]
def serviceNumbers : List Nat := [0x001, 0x002, 0x003]

/-- The value of a system register; reserved bits read zero. -/
def State.systemReg (s : State) (n : Nat) : Word :=
  let g := s.f
  let c := s.me
  let l := s.job
  if n = 0x000 then s.statusOf g
  else if n = 0x001 then g.cause.zeroExtend 64
  else if n = 0x002 then g.epc.zeroExtend 64
  else if n = 0x003 then g.faddr
  else if n = 0x004 then g.flags.zeroExtend 64
  else if n = 0x005 then g.round.zeroExtend 64
  else if n = 0x010 then BitVec.ofNat 64 (c.index % 2 ^ 16)
  else if n = 0x011 then BitVec.ofNat 64 (l.ncore % 2 ^ 17)
  else if n = 0x012 then BitVec.ofNat 64 (c.pcore % 2 ^ 12)
  else if n = 0x013 then BitVec.ofNat 64 (l.gridX % 2 ^ 17)
  else if n = 0x014 then BitVec.ofNat 64 (l.gridY % 2 ^ 17)
  else if n = 0x015 then BitVec.ofNat 64 (l.ctx % 2 ^ 6)
  else if n = 0x016 then l.launchId.zeroExtend 64
  else if n = 0x020 then s.cycle + (s.pcore c.pcore).skew
  else if n = 0x021 then g.yleft.zeroExtend 64
  else if n = 0x030 then c.seed
  else if n = 0x031 then g.drawc
  else if n = 0x032 then g.regseq
  else if n = 0x033 then g.regstat
  else if n = 0x034 then c.amax.zeroExtend 64
  else if n = 0x035 then g.poly.state
  else s.gstatOf g

/-- The almanac kind of a recorded register (R100, R314). -/
def recordedKind (n : Nat) : Option Nat := if n = 0x020 then some 1 else if n = 0x012 then some 2 else none

/-- Writes a system register: reserved bits are ignored; AMAX keeps no sign bit, a ROUND code above 5 is ignored, and of GSTAT the
discard mask and the count are written (R55, R101, R148, R226). -/
def State.setSystemReg (s : State) (n : Nat) (v : Word) : State :=
  let g := s.f
  if n = 0x001 then { s with f := { g with cause := v.truncate 20 &&& 0xFFF3F } }
  else if n = 0x002 then { s with f := { g with epc := v.truncate 48 } }
  else if n = 0x003 then { s with f := { g with faddr := v } }
  else if n = 0x004 then { s with f := { g with flags := v.truncate 5 } }
  else if n = 0x005 then (if v.toNat % 8 < 6 then { s with f := { g with round := v.truncate 3 } } else s)
  else if n = 0x030 then s.modLc s.myLc fun c => { c with seed := v }
  else if n = 0x031 then { s with f := { g with drawc := v } }
  else if n = 0x034 then s.modLc s.myLc fun c => { c with amax := v.truncate 33 &&& 0x17FFFFFFF }
  else { s with f := { g with gstat := v.truncate 24 &&& 0xFF00FE } }

/-- A number that R94 does not assign is fault 0x01, before the faults of mode and deadline (R95). -/
def execSrr (d : BitVec 6) (n : BitVec 12) (s : State) : Outcome :=
  let k := n.toNat
  if s.f.st = .running && !assignedNumbers.contains k then .next (s.takeFault 0x01 0 0 0)
  else
    s.issue .word fun s =>
      match recordedKind k with
      | none => .retire (s.setSreg d (s.systemReg k))
      | some kind =>
        if s.f.region.isOpen && s.job.det then .fault 0x0E 0 0
        else
          match s.recorded [(kind, s.systemReg k)] with
          | .error e => .ofFlt e
          | .ok (vs, t) => .retire (t.setSreg d (vs.headD 0))

/-- srw: fault 0x01, then 0x05, then 0x0E in an open region for any register but FLAGS (R95). -/
def execSrw (d : BitVec 6) (n : BitVec 12) (s : State) : Outcome :=
  let k := n.toNat
  if s.f.st = .running && !assignedNumbers.contains k then .next (s.takeFault 0x01 0 0 0)
  else if s.f.st = .running && !writableNumbers.contains k then .next (s.takeFault 0x05 0 0 0)
  else
    s.issue { How.word with service := serviceNumbers.contains k } fun s =>
      if s.f.region.isOpen && k != 0x004 then .fault 0x0E 0 0 else .retire (s.setSystemReg k (s.sreg d))

/-! ## Traps (R341) -/

def execTrap (n : BitVec 12) (s : State) : Outcome := s.issue .word fun s => s.outside (.leave (s.trapEntry 0x15 n))
def execBkpt (s : State) : Outcome := s.issue .word fun s => s.outside (.leave (s.trapEntry 0x14 0))

/-- How an instruction issues that only service mode may run. -/
def How.privileged : How := { How.word with service := true }

def execEret (s : State) : Outcome := s.issue .privileged fun s => s.outside s.trapReturn

/-- The physical core stops issuing in both slots. -/
def execHalt (s : State) : Outcome :=
  s.issue .privileged fun s => s.outside (.retire (s.modPCore s.me.pcore fun p => { p with halted := true }))

/-- The wake bit is consumed, or the firing waits until it is set. -/
def execWaiti (s : State) : Outcome :=
  s.issue .word fun s => s.outside
    (if s.me.wake then .retire (s.modLc s.myLc fun c => { c with wake := false }) else .wait s (.need .wake))

end Sys2Proof.Machine
end

