-- ==== Sys2Proof/Machine/Scheduling.lean ====
section
/-! DEFINITION. Dispatch, resumption, the context switch, the yield bound and deadlock probes (R22 to R37, R46, R47, R207, R267, R273, R342).
The subject of a dispatch names the physical core. -/

namespace Sys2Proof.Machine

open Sys2Proof

/-! ## Slots and the context switch (R24, R342) -/

def PCore.slots (p : PCore) : List (Slot × Nat) := [(p.slot0, 0), (p.slot1, 1)]
def PCore.setSlot (p : PCore) (n : Nat) (x : Slot) : PCore := if n = 0 then { p with slot0 := x } else { p with slot1 := x }

/-- The slot that a firing takes: where it is resident, else an empty one, else one whose resident is switched out; of several the one of lower
number (log 17, DESIGN CHOICE: R28 and R342 do not say which). -/
def State.chooseSlot (s : State) (p fk : Nat) : Option Nat :=
  let idle := (s.pcore p).slots.filter fun e => !e.1.busy
  let empty (x : Slot) : Bool := match x.resident with | none => true | some k => (s.firing k).st == .free
  match idle.find? fun e => e.1.resident = some fk with
  | some e => some e.2
  | none =>
    match idle.find? fun e => empty e.1 with
    | some e => some e.2
    | none => idle.head?.map fun e => e.2

/-- Address of the switch record of a firing context (R339). -/
def State.switchVA (s : State) (fk : Nat) : Nat :=
  let lk := lcOf fk
  ((s.context (s.launch (launchOfLc lk)).ctx).switchArea.toNat + 20480 * (2 * (s.lc lk).index + fk % 2)) % 2 ^ 64

/-- The core's own access to a record. -/
def State.switcher (s : State) (fk : Nat) : Asker :=
  let lk := lcOf fk
  { ctx := (s.launch (launchOfLc lk)).ctx, launch := launchOfLc lk, pcore := (s.lc lk).pcore, service := false, fk := none }

/-- A record that cannot be written or read ends the launch with 0x09. -/
def State.switchFault (s : State) (fk : Nat) : State :=
  let va := BitVec.ofNat 64 (s.switchVA fk)
  (s.modFiring fk fun g => { g with cause := 0x09, epc := g.pc.truncate 48, faddr := va }).endLaunch (launchOfLc (lcOf fk)) 0x09

/-- A resident context that is alive is saved to its switch record; `none` when that ended the launch. -/
def State.switchOut (s : State) (fk : Nat) : Except State State :=
  let g := s.firing fk
  if g.st = .free then .ok s
  else
    match s.depositBytes (s.switcher fk) (s.switchVA fk) (s.record g g.pc) with
    | .ok t => .ok (t.modFiring fk fun g => { g with away := true })
    | .error _ => .error (s.switchFault fk)

/-- A context that lives in its record is restored; a priority that ageing raised meanwhile stays raised (R32, R97). -/
def State.switchIn (s : State) (fk : Nat) : Except State State :=
  let g := s.firing fk
  if !g.away then .ok s
  else
    match s.fetchBytes (s.switcher fk) (s.switchVA fk) 20480 with
    | .ok (b, t) => .ok (t.modFiring fk fun g => { g.ofRecord b with away := false, prio := g.prio })
    | .error _ => .error (s.switchFault fk)

/-- A firing takes a slot; what was resident there is switched out, and it is switched in. -/
def State.occupy (s : State) (p n fk : Nat) : Except State State :=
  let old := (if n = 0 then (s.pcore p).slot0 else (s.pcore p).slot1).resident
  let gone : Except State State := match old with | some k => if k = fk then .ok s else s.switchOut k | none => .ok s
  match gone with
  | .error t => .error t
  | .ok t =>
    match t.switchIn fk with
    | .error u => .error u
    | .ok u =>
      let v := u.modPCore p fun x => x.setSlot n { resident := some fk, busy := true }
      .ok (v.modFiring fk fun g => { g with slot := some n })

/-- The logical cores that a physical core hosts, in round robin after the one dispatched last. -/
def State.hosted (s : State) (p : Nat) : List Nat :=
  let ks := (s.lcores.filter fun e => e.2.pcore = p && (s.launch (launchOfLc e.1)).ending.isNone).map fun e => e.1
  let last := (s.pcore p).last
  ks.filter (fun k => decide (last ≤ (s.lc k).index)) ++ ks.filter fun k => decide ((s.lc k).index < last)

/-! ## Queues of pips (R31) -/

/-- A ready actor as a pip (R267). -/
def LCore.actorPip (c : LCore) (launch i : Nat) (a : Actor) : QPip :=
  let ins := (a.specs.filter fun sp => !sp.1).map fun sp => sp.2.1
  let w1 := match ins with
    | [] => 0
    | e :: r =>
      let n := r.foldl min e
      match Tbl.find c.ends n with
      | some x => peerVA c.index 0 (x.ring + 64 * (x.freed % 2 ^ x.logCap))
      | none => 0
  { pip := { w0 := BitVec.ofNat 64 (fld a.code 47 0), w1 := BitVec.ofNat 64 w1, w2 := BitVec.ofNat 64 i, w3 := 0 },
    source := .actor i, launch := launch, prio := 0, pass := 0, age := a.age }

/-- Ready actors in round robin after the one dispatched last, whose number plus one `actorLast` is. -/
def LCore.actorPips (c : LCore) (launch : Nat) : List QPip :=
  let ready := c.actors.filter fun e => e.2.ready
  ((ready.filter fun e => decide (c.actorLast ≤ e.1)) ++ ready.filter fun e => decide (e.1 < c.actorLast)).map
    fun e => c.actorPip launch e.1 e.2

/-- The items of a class that a logical core may take. -/
def State.classItems (s : State) (lk cls : Nat) : List QPip :=
  let c := s.lc lk
  if cls = 1 then c.arrivals
  else if cls = 2 then c.fired
  else if cls = 3 then c.actorPips (launchOfLc lk)
  else if cls = 4 then c.pinned
  else s.taskQueue (clusterOf c.pcore)

/-- A free context of a logical core: with both free, the one of number 0 (log 17, DESIGN CHOICE: R23 does not say which a new firing takes). -/
def State.freeContext (s : State) (lk : Nat) : Option Nat := [0, 1].find? fun n => (s.firing (firingKey lk n)).st = .free

/-- The first item of a class that a logical core can take, with its place in its queue: by priority in classes 4 and 5. -/
def State.candidate (s : State) (lk cls : Nat) (aged : Bool) : Option (QPip × Nat) :=
  let free := (s.freeContext lk).isSome
  leastBy (fun e => (if 4 ≤ cls then 3 - e.1.prio else 0, e.2))
    ((s.classItems lk cls).zipIdx.filter fun e =>
      (free || e.1.isYielded) && (cls != 5 || e.1.launch == launchOfLc lk) && (!aged || decide (1024 ≤ e.1.age)))

/-- What a physical core takes next: an aged item first, then by class; each class over the hosted cores. -/
def State.nextItem (s : State) (p : Nat) : Option (Nat × Nat × QPip × Nat) :=
  let ks := s.hosted p
  let find (aged : Bool) : Option (Nat × Nat × QPip × Nat) :=
    [1, 2, 3, 4, 5].findSome? fun cls => ks.findSome? fun lk => (s.candidate lk cls aged).map fun e => (lk, cls, e.1, e.2)
  match find true with
  | some e => some e
  | none => find false

/-! ## Ageing (R24, R32) -/

/-- A pip or yielded firing that a dispatch passed over; `own` says that the dispatch was from its own queue of class 4 or 5. -/
def QPip.passOver (q : QPip) (own : Bool) : QPip :=
  let q := { q with age := min 1024 (q.age + 1) }
  if own then (if q.pass = 255 then { q with pass := 0, prio := min 3 (q.prio + 1) } else { q with pass := q.pass + 1 }) else q

/-- The priority of a yielded firing is that of its place in class 4, ageing included (R26, R32, R97). -/
def State.matchYielded (s : State) (lk : Nat) (q : QPip) : State :=
  match q.source with
  | .yielded n => s.modFiring (firingKey lk n) fun g => { g with prio := BitVec.ofNat 2 q.prio }
  | _ => s

/-- A dispatch of logical core `lk` took an item of class `cls`, already removed: the others age. -/
def State.ageOthers (s : State) (lk cls : Nat) : State :=
  let launch := launchOfLc lk
  let cl := clusterOf (s.lc lk).pcore
  let s := s.modLc lk fun c =>
    { c with arrivals := c.arrivals.map fun q => q.passOver false, fired := c.fired.map fun q => q.passOver false,
             pinned := c.pinned.map fun q => q.passOver (cls == 4),
             actors := c.actors.map fun e => if e.2.ready then (e.1, { e.2 with age := min 1024 (e.2.age + 1) }) else e }
  let s := (s.lc lk).pinned.foldl (fun s q => s.matchYielded lk q) s
  s.setTaskQueue cl ((s.taskQueue cl).map fun q => if q.launch = launch then q.passOver (cls == 5) else q)

/-- An item leaves its queue. -/
def State.removeItem (s : State) (lk cls i : Nat) (q : QPip) : State :=
  let c := s.lc lk
  if cls = 1 then s.setLc lk { c with arrivals := c.arrivals.eraseIdx i }
  else if cls = 2 then s.setLc lk { c with fired := c.fired.eraseIdx i }
  else if cls = 3 then
    match q.source with
    | .actor n =>
      s.setLc lk { c with actorLast := n + 1,
                          actors := c.actors.map fun e => if e.1 = n then (e.1, { e.2 with ready := false, alive := true, age := 0 }) else e }
    | _ => s
  else if cls = 4 then s.setLc lk { c with pinned := c.pinned.eraseIdx i }
  else
    let cl := clusterOf c.pcore
    s.setTaskQueue cl ((s.taskQueue cl).eraseIdx i)

/-! ## Starting a firing (R25, R97, R149) -/

def Source.isPinned (x : Source) : Bool := match x with | .pinned => true | .entry => true | _ => false

/-- The firing that a pip starts in context `fk`. CAUSE, EPC and FADDR stay as the context holds them, for no dispatch writes them (R96). -/
def State.freshFiring (s : State) (fk : Nat) (q : QPip) : Firing :=
  let lk := lcOf fk
  let c := s.lc lk
  let l := s.launch (launchOfLc lk)
  let old := s.firing fk
  let g : Firing := { Firing.idle fk with
    cause := old.cause, epc := old.epc, faddr := old.faddr, waitNo := old.waitNo,
    st := .running, yleft := l.bound, pc := BitVec.ofNat 64 q.pip.code, drawc := c.starts.zeroExtend 64 <<< 32,
    prio := BitVec.ofNat 2 q.prio, pinned := q.source.isPinned, pip := q.pip, source := q.source, seqno := c.starts }
  let g := (g.setSreg 1 q.pip.w1).setSreg 2 q.pip.w2
  if q.source = .entry then (g.setSreg 4 l.paramVA).setSreg 5 (BitVec.ofNat 64 c.index) else g

/-- The core remembers the logical core it served. -/
def State.remember (s : State) (p lk : Nat) : State := s.modPCore p fun x => { x with last := (s.lc lk).index + 1 }

/-- A dispatch of a pip or a resumption is an acquire at device scope (R37). -/
def State.served (s : State) (p lk : Nat) : State := (s.emptyL1 p).remember p lk

/-- A firing that lost its wait goes on in a slot, or one that yielded, which makes no acquire (R260). -/
def State.goOn (s : State) (p fk : Nat) (acquires : Bool) : State :=
  match s.chooseSlot p fk with
  | none => s
  | some n =>
    match s.occupy p n fk with
    | .error t => t
    | .ok t =>
      let u := t.modFiring fk fun g => { g with st := .running }
      if acquires then u.served p (lcOf fk) else u.remember p (lcOf fk)

/-- A pip starts a firing in a free context. -/
def State.startPip (s : State) (p fk : Nat) (q : QPip) : State :=
  match s.chooseSlot p fk with
  | none => s
  | some n =>
    match s.occupy p n fk with
    | .error t => t
    | .ok t =>
      let u := t.setFiring fk { t.freshFiring fk q with slot := some n }
      (u.modLc (lcOf fk) fun c => { c with starts := c.starts + 1 }).served p (lcOf fk)

/-! ## Resumption (R27) -/

/-- Can a firing take a slot: the one it holds, or a free one? -/
def State.slotFor (s : State) (p fk : Nat) : Bool := (s.firing fk).slot.isSome || (s.chooseSlot p fk).isSome

/-- The firing that a physical core resumes next: over its hosted cores, in the order in which the conditions came to hold, the first that has a
slot or can take one. One that kept its slot needs no other. -/
def State.nextResume (s : State) (p : Nat) : Option Nat :=
  (s.hosted p).findSome? fun lk => ((s.lc lk).resume.map fun n => firingKey lk n).find? fun fk => s.slotFor p fk

/-- Is a resumption due on a physical core? -/
def State.resumeDue (s : State) (p : Nat) : Bool := !(s.pcore p).halted && (s.nextResume p).isSome

def execResumption (s : State) : Outcome :=
  let p := s.subject.unit
  match s.nextResume p with
  | none => .next s
  | some fk =>
    s.enabled (s.resumeDue p) fun s =>
      let lk := lcOf fk
      let s := s.modLc lk fun c => { c with resume := c.resume.erase (fk % 2) }
      let s := s.ageOthers lk 0
      let s := if (s.firing fk).slot.isSome then (s.modFiring fk fun g => { g with st := .running }).served p lk else s.goOn p fk true
      (s.modFiring fk fun g => if g.st = .running then g.reopen else g).settle

/-! ## Dispatch (R31) -/

/-- The context that an item takes: the one of a yielded firing, or a free one. -/
def State.itemContext (s : State) (lk : Nat) (q : QPip) : Nat :=
  match q.source with
  | .yielded n => firingKey lk n
  | _ => firingKey lk ((s.freeContext lk).getD 0)

/-- Is a dispatch due on a physical core, no resumption going before it? -/
def State.dispatchDue (s : State) (p : Nat) : Bool :=
  !(s.pcore p).halted && (s.nextResume p).isNone &&
    (match s.nextItem p with | some e => (s.chooseSlot p (s.itemContext e.1 e.2.2.1)).isSome | none => false)

def execDispatch (s : State) : Outcome :=
  let p := s.subject.unit
  match s.nextItem p with
  | none => .next s
  | some (lk, cls, q, i) =>
    let fk := s.itemContext lk q
    s.enabled (s.dispatchDue p) fun s =>
      let s := (s.removeItem lk cls i q).ageOthers lk cls
      let s := if q.isYielded then (s.matchYielded lk q).goOn p fk false else s.startPip p fk q
      s.settle

/-! ## Faults of the next instruction that stop a run (R29, R207) -/

/-- Instructions that issue with YLEFT 0. -/
def Instr.endsRun (i : Instr) : Bool := match i with | .done => true | .yield _ => true | _ => false

/-- Instructions that close a region. -/
def Instr.closesRegion (i : Instr) : Bool := match i with | .rcommit _ _ => true | .rabort => true | _ => false

/-- Does an instruction raise a fault of encoding or mode first (R79, R95)? -/
def Firing.refuses (g : Firing) (i : Instr) : Bool :=
  match i with
  | .srr _ n => !assignedNumbers.contains n.toNat
  | .srw _ n => !writableNumbers.contains n.toNat || (serviceNumbers.contains n.toNat && !g.service)
  | .eret => !g.service
  | .halt => !g.service
  | _ => false

/-- The next instruction of a firing meets a fault that the firing's own counts decide. -/
def State.limitFault (s : State) (fk : Nat) (met : Firing → Instr → Bool) (code : Code) : Outcome :=
  let t := s.turnTo fk
  if !t.canIssue t.f then .next s
  else
    match t.fetch with
    | (.ok i, u) => if met u.f i && !u.f.refuses i then .next (u.takeFault code 0 0 0) else .next s
    | (.error _, _) => .next s

/-- YLEFT is 0 and the next instruction is neither yield nor done: fault 0x10. -/
def execYieldDeadlineOverrun (s : State) : Outcome :=
  s.limitFault s.subject.unit (fun g i => g.yleft == 0 && !Instr.endsRun i) 0x10

/-- An attempt would retire its 4,097th instruction: fault 0x0E. -/
def execRegionInstructionLimit (s : State) : Outcome :=
  s.limitFault s.subject.unit
    (fun g i => g.region.isOpen && decide (4096 ≤ g.region.retired) && !Instr.closesRegion i && (g.yleft != 0 || Instr.endsRun i)) 0x0E

/-! ## Deadlock probes (R46, R47, R273) -/

/-- The channel end whose mirror lies at a physical address, with its logical core: the arrived count of in end `c` has counter 496 + c,
the space count of out end `c` counter 480 + c (R266). -/
def State.mirrorEnd (s : State) (launch pa : Nat) : Option (Nat × ChanEnd) :=
  (s.coresOf launch).findSome? fun lk =>
    let c := s.lc lk
    (c.ends.find? fun e => c.counterPA ((if e.2.isIn then 496 else 480) + e.1) == pa).map fun e => (lk, e.2)

/-- Does the other context or the core itself wait in the open generation of a team? -/
def State.waitsInTeam (s : State) (lk team : Nat) : Bool :=
  [0, 1].any fun n =>
    let g := s.firing (firingKey lk n)
    g.st == .waiting && (match g.wait with | .barrier t _ => t == team | _ => false)

/-- The members of a team on this device that have not arrived in its open generation, late ones included unless their own tbar waits in it too,
which nothing of theirs would end (R46, R308, R309; log 16, DEDUCED). -/
def State.missing (s : State) (ctx team : Nat) : List Nat :=
  (((s.context ctx).team team).members.filter fun m => !m.arrived && (m.awaited || !s.waitsInTeam m.lc team)).map fun m => m.lc

/-- The logical cores whose action would end the wait of a firing: the producer for data, the consumer for space, and at a barrier each other
member that has not arrived (R46). -/
def State.edges (s : State) (g : Firing) : List Nat :=
  let lk := lcOf g.key
  let launch := launchOfLc lk
  if g.st ≠ .waiting then []
  else
    match g.wait with
    | .counter pa _ _ _ =>
      (match s.mirrorEnd launch pa with | some (_, e) => [lcKey launch e.peer] | none => [])
    | .need (.channelSpace n) =>
      (match Tbl.find (s.lc lk).ends n with | some e => [lcKey launch e.peer] | none => [])
    | .barrier team _ => (s.missing (s.launch launch).ctx team).filter fun k => k != lk
    | _ => []

/-- Where members on other devices that a span-1 team still lacks are to be sought: by way of the group root; from a group root at the devices of
its group not heard of, and by way of the pod root; from the pod root at the devices of its group and the group roots not heard of (R46,
R310). A team of a context without a valid pairing tag has none (R356). -/
def State.lacking (s : State) (ctx team : Nat) : List (BitVec 18) :=
  let t := (s.context ctx).team team
  let d := s.device
  let unheard (l : List (BitVec 18)) : List (BitVec 18) := l.filter fun o => !t.far.contains o
  if !t.span || (s.context ctx).tag.isNone then []
  else if groupRoot d ≠ d then [groupRoot d]
  else if podRoot d = d then unheard (groupOthers d ++ podOthers d)
  else (if t.far.contains d then [] else unheard (groupOthers d)) ++ [podRoot d]

/-- The team in whose barrier a firing waits. -/
def Firing.barrierTeam (g : Firing) : Option Nat :=
  if g.st ≠ .waiting then none else match g.wait with | .barrier t _ => some t | _ => none

/-- Edges of a firing to other devices. -/
def State.farEdges (s : State) (g : Firing) : List (BitVec 18) :=
  match g.barrierTeam with
  | some t => s.lacking (s.launch (launchOfLc (lcOf g.key))).ctx t
  | none => []

/-- The flit of a probe along the edges of a team. -/
def State.probeFlit (s : State) (ctx team : Nat) (key : BitVec 18 × Nat × Nat) (waitNo : Nat) (d : BitVec 18) : Flit :=
  s.flit 4 3 d (.probe ((s.context ctx).tag.getD 0) team ((s.context ctx).team team).rounds key.1 (BitVec.ofNat 16 key.2.1) (BitVec.ofNat 1 key.2.2) waitNo)

/-- The key of a firing: device, logical core, context number. -/
def State.probeKey (s : State) (g : Firing) : BitVec 18 × Nat × Nat := (s.device, (s.lc (lcOf g.key)).index, g.number)

def keyLess (a b : BitVec 18 × Nat × Nat) : Bool :=
  decide (a.1.toNat < b.1.toNat) ||
    (a.1 == b.1 && (decide (a.2.1 < b.2.1) || (a.2.1 == b.2.1 && decide (a.2.2 < b.2.2))))

def Probe.key (p : Probe) : BitVec 18 × Nat × Nat := (p.dev, p.lcore, p.ctxno)

/-- A probe of a key, sent in wait `waitNo` of its owner, along every edge of a firing. -/
def State.sendProbes (s : State) (g : Firing) (key : BitVec 18 × Nat × Nat) (owner : Option Nat) (waitNo : Nat) : State :=
  let ps : List Probe := (s.edges g).map fun k =>
    { dev := key.1, lcore := key.2.1, ctxno := key.2.2, fk := owner, target := k, waitNo := waitNo, edge := .wait g.key g.waitNo }
  let fs := (s.farEdges g).map (s.probeFlit (s.launch (launchOfLc (lcOf g.key))).ctx (g.barrierTeam.getD 0) key waitNo)
  ({ s with net := { s.net with probes := s.net.probes ++ ps } } : State).emit fs

/-- A firing that has waited another 65,536 cycles sends a probe along each of its edges. -/
def execDeadlockProbeSend (s : State) : Outcome :=
  let fk := s.subject.unit
  let g := s.firing fk
  s.enabled (g.st == .waiting && decide (65536 * (g.probes + 1) ≤ g.waited) && !((s.edges g).isEmpty && (s.farEdges g).isEmpty))
    fun s => (s.modFiring fk fun g => { g with probes := g.probes + 1 }).sendProbes g (s.probeKey g) (some fk) g.waitNo

/-- The address of the counter on which a firing is blocked (R273). -/
def State.blockedOn (s : State) (g : Firing) : Word :=
  let lk := lcOf g.key
  match g.wait with
  | .counter _ va _ _ => va
  | .need (.channelSpace n) => BitVec.ofNat 64 (peerVA (s.lc lk).index 5 (8 * (480 + n)))
  | .barrier t _ => BitVec.ofNat 64 (0x7F0000500000 + (s.launch (launchOfLc lk)).ctx * 16384 + t * 64)
  | _ => 0

/-- The victim takes fault 0x11. -/
def State.victim (s : State) (fk : Nat) : State :=
  let old := s.f.key
  let t := s.turnTo fk
  ((t.takeFault 0x11 0 (t.blockedOn t.f) 0).turnTo old).settle

/-- Does the edge along which a probe came still stand: the firing is in the wait in which it sent the probe and has the edge, or no generation
of the team has been released since and the member has not arrived (R47)? -/
def State.edgeStands (s : State) (p : Probe) : Bool :=
  match p.edge with
  | .wait k n => (s.firing k).waitNo == n && (s.edges (s.firing k)).contains p.target
  | .team ctx team r => ((s.context ctx).team team).rounds == r && (s.missing ctx team).contains p.target

/-- A probe comes back to the firing whose key it carries, in the wait in which it was sent, is forwarded by the waiting firings of smaller
keys, or is discarded. -/
def execDeadlockProbeReceive (s : State) : Outcome :=
  let i := s.subject.unit
  match s.net.probes[i]? with
  | none => .next s
  | some p =>
    let t : State := { s with net := { s.net with probes := s.net.probes.eraseIdx i }, polled := true }
    let waiting := ([0, 1].map fun n => t.firing (firingKey p.target n)).filter fun g =>
      g.st == .waiting && !((t.edges g).isEmpty && (t.farEdges g).isEmpty)
    let mine := waiting.find? fun g => t.probeKey g == p.key && g.waitNo == p.waitNo && (p.fk.isNone || p.fk == some g.key)
    if !t.edgeStands p then .next t
    else
      match mine with
      | some g => .next (t.victim g.key)
      | none => .next (waiting.foldl (fun t g => if keyLess (t.probeKey g) p.key then t.sendProbes g p.key p.fk p.waitNo else t) t)

end Sys2Proof.Machine
end

