-- ==== Sys2Proof/Machine/Ports.lean ====
section
/-! DEFINITION. The ports: text frames and their notices, transmit rings, Ranvik flits, training and lanes (R19, R310, R330, R331, R350, R352
to R359). The subject's unit is the port. -/

namespace Sys2Proof.Machine

open Sys2Proof

/-! ## Text frames (R330, R331, R358) -/

/-- VA of a receive slot. -/
def Port.slotVA (x : Port) (i : Nat) : Nat := x.rxRing.toNat + 16384 * i

/-- Bytes written at a VA by a port, at the memory-side cache, in host memory or in device registers. -/
def State.portWrite (s : State) (ctx va : Nat) (bs : List Byte) : Option State :=
  match s.unitLocate ctx true (pieces va bs.length) with
  | .error _ => none
  | .ok ps => some ((dealBytes ps bs).foldl
      (fun s e => if e.1.host then s.writeGranule none true e.1.pa e.2
        else if isDeviceReg e.1.pa then s.sendRegister e.1.pa e.2 else s.enterPhys none e.1.pa e.2) s)

/-- The bytes at a VA as their homes or host memory hold them. -/
def State.portRead (s : State) (ctx va n : Nat) : Option (List Byte) :=
  match s.unitSpots ctx va n with
  | .error _ => none
  | .ok ps => some (ps.flatMap fun p => s.physBytes p.host p.pa p.n)

/-- A frame that a port accepts: magic, version, and a body within the message. -/
def frameFits (b : List Byte) : Bool :=
  decide (64 ≤ b.length) && recNat b 0 4 == 0x5446574B && recNat b 4 1 == 1 && decide (64 + recNat b 22 2 ≤ b.length)

def State.countDrop (s : State) (p : Nat) : State := s.modPort p fun x => { x with dropped := x.dropped + 1 }

/-- The 16 bytes of a notice. -/
def noticeBytes (slotVA len port : Nat) : List Byte := leBytes 8 slotVA ++ leBytes 4 len ++ leBytes 1 port ++ leBytes 3 0

/-- The notice of a slot as an active message to the bound logical core and tag; a port is no logical core and a member of no team, and the sender's
number is free (log 20, DESIGN CHOICE). -/
def State.notice (s : State) (x : Port) (launch slot p : Nat) (sender : BitVec 16) : Msg :=
  let va := x.slotVA slot
  let len := match s.portRead (s.ringContext x) va 64 with | some b => 64 + recNat b 22 2 | none => 64
  { launch := launch, target := fld x.bound 31 16, tag := x.bound.extractLsb' 8 8, dev := s.device, sender := sender, ticket := 0, epoch := 0, first := 0,
    data := noticeBytes va len p, status := none, from_ := none }

/-- A frame whose notice is refused past retry, or has no target, is dropped: its slot is zeroed. -/
def State.dropFrame (s : State) (p slot : Nat) : State :=
  let x := s.port p
  let s := (s.portWrite (s.ringContext x) (x.slotVA slot) (List.replicate 16384 0)).getD s
  (s.modPort p fun x => { x with notices := x.notices.drop 1 }).countDrop p

/-- The first notice of a port is sent, if a launch of its pairing is live. -/
def State.sendNotice (s : State) (p : Nat) (sender : BitVec 16) : State :=
  let x := s.port p
  match x.notices.head?, x.tag.bind s.paired with
  | some (slot, n), some (_, launch) =>
    (match s.arrive (s.notice x launch slot p sender) with
     | (some code, t) =>
       if code = 1 then t.modPort p fun x => { x with notices := x.notices.drop 1 }
       else if code = 2 ∨ code = 3 then
         (if 1024 ≤ n + 1 then t.dropFrame p slot
          else t.modPort p fun x => { x with notices := (slot, n + 1) :: x.notices.drop 1 })
       else t.dropFrame p slot
     | (none, t) => t)
  | _, _ => s

/-- A frame arrives: it enters the next slot if that is free, and its notice is sent after those before it. -/
def execTextFrameReceive (s : State) : Outcome :=
  let p := s.subject.unit
  let b := s.subject.data
  s.arrival fun s =>
    let x := s.port p
    let ctx := s.ringContext x
    let slot := x.rxNext % max 1 x.rxSlots.toNat
    if !frameFits b then s.countDrop p
    else
      match s.portRead ctx (x.slotVA slot) 8 with
      | some w =>
        if leNat w ≠ 0 then s.countDrop p
        else
          match s.portWrite ctx (x.slotVA slot) (b.take (64 + recNat b 22 2)) with
          | none => s.countDrop p
          | some s =>
            let first := x.notices.isEmpty
            let s := s.modPort p fun x => { x with rxNext := slot + 1, notices := x.notices ++ [(slot, 0)] }
            if first then (s.sendNotice p (s.subject.value.truncate 16)).settle else s
      | none => s.countDrop p

/-- A notice that was refused, or that waited for a launch, is sent again. -/
def execTextNoticeResend (s : State) : Outcome :=
  let p := s.subject.unit
  let x := s.port p
  s.enabled (!x.notices.isEmpty && (x.tag.bind s.paired).isSome) fun s => (s.sendNotice p (s.subject.value.truncate 16)).settle

/-! ## The transmit ring (R359) -/

/-- The next entry is sent, its frame read after the acquire of the doorbell and put on the wire toward its handle, or skipped, and its
completion word written. A frame that cannot be read is skipped as a bad length is, and an entry that cannot be read has no completion word
(log 20, DEDUCED). -/
def State.sendEntry (s : State) (p ctx : Nat) : State :=
  let x := s.port p
  let va := x.txRing.toNat + 32 * (x.txSent % max 1 x.txCount.toNat)
  let s := s.modPort p fun x => { x with txSent := x.txSent + 1 }
  match s.unitRead ctx va 32 with
  | .error _ => s
  | .ok b =>
    let len := recNat b 8 4
    let bad := decide (len < 64) || decide (8256 < len) || recNat b 24 8 != 0
    let frame := if bad then none else s.portRead ctx (recNat b 0 8) len
    let s : State := match frame with
      | some d => { s with pkg := { s.pkg with frames := s.pkg.frames ++ [{ port := p, handle := BitVec.ofNat 32 (recNat b 12 4), data := d }] } }
      | none => s
    (s.portWrite ctx (recNat b 16 8) (leBytes 8 (if frame.isSome then 1 else 2))).getD s

/-- For each increment of the doorbell counter, one entry in ring order. -/
def execTransmitEntrySend (s : State) : Outcome :=
  let p := s.subject.unit
  let x := s.port p
  s.enabled (s.transmitDue x) fun s => s.sendEntry p (s.ringContext x)

/-! ## Ranvik flits (R353 to R356) -/

/-- The context that holds a tag, whether or not a launch of it is live. -/
def State.tagContext (s : State) (tag : BitVec 32) : Option Nat := (s.contexts.find? fun e => e.2.tag == some tag).map fun e => e.1

def State.dropFlit (s : State) : State := { s with pkg := { s.pkg with dropped := s.pkg.dropped + 1 } }

/-- Who a paired launch is when data arrive for it. -/
def State.pairAsker (s : State) (ctx launch : Nat) : Asker :=
  { ctx := ctx, launch := launch, pcore := (s.lc (lcKey launch 0)).pcore, service := false, fk := none }

/-- Data of another device enter the memory of the paired context, poisoned as they were read, and then the counter rises; what waits on a counter
is tested at each of these writes (R299, R300). -/
def State.farWrite (s : State) (ctx launch : Nat) (va : Word) (data : List Byte) (ctr : Option Word) (poison : Bool) : State :=
  let q := s.pairAsker ctx launch
  match s.locate q .put (pieces va.toNat data.length) with
  | .error _ => s.dropFlit
  | .ok (ps, ts) =>
    let s := (s.noteAll q ts)
    let s := (dealBytes ps data).foldl
      (fun s e =>
        let s := if e.1.win.isSome || e.1.host then s.writeGranule (some ctx) e.1.host e.1.pa e.2
          else if isDeviceReg e.1.pa then s.sendRegister e.1.pa e.2 else s.enterPhys (some ctx) e.1.pa e.2
        (if poison && !e.1.host then s.setPoison e.1.pa else s).settle) s
    match ctr with
    | none => s
    | some c =>
      match s.locate q .increment (pieces c.toNat 8) with
      | .ok (p :: _, _) => s.raiseCounter (some ctx) p.pa poison
      | _ => s.dropFlit

/-- The item of a message to another device whose outcome has come back: logical core and item. The outcome is one of a launch, of a logical core and of a
ticket, for tickets begin at 0 in every launch and several launches of a context may be live (R264). -/
def State.farItem (s : State) (ctx job : Nat) (slc : BitVec 16) (ticket : BitVec 32) (d : BitVec 18) : Option (Nat × OutItem × Msg) :=
  s.lcores.findSome? fun e =>
    if e.2.index = slc.toNat && launchOfLc e.1 = job && (s.launch job).ctx = ctx then
      e.2.outbound.findSome? fun o =>
        match o.what with
        | .far m x => if x = d && m.ticket = ticket && !o.decided then some (e.1, o, m) else none
        | _ => none
    else none

/-- Devices to which a probe that came from device `src` goes on: from below, up the barrier's path and down to the others; from above, down
(R46, R310). -/
def State.probeOnward (s : State) (ctx team : Nat) (src : BitVec 18) : List (BitVec 18) :=
  let d := s.device
  let below := (groupRoot d == d && groupRoot src == d) || (podRoot d == d && groupRoot src == src)
  if groupRoot d ≠ d then []
  else (s.lacking ctx team).filter fun o => o != src && (below || (o != podRoot d && groupRoot o == d))

/-- A probe from device `src` reaches the members of the team here that have not arrived, and goes on along the barrier's path; one about
another generation than the open one is discarded, for what it came for has been met (R46, R47). -/
def State.farProbe (s : State) (src : BitVec 18) (ctx team : Nat) (rounds : BitVec 32) (kdev : BitVec 18) (klc : BitVec 16) (kctx : BitVec 1)
    (waitNo : Nat) : State :=
  if ((s.context ctx).team team).rounds ≠ rounds then s
  else
    let ps : List Probe := (s.missing ctx team).map fun k =>
      { dev := kdev, lcore := klc.toNat, ctxno := kctx.toNat, fk := none, target := k, waitNo := waitNo, edge := .team ctx team rounds }
    ({ s with net := { s.net with probes := s.net.probes ++ ps } } : State).emit
      ((s.probeOnward ctx team src).map (s.probeFlit ctx team (kdev, klc.toNat, kctx.toNat) waitNo))

/-- What a packet for this device does. -/
def State.deliverFlit (s : State) (src : BitVec 18) (p : RanvikPacket) : State :=
  match p with
  | .write tag va data ctr poison =>
    (match s.paired tag with | some (ctx, k) => s.farWrite ctx k va data ctr poison | none => s.dropFlit)
  | .message tag lcore mtag sender slc ticket data job =>
    let (code, t) := match s.paired tag with
      | some (_, k) =>
        s.arrive { launch := k, target := lcore.toNat, tag := mtag, dev := sender, sender := slc, ticket := ticket, epoch := 0, first := 0, data := data,
                   status := none, from_ := none }
      | none => (some 4, s)
    t.emit [t.flit 2 1 src (.outcome tag slc ticket (code.getD 5) job)]
  | .outcome tag slc ticket code job =>
    (match (s.tagContext tag).bind fun ctx => s.farItem ctx job slc ticket src with
     | some (lk, o, m) => s.decideItem lk o.num m code
     | none => s)
  | .combine tag root x isMax group n value count =>
    (match s.paired tag with
     | some (_, k) =>
       if (s.launch k).ncore ≤ root.toNat ∨ 510 < x.toNat then s.dropFlit
       else
         let c : Combine :=
           { launch := k, root := root.toNat, x := x.toNat, isMax := isMax, group := group.toNat, n := n.toNat, value := value, count := count,
             far := true, router := 0, entry := false, moved := false }
         s.enterRouter c (routerOf (s.lc (lcKey k root.toNat)).pcore)
     | none => s.dropFlit)
  | .barrierArrival tag team sources =>
    (match s.tagContext tag with
     | some ctx =>
       let t := (s.context ctx).team team
       let s := s.modContext ctx fun c => c.setTeam team { t with far := t.far ++ sources }
       if groupRoot s.device = s.device then s.spanStage ctx team tag else s
     | none => s.dropFlit)
  | .barrierRelease tag team =>
    (match s.tagContext tag with
     | some ctx => s.spanRelease ctx team tag
     | none => s.dropFlit)
  | .probe tag team rounds kdev klc kctx waitNo =>
    (match s.tagContext tag with
     | some ctx => s.farProbe src ctx team rounds kdev klc kctx waitNo
     | none => s)
  | .unknown => s.dropFlit

/-- The flit kind of a packet. -/
def packetKind (p : RanvikPacket) : Nat :=
  match p with
  | .write .. => 1
  | .message .. => 2
  | .outcome .. => 2
  | .combine .. => 3
  | .barrierArrival .. => 3
  | .barrierRelease .. => 3
  | .probe .. => 4
  | .unknown => 0

/-- The virtual channel of a kind. -/
def channelOf (kind : BitVec 4) : BitVec 2 := (kind - 1).truncate 2

/-- Bytes 0 to 11 of a flit, as a number. -/
def flitHead (f : Flit) : Nat :=
  f.kind.toNat * 2 ^ 12 + f.vc.toNat * 2 ^ 10 + f.credit.toNat + f.src.toNat * 2 ^ 16 + f.dst.toNat * 2 ^ 40 + f.number.toNat * 2 ^ 64

/-- The CRC-32 over bytes 0 to 251 of a flit. -/
def flitSum (f : Flit) : BitVec 32 := Config.flitCrc (BitVec.ofNat 2016 (flitHead f + (Config.flitPayload f.packet).toNat * 2 ^ 96))

/-- A port takes a flit in its turn: the next number is expected, credits that come back are free again, and one is owed for this flit. -/
def RPort.take (x : RPort) (f : Flit) : RPort :=
  let v := f.vc.toNat
  { x with expect := x.expect + 1, used := Tbl.set x.used v (Tbl.get 0 x.used v - f.credit.toNat), owed := Tbl.set x.owed v (Tbl.get 0 x.owed v + 1) }

/-- A flit reaches the port of the subject's unit. One whose CRC fails is left to the link's retry, and one whose number is not the next is a
repetition of that retry and is not taken again (log 20, DEDUCED); an unknown kind, or one on a channel that is not its own, is dropped and
counted; a flit for another device goes on its way, any other is delivered. -/
def execRanvikFlitReceive (s : State) : Outcome :=
  let p := s.subject.unit
  let f := s.subject.flit
  if 36 ≤ p then .next s
  else s.arrival fun s =>
    if f.crc ≠ flitSum f ∨ f.number ≠ (s.rport p).expect then s
    else
      let s := s.modRPort p fun x => x.take f
      if packetKind f.packet ≠ f.kind.toNat ∨ f.kind = 0 ∨ f.vc ≠ channelOf f.kind then s.dropFlit
      else if f.dst ≠ s.device then s.emit [f]
      else (s.deliverFlit f.src f.packet).settle

/-- A port puts flit `i` of those that wait on its link: the oldest of its channel there, once the channel has a credit. It gets its number, the
credits that are owed, and its CRC. -/
def State.flitSent (s : State) (i : Nat) : Outcome :=
  match s.net.flits[i]? with
  | none => .next s
  | some o =>
    let x := s.rport o.port
    let v := o.flit.vc.toNat
    let first := !((s.net.flits.take i).any fun y => y.port == o.port && y.flit.vc == o.flit.vc)
    s.enabled (s.pkg.power == .active && first && decide (Tbl.get 0 x.used v < Config.flitCredits v)) fun s =>
      let back := min 1023 (Tbl.get 0 x.owed v)
      let f := { o.flit with number := x.sent, credit := BitVec.ofNat 10 back }
      let f := { f with crc := flitSum f }
      let s := s.modRPort o.port fun x =>
        { x with sent := x.sent + 1, used := Tbl.set x.used v (Tbl.get 0 x.used v + 1), owed := Tbl.set x.owed v (Tbl.get 0 x.owed v - back) }
      { s with net := { s.net with flits := s.net.flits.eraseIdx i, wire := s.net.wire ++ [(o.port, f)] } }

/-- Flit `i` of those that wait takes another port, on a minimal way or through one intermediate group (R354). -/
def State.flitRouted (s : State) (i port : Nat) : Outcome :=
  match s.net.flits[i]? with
  | none => .next s
  | some o =>
    s.enabled (s.pkg.power == .active && (flitPorts s.device o.flit.src o.flit.dst).contains port) fun s =>
      ({ s with net := { s.net with flits := s.net.flits.eraseIdx i } } : State).enterPort port o.flit

/-- Combine packet `i` goes on to another of the 96 routers, along a minimal route to its root (R12, R13, R271). -/
def State.combineHop (s : State) (i router : Nat) : Outcome :=
  match s.net.combs[i]? with
  | none => .next s
  | some p =>
    s.enabled (s.pkg.power == .active && (s.hopsOf p).contains router) fun s =>
      ({ s with net := { s.net with combs := s.net.combs.eraseIdx i } } : State).enterRouter
        { p with moved := quadrantOf router == quadrantOf p.router } router

/-! ## Training and lanes (R19, R350, R352, R357) -/

/-- The CXL version that two ends negotiate, in tenths: 3.1 or 2.0, or none. -/
def cxlVersion (n : Nat) : Nat := if 31 ≤ n then 31 else if 20 ≤ n then 20 else 0

/-- The host port trains to what both ends support; the subject gives the far end's generation, width, and, as its value, the CXL version that
it offers, in tenths. -/
def execLinkTraining (s : State) : Outcome :=
  let gen := min 7 s.subject.unit
  let width := min 16 s.subject.item
  s.enabled (s.pkg.power != .off && decide (5 ≤ gen) && decide (8 ≤ width)) fun s =>
    { s with pkg := { s.pkg with link := { gen := gen, width := if width < 16 then 8 else 16, cxl := cxlVersion s.subject.value.toNat } } }

/-- A Ranvik port trains to 224 Gb/s per lane, or to 112 toward older equipment, for which the subject's `yes` is false. Its numbers and
credits start anew. -/
def execRanvikPortTraining (s : State) : Outcome :=
  s.enabled (s.pkg.power == .active && decide (s.subject.unit < 36)) fun s =>
    s.modRPort s.subject.unit fun x =>
      { x with rate := if s.subject.yes then 224 else 112, sent := 0, expect := 0, used := [], owed := [] }

/-- An Ethernet port trains to 800 or 400 GbE. -/
def execEthernetPortTraining (s : State) : Outcome :=
  s.enabled (s.pkg.power == .active && decide (s.subject.unit < 4)) fun s =>
    s.modPort s.subject.unit fun x => { x with rate := if s.subject.yes then 800 else 400 }

/-- The calibration lane of a port: is it free, and calibrated? -/
def State.laneOf (s : State) (ethernet : Bool) (p : Nat) : Bool × Bool :=
  if ethernet then ((s.port p).spare, (s.port p).calibrated) else ((s.rport p).spare, (s.rport p).calibrated)

/-- A data lane of a port fails: the calibration lane takes over, once it is calibrated (R17), and the failure is reported. The subject's `yes`
says that the port is an Ethernet port; Ranvik ports have the numbers 0 to 35 in the report and Ethernet ports 36 to 39. A port whose spare
is gone keeps its rate, and the lane is only reported (log 20, DESIGN CHOICE: R19 gives one spare and is silent on a second failure). -/
def execLaneFailure (s : State) : Outcome :=
  let p := s.subject.unit
  let e := s.subject.yes
  let lane := s.laneOf e p
  s.enabled (s.pkg.power == .active && decide (p < (if e then 4 else 36)) && (!lane.1 || lane.2)) fun s =>
    let s : State := { s with pkg := { s.pkg with lanesLost := s.pkg.lanesLost ++ [if e then 36 + p else p] } }
    if e then s.modPort p fun x => { x with spare := false } else s.modRPort p fun x => { x with spare := false }

/-- A port recalibrates its calibration lane while it is free (R17, R19). -/
def State.calibrate (s : State) (e : Bool) (p : Nat) : Outcome :=
  s.enabled (s.pkg.power == .active && decide (p < (if e then 4 else 36)) && (s.laneOf e p).1) fun s =>
    if e then s.modPort p fun x => { x with calibrated := true } else s.modRPort p fun x => { x with calibrated := true }

end Sys2Proof.Machine
end

