-- ==== Sys2Proof/Machine/VectorMemory.lean ====
section
/-! DEFINITION. Vector loads, stores, gathers and scatters (R170, R171). -/

namespace Sys2Proof.Machine

open Sys2Proof

/-! ## Active bytes as pieces -/

/-- Runs of consecutive active bytes from an address upward: (address, length). -/
def activeRuns (va : Nat) : List Bool → List (Nat × Nat)
  | [] => []
  | a :: r =>
    let rest := activeRuns (va + 1) r
    if a then
      match rest with
      | (b, n) :: more => if b = va + 1 then (va, n + 1) :: more else (va, 1) :: rest
      | [] => [(va, 1)]
    else rest

/-- The pieces of the active bytes. -/
def activePieces (va : Nat) (act : List Bool) : List (Nat × Nat) := (activeRuns va act).flatMap fun r => pieces r.1 r.2

/-- The bytes read, each at its place; inactive places hold nothing. -/
def spreadBytes : List Bool → List Byte → List (Option Nat)
  | [], _ => []
  | false :: r, bs => none :: spreadBytes r bs
  | true :: r, bs => some (bs.headD 0).toNat :: spreadBytes r (bs.drop 1)

/-- The active ones of a list of bytes. -/
def pickBytes : List Bool → List Byte → List Byte
  | true :: r, b :: bs => b :: pickBytes r bs
  | false :: r, _ :: bs => pickBytes r bs
  | _, _ => []

/-- The address of a vector access: the offset is scaled by 64. -/
def State.vaddress (s : State) (b : BitVec 6) (o : BitVec 10) : Word := s.sreg b + (o.signExtend 64 <<< 6)

/-! ## vld and vst (R170) -/

def vldP (px : Pfx) (d : BitVec 5) (b : BitVec 6) (o : BitVec 10) (s : State) : Outcome :=
  s.issue px.how fun s =>
    let ea := s.vaddress b o
    let act := s.actives px 8
    if ea.toNat % 64 ≠ 0 then .fault 0x07 ea 1
    else
      match s.readPieces (activePieces ea.toNat act) true with
      | .stop e => e
      | .ok bs t => .retire (t.writeElems px 8 d (spreadBytes act bs))

def vstP (px : Pfx) (d : BitVec 5) (b : BitVec 6) (o : BitVec 10) (s : State) : Outcome :=
  s.issue px.how fun s =>
    let ea := s.vaddress b o
    let act := s.actives px 8
    if ea.toNat % 64 ≠ 0 then .fault 0x07 ea 2
    else
      match s.writePieces (activePieces ea.toNat act) (pickBytes act (leBytes 512 (s.vreg d).toNat)) with
      | .stop e => e
      | .ok t => .retire t

/-- The bytes of memory that hold a bit of an active 6-bit element: three for each group of four. -/
def ta6Bytes : List Bool → List Bool
  | a :: b :: c :: d :: r => (a || b) :: (b || c) :: (c || d) :: ta6Bytes r
  | _ => []

/-- vld.ta6: element `i` of group ⌊i/4⌋ fills its container (R49). -/
def vldTa6P (px : Pfx) (d : BitVec 5) (b : BitVec 6) (o : BitVec 10) (s : State) : Outcome :=
  s.issue px.how fun s =>
    let ea := s.vaddress b o
    let act := s.actives px 8
    let bytes := ta6Bytes act
    if ea.toNat % 64 ≠ 0 then .fault 0x07 ea 1
    else
      match s.readPieces (activePieces ea.toNat bytes) true with
      | .stop e => e
      | .ok bs t =>
        let x := pack 8 ((spreadBytes bytes bs).map fun v => v.getD 0)
        let xs := (unpack 6 512 x).map contain
        .retire (t.writeElems px 8 d ((act.zip xs).map fun e => if e.1 then some e.2 else none))

/-- vst.ta6 packs bits [5:0] of each byte. -/
def vstTa6P (px : Pfx) (d : BitVec 5) (b : BitVec 6) (o : BitVec 10) (s : State) : Outcome :=
  s.issue px.how fun s =>
    let ea := s.vaddress b o
    if ea.toNat % 64 ≠ 0 then .fault 0x07 ea 2
    else
      match s.writePieces (pieces ea.toNat 384) (leBytes 384 (pack 6 (elems 8 (s.vreg d)))) with
      | .stop e => e
      | .ok t => .retire t

/-! ## Gather and scatter (R171) -/

/-- The addresses of the active elements in ascending order: base plus a signed index times the element size. -/
def State.elementAddrs (s : State) (px : Pfx) (t : Nat) (a b : BitVec 5) : List (Option Nat) :=
  let w := typeWidth t
  let base := s.sreg (low b)
  ((s.actives px w).zip (elems w (s.vreg a))).map fun e =>
    if e.1 then some (base + BitVec.ofInt 64 (toInt w e.2 * ((w / 8 : Nat) : Int))).toNat else none

/-- The checks of R164 for one element after another; the first that fails is reported. The firing's own puts that come before an element
are performed before its poison is tested. -/
def State.checkElems (s : State) (u : Use) (n : Nat) : List Nat → Except Flt (List Spot × State)
  | [] => .ok ([], s)
  | va :: r =>
    if va % n ≠ 0 then .error { code := 0x07, addr := va, acc := u.access }
    else
      match s.locate s.asker u (pieces va n) with
      | .error e => .error e
      | .ok (sp, ts) =>
        let t := s.reach s.asker sp ts
        match (if u = .load then t.poisonHit sp else none) with
        | some p => .error { code := 0x0A, addr := p.va, acc := 1 }
        | none =>
          match t.checkElems u n r with
          | .error e => .error e
          | .ok (ps, v) => .ok (sp ++ ps, v)

/-- Cuts bytes into numbers of `n` bytes. -/
def groupBytes (n : Nat) : Nat → List Byte → List Nat
  | 0, _ => []
  | k + 1, bs => leNat (bs.take n) :: groupBytes n k (bs.drop n)

/-- Gives each active place the next value. -/
def spreadVals : List Bool → List Nat → List (Option Nat)
  | [], _ => []
  | false :: r, xs => none :: spreadVals r xs
  | true :: r, xs => some (xs.headD 0) :: spreadVals r (xs.drop 1)

def vgatherP (px : Pfx) (t : BitVec 4) (d a b : BitVec 5) (s : State) : Outcome :=
  s.issue px.how fun s => s.outside
    (let w := typeWidth t.toNat
     let vas := (s.elementAddrs px t.toNat a b).filterMap id
     match s.checkElems .load (w / 8) vas with
     | .error e => .ofFlt e
     | .ok (sp, v) =>
       let (bs, t) := v.loadSpots v.asker true sp
       .retire (t.writeElems px w d (spreadVals (s.actives px w) (groupBytes (w / 8) vas.length bs))))

def vscatterP (px : Pfx) (t : BitVec 4) (d a b : BitVec 5) (s : State) : Outcome :=
  s.issue px.how fun s => s.outside
    (let w := typeWidth t.toNat
     let vas := (s.elementAddrs px t.toNat a b).filterMap id
     match s.checkElems .store (w / 8) vas with
     | .error e => .ofFlt e
     | .ok (sp, v) =>
       let data := (((s.actives px w).zip (elems w (s.vreg d))).filter fun e => e.1).flatMap fun e => leBytes (w / 8) e.2
       .retire (v.storeSpots v.asker (dealBytes sp data)).settle)

/-! ## The arms -/

def execVld (d : BitVec 5) (b : BitVec 6) (o : BitVec 10) (s : State) : Outcome := vldP .none d b o s
def execVst (d : BitVec 5) (b : BitVec 6) (o : BitVec 10) (s : State) : Outcome := vstP .none d b o s
def execVldTa6 (d : BitVec 5) (b : BitVec 6) (o : BitVec 10) (s : State) : Outcome := vldTa6P .none d b o s
def execVstTa6 (d : BitVec 5) (b : BitVec 6) (o : BitVec 10) (s : State) : Outcome := vstTa6P .none d b o s
def execVgather (t : BitVec 4) (d a b : BitVec 5) (s : State) : Outcome := vgatherP .none t d a b s
def execVscatter (t : BitVec 4) (d a b : BitVec 5) (s : State) : Outcome := vscatterP .none t d a b s

end Sys2Proof.Machine
end

