-- ==== Sys2Proof/Machine/VectorMove.lean ====
section
/-! DEFINITION. Vector moves, permutes, reductions, sampling, compares, selection and predicate logic (R129 to R137). -/

namespace Sys2Proof.Machine

open Sys2Proof

/-! ## Moves and indices (R129 to R131) -/

/-- Each active element is given; nothing rounds and no flag is raised. -/
def State.vgive (st : State) (h : How) (px : Pfx) (t : Nat) (d : BitVec 5) (xs : List Nat) : Outcome :=
  st.issue h fun st =>
    let w := typeWidth t
    .retire (st.writeElems px w d (((st.actives px w).zip xs).map fun e => if e.1 then some e.2 else none))

def vmovP (px : Pfx) (t : BitVec 4) (d a : BitVec 5) (st : State) : Outcome :=
  st.vgive px.how px t.toNat d ((elems (typeWidth t.toNat) (st.vreg a)).map fun x => writeAs t.toNat (readAs t.toNat x))

def vbcastP (px : Pfx) (t : BitVec 4) (d a : BitVec 5) (st : State) : Outcome :=
  st.vgive px.how px t.toNat d (st.broadcast t.toNat a)

/-- vextract: one element into a scalar. -/
def execVextract (t : BitVec 4) (d a b : BitVec 5) (st : State) : Outcome :=
  let ty := t.toNat
  let w := typeWidth ty
  let e := (st.sreg (low b)).toNat % (4096 / w)
  let x := (st.vreg a).toNat / 2 ^ (w * e) % 2 ^ w
  st.compute (low d) (if isSigned ty then BitVec.ofInt 64 (toInt w x) else BitVec.ofNat 64 (readAs ty x))

/-- Element `i` of a register at a width. -/
def elemAt (w : Nat) (v : VWord) (i : Nat) : Nat := v.toNat / 2 ^ (w * i) % 2 ^ w

/-- vperm: an 8-bit permute reaches within the half of 256 elements that holds `i`. -/
def vpermP (px : Pfx) (t : BitVec 4) (d a b : BitVec 5) (st : State) : Outcome :=
  let ty := t.toNat
  let w := typeWidth ty
  let n := 4096 / w
  let src := st.vreg a
  let pick (i y : Nat) : Nat :=
    let x := elemAt w src (if w = 8 then i / 256 * 256 + y else y % n)
    writeAs ty (readAs ty x)
  st.vgive px.how px ty d ((elems w (st.vreg b)).zipIdx.map fun e => pick e.2 e.1)

/-- vslide: a positive amount moves elements toward lower indices. -/
def vslideP (px : Pfx) (t : BitVec 4) (d a b : BitVec 5) (st : State) : Outcome :=
  let ty := t.toNat
  let w := typeWidth ty
  let n := 4096 / w
  let k := (st.sreg (low b)).toInt
  let src := st.vreg a
  let pick (i : Nat) : Nat :=
    let j : Int := (i : Int) + k
    if 0 ≤ j ∧ j < (n : Int) then writeAs ty (readAs ty (elemAt w src j.toNat)) else 0
  st.vgive px.how px ty d ((List.range n).map pick)

def viotaP (px : Pfx) (t : BitVec 4) (d : BitVec 5) (st : State) : Outcome :=
  let w := typeWidth t.toNat
  st.vgive px.how px t.toNat d ((List.range (4096 / w)).map fun i => i % 2 ^ w)

/-! ## Reductions (R65, R132) -/

/-- One level of the tree: a node of two present inputs combines them with the draw of its number. -/
def redLevel (f : Nat → Nat → Nat → Res) (draw : Nat → Nat) : Nat → List (Option Nat) → Sweep
  | used, some x :: some y :: r =>
    let z := f x y (draw used)
    let t := redLevel f draw (used + 1) r
    { out := some z.pat :: t.out, flags := z.flags ||| t.flags, used := t.used }
  | used, none :: y :: r =>
    let t := redLevel f draw used r
    { t with out := y :: t.out }
  | used, x :: none :: r =>
    let t := redLevel f draw used r
    { t with out := x :: t.out }
  | used, l => { out := l, flags := 0, used := used }

/-- The levels of the tree up to its root. -/
def redTree (f : Nat → Nat → Nat → Res) (draw : Nat → Nat) : Nat → Nat → List (Option Nat) → Sweep
  | 0, used, l => { out := l, flags := 0, used := used }
  | n + 1, used, l =>
    let t := redLevel f draw used l
    let u := redTree f draw n t.used t.out
    { u with flags := t.flags ||| u.flags }

/-- The root goes to element 0, and every other element becomes zero. -/
def State.reduce (st : State) (px : Pfx) (t : Nat) (d a : BitVec 5) (md : Mode) (absent : Nat)
    (f : Nat → Nat → Nat → Res) : State :=
  let w := typeWidth t
  let xs := ((st.actives px w).zip (elems w (st.vreg a))).map fun e => if e.1 then some e.2 else none
  let r := redTree f (st.drawAt md) (Nat.log2 (4096 / w)) 0 xs
  (st.setVreg d (BitVec.ofNat 4096 ((r.out.headD none).getD absent))).rounded md r.used r.flags

def vredsumP (px : Pfx) (t : BitVec 4) (d a : BitVec 5) (st : State) : Outcome :=
  let ty := t.toNat
  st.issue px.how fun st =>
    if isFloatType ty then
      let md := st.mode px.round
      st.rounding md (.retire (st.reduce px ty d a md 0 (fAdd ty md)))
    else .retire (st.reduce px ty d a .rne 0 (exactly (vAdd ty)))

/-- vredmax and vredmin: the maximum or minimum of R125 or R123 at each node. -/
def State.vredPick (st : State) (px : Pfx) (isMax : Bool) (t : Nat) (d a : BitVec 5) : Outcome :=
  st.issue px.how fun st =>
    if isFloatType t then
      .retire (st.reduce px t d a .rne (fmtOf t).nanPat fun x y _ => (fmtOf t).minMax isMax x y)
    else .retire (st.reduce px t d a .rne 0 (exactly (if isMax then vMax t else vMin t)))

def vredmaxP (px : Pfx) (t : BitVec 4) (d a : BitVec 5) (st : State) : Outcome := st.vredPick px true t.toNat d a
def vredminP (px : Pfx) (t : BitVec 4) (d a : BitVec 5) (st : State) : Outcome := st.vredPick px false t.toNat d a

/-! ## Sampling (R133, R134) -/

/-- The candidates' winner: the greatest value, and among equal ones the lowest index. -/
def winner : List (Nat × Nat) → Option (Nat × Nat)
  | [] => none
  | (i, p) :: r =>
    match winner r with
    | none => some (i, p)
    | some (j, q) => if (Fmt.f32.value p).lt (Fmt.f32.value q) then some (j, q) else some (i, p)

/-- The result word of vsample over the active elements (index, pattern); `mask` holds the bits of the grammar tile. -/
def sampleWord (base : Nat) (mask : Nat → Bool) (xs : List (Nat × Nat)) : Word :=
  match winner (xs.filter fun e => !(Fmt.f32.value e.2).isNan && mask e.1) with
  | some (i, p) => BitVec.ofNat 64 (p * 2 ^ 32 + (base + i) % 2 ^ 32)
  | none => 0x7FC00000FFFFFFFF

/-- The bits of a tile; bits beyond its size read as zero. -/
def tileBits (data : List Byte) (offset i : Nat) : Bool := bit (leNat data) (offset + i)

/-- The granules of a tile of the own share, as an access of the firing meets them. -/
def tileSpots (pa n : Nat) : List Spot := (pieces pa n).map fun g => { va := g.1, n := g.2, pa := g.1, attr := .window, win := some 0, lk := 0 }

/-- vsample. The firing's own puts to the tile come before its reading (R187). A poisoned tile that is not ready makes the firing wait, or is 0x0E in a region, and is 0x0A once it is ready (log 15, DESIGN
CHOICE: R134 does not order the two); of a ready tile with a clear poison bit the bytes count as they stand, poisoned granules among
them or not (log 15, DESIGN CHOICE: R134 names the poisoned tile only). -/
def vsampleP (px : Pfx) (d a b : BitVec 5) (st : State) : Outcome :=
  st.issue px.how fun st =>
    let q := st.sreg (low b)
    let act := st.actives px 32
    let xs := (((elems 32 (st.vreg a)).zipIdx.zip act).filter fun e => e.2).map fun e => (e.1.2, e.1.1)
    let sig := xs.any fun e => (Fmt.f32.value e.2).isSig
    let give (t : State) (mask : Nat → Bool) : Eff :=
      .retire ((t.setSreg (low d) (sampleWord (fld q 63 32) mask xs)).raiseFlags (if sig then flInvalid else 0))
    if q.getLsbD 26 then
      let n := fld q 25 20
      let x := st.me.tile n
      if !x.isDefined || x.isSlot then .fault 0x0C 0 0
      else if !x.isReady then (if st.f.region.isOpen then .fault 0x0E 0 0 else .wait st (.need (.tileReady n)))
      else if x.poison then .fault 0x0A 0 0
      else
        let t := (st.drainOwn st.asker (tileSpots (st.me.sharePA x.base) x.size)).acquire 3
        give t (tileBits (t.readHome false (st.me.sharePA x.base) x.size) (fld q 19 0))
    else give st fun _ => true

/-! ## Compares (R116, R135) -/

/-- The comparison of two elements: op 0 eq, 1 ne, 2 lt, 3 le. -/
def compareElem (t op x y : Nat) : Bool × BitVec 5 :=
  if isIntType t then
    let i := intOf t x
    let j := intOf t y
    (if op = 0 then decide (i = j) else if op = 1 then decide (i ≠ j) else if op = 2 then decide (i < j) else decide (i ≤ j), 0)
  else compareVal op (valueOf t x) (valueOf t y)

/-- Bits of the two nibbles of each byte joined: the bit of byte j is set when both hold. -/
def nibblePairs : List Bool → List Bool
  | a :: b :: r => (a && b) :: nibblePairs r
  | l => l

/-- A predicate from one bit per element of width `w`, written to every byte of the element; inactive elements keep or clear their bits. -/
def mergePred (w : Nat) (zeroing : Bool) (old : PWord) (act res : List Bool) : PWord :=
  let act := if w = 4 then nibblePairs act else act
  let res := if w = 4 then nibblePairs res else res
  let step := if w = 4 then 1 else w / 8
  let olds := unpack step (512 / step) old.toNat
  BitVec.ofNat 512 (pack step ((act.zip (res.zip olds)).map fun e =>
    if e.1 then (if e.2.1 then 2 ^ step - 1 else 0) else if zeroing then 0 else e.2.2))

def State.vcompare (st : State) (px : Pfx) (op : Nat) (t : Nat) (d a b : BitVec 5) : Outcome :=
  st.issue px.how fun st =>
    let w := typeWidth t
    let act := st.actives px w
    let rs := ((elems w (st.vreg a)).zip (elems w (st.vreg b))).map fun e => compareElem t op e.1 e.2
    let fl := ((act.zip rs).filter fun e => e.1).foldl (fun f e => f ||| e.2.2) 0
    let kd : BitVec 4 := d.truncate 4
    .retire ((st.setKreg kd (mergePred w px.zeroing (st.kreg kd) act (rs.map fun e => e.1))).raiseFlags fl)

def vcmpeqP (px : Pfx) (t : BitVec 4) (d a b : BitVec 5) (st : State) : Outcome := st.vcompare px 0 t.toNat d a b
def vcmpneP (px : Pfx) (t : BitVec 4) (d a b : BitVec 5) (st : State) : Outcome := st.vcompare px 1 t.toNat d a b
def vcmpltP (px : Pfx) (t : BitVec 4) (d a b : BitVec 5) (st : State) : Outcome := st.vcompare px 2 t.toNat d a b
def vcmpleP (px : Pfx) (t : BitVec 4) (d a b : BitVec 5) (st : State) : Outcome := st.vcompare px 3 t.toNat d a b

/-- vsel (R136): va where active, vb elsewhere; every element is written. -/
def vselP (px : Pfx) (t : BitVec 4) (d a b : BitVec 5) (st : State) : Outcome :=
  st.issue px.how fun st =>
    let ty := t.toNat
    let w := typeWidth ty
    let xs := (elems w (st.vreg a)).zip (elems w (st.vreg b))
    .retire (st.setVreg d (packV w (((st.actives px w).zip xs).map fun e =>
      writeAs ty (readAs ty (if e.1 then e.2.1 else e.2.2)))))

/-! ## Predicate logic (R137) -/

/-- A predicate named by a 5-bit field, whose values above 15 are refused at decode. -/
def State.pred (st : State) (a : BitVec 5) : PWord := st.kreg (a.truncate 4)

def State.predGive (st : State) (d : BitVec 5) (v : PWord) : Outcome :=
  st.issue .word fun st => .retire (st.setKreg (d.truncate 4) v)

def execKand (d a b : BitVec 5) (st : State) : Outcome := st.predGive d (st.pred a &&& st.pred b)
def execKor (d a b : BitVec 5) (st : State) : Outcome := st.predGive d (st.pred a ||| st.pred b)
def execKxor (d a b : BitVec 5) (st : State) : Outcome := st.predGive d (st.pred a ^^^ st.pred b)
def execKandn (d a b : BitVec 5) (st : State) : Outcome := st.predGive d (st.pred a &&& ~~~(st.pred b))
def execKpop (d a : BitVec 5) (st : State) : Outcome :=
  st.compute (low d) (BitVec.ofNat 64 (popCount 512 (st.pred a).toNat))

/-! ## The arms -/

def execVmov (t : BitVec 4) (d a : BitVec 5) (st : State) : Outcome := vmovP .none t d a st
def execVbcast (t : BitVec 4) (d a : BitVec 5) (st : State) : Outcome := vbcastP .none t d a st
def execVperm (t : BitVec 4) (d a b : BitVec 5) (st : State) : Outcome := vpermP .none t d a b st
def execVslide (t : BitVec 4) (d a b : BitVec 5) (st : State) : Outcome := vslideP .none t d a b st
def execViota (t : BitVec 4) (d : BitVec 5) (st : State) : Outcome := viotaP .none t d st
def execVredsum (t : BitVec 4) (d a : BitVec 5) (st : State) : Outcome := vredsumP .none t d a st
def execVredmax (t : BitVec 4) (d a : BitVec 5) (st : State) : Outcome := vredmaxP .none t d a st
def execVredmin (t : BitVec 4) (d a : BitVec 5) (st : State) : Outcome := vredminP .none t d a st
def execVsample (d a b : BitVec 5) (st : State) : Outcome := vsampleP .none d a b st
def execVcmpeq (t : BitVec 4) (d a b : BitVec 5) (st : State) : Outcome := vcmpeqP .none t d a b st
def execVcmpne (t : BitVec 4) (d a b : BitVec 5) (st : State) : Outcome := vcmpneP .none t d a b st
def execVcmplt (t : BitVec 4) (d a b : BitVec 5) (st : State) : Outcome := vcmpltP .none t d a b st
def execVcmple (t : BitVec 4) (d a b : BitVec 5) (st : State) : Outcome := vcmpleP .none t d a b st
def execVsel (t : BitVec 4) (d a b : BitVec 5) (st : State) : Outcome := vselP .none t d a b st

/-! ## The 16-bit forms (R74) -/

def execVmov16 (d b : BitVec 5) (st : State) : Outcome := st.vgive .half .none 4 d (elems 32 (st.vreg b))
def execVbcast16 (d b : BitVec 5) (st : State) : Outcome := st.vgive .half .none 4 d (st.broadcast 4 b)

end Sys2Proof.Machine
end

