-- ==== Sys2Proof/Machine/Prefixed.lean ====
section
/-! DEFINITION. A prefix and the instruction that it modifies issue as one instruction (R77 to R79). -/

namespace Sys2Proof.Machine

open Sys2Proof

/-- A base vector instruction under a prefix; no other instruction reaches this point, since its pair is refused (R78). -/
def runPrefixed (px : Pfx) (i : Instr) (st : State) : Outcome :=
  match i with
  | .vld d b o => vldP px d b o st
  | .vst d b o => vstP px d b o st
  | .vldTa6 d b o => vldTa6P px d b o st
  | .vstTa6 d b o => vstTa6P px d b o st
  | .vgather t d a b => vgatherP px t d a b st
  | .vscatter t d a b => vscatterP px t d a b st
  | .vaddInt t s d a b => vaddIntP px t s d a b st
  | .vsubInt t s d a b => vsubIntP px t s d a b st
  | .vmulInt t s d a b => vmulIntP px t s d a b st
  | .vmulh t s d a b => vmulhP px t s d a b st
  | .vadds t s d a b => vaddsP px t s d a b st
  | .vsubs t s d a b => vsubsP px t s d a b st
  | .vminInt t s d a b => vminIntP px t s d a b st
  | .vmaxInt t s d a b => vmaxIntP px t s d a b st
  | .vmadd t s d a b => vmaddP px t s d a b st
  | .vwmul t s d a b => vwmulP px t s d a b st
  | .vand t s d a b => vandP px t s d a b st
  | .vor t s d a b => vorP px t s d a b st
  | .vxor t s d a b => vxorP px t s d a b st
  | .vshl t s d a b => vshlP px t s d a b st
  | .vshr t s d a b => vshrP px t s d a b st
  | .vclmul t s d a b => vclmulP px t s d a b st
  | .vaddFloat t s d a b => vaddFloatP px t s d a b st
  | .vsubFloat t s d a b => vsubFloatP px t s d a b st
  | .vmulFloat t s d a b => vmulFloatP px t s d a b st
  | .vfma t s d a b => vfmaP px t s d a b st
  | .vminFloat t s d a b => vminFloatP px t s d a b st
  | .vmaxFloat t s d a b => vmaxFloatP px t s d a b st
  | .vexp2 d a => vexp2P px d a st
  | .vlog2 d a => vlog2P px d a st
  | .vrcp d a => vrcpP px d a st
  | .vrsqrt d a => vrsqrtP px d a st
  | .vrcps s d a b => vrcpsP px s d a b st
  | .vrsqrts s d a b => vrsqrtsP px s d a b st
  | .vcvt t u d a => vcvtP px t u d a st
  | .vcvtw t u d a => vcvtwP px t u d a st
  | .vquant t d a b => vquantP px t d a b st
  | .vamax t a => vamaxP px t a st
  | .vmov t d a => vmovP px t d a st
  | .vbcast t d a => vbcastP px t d a st
  | .vperm t d a b => vpermP px t d a b st
  | .vslide t d a b => vslideP px t d a b st
  | .viota t d => viotaP px t d st
  | .vredsum t d a => vredsumP px t d a st
  | .vredmax t d a => vredmaxP px t d a st
  | .vredmin t d a => vredminP px t d a st
  | .vsample d a b => vsampleP px d a b st
  | .vcmpeq t d a b => vcmpeqP px t d a b st
  | .vcmpne t d a b => vcmpneP px t d a b st
  | .vcmplt t d a b => vcmpltP px t d a b st
  | .vcmple t d a b => vcmpleP px t d a b st
  | .vsel t d a b => vselP px t d a b st
  | _ => .next (st.takeFault 0x03 0 0 0)

/-- PREFIX: the word behind it is fetched, the pair is checked in the order of R79, and the instruction runs under the prefix. -/
def execPfx (s m : BitVec 1) (o : BitVec 5) (r : BitVec 3) (z : BitVec 1) (k : BitVec 4) (st : State) : Outcome :=
  if st.f.st ≠ .running then .fault .noFiring
  else
    let px := Pfx.ofFields s m o r z k
    match st.fetchPair px px.bad with
    | (.error e, t) => .next (t.takeFlt e)
    | (.ok i, t) => runPrefixed px i t

end Sys2Proof.Machine
end

