-- ==== Sys2Proof/Machine/Regions.lean ====
section
/-! DEFINITION. The region instructions (R202, R203, R207 to R216). -/

namespace Sys2Proof.Machine

open Sys2Proof

/-! ## rbegin -/

/-- The other firing context of the issuing logical core. -/
def State.sibling (s : State) : Firing := s.firing (firingKey s.myLc (1 - s.f.number))

/-- A firing that has a region open or pending (R216). -/
def Firing.inRegion (g : Firing) : Bool := g.st != .free && (g.region.isOpen || fld g.regstat 2 0 == 2)

/-- REGSTAT at the first attempt of an instance (R209). -/
def firstAttempt (r : Word) : Word := withOutcome ((r &&& ~~~(0xFFFF0000 : Word)) ||| 0x10000) 1

/-- A firing that opens its instance number `n`: the snapshot, the YLEFT noted, which is what the instruction after rbegin finds, and the
address at which a restart goes on. -/
def Firing.openRegion (g : Firing) (n : Word) : Firing :=
  { g with regseq := n, regstat := firstAttempt g.regstat,
           region := { isOpen := true, hold := [], reads := [], snap := g.regs, yleft := g.yleft - 1, resume := g.pc + 4, retired := 0 } }

def execRbegin (s : State) : Outcome :=
  s.issue .word fun s =>
    if !s.job.regions then .fault 0x01 0 0
    else if s.f.region.isOpen then .fault 0x0E 0 0
    else if s.job.det && (s.me.retired || s.sibling.inRegion) then .fault 0x0E 0 0
    else
      let n := s.me.regionCtr + 1
      let g := s.f.openRegion n
      let t : State := ({ s with f := { g with pc := g.pc + 4, yleft := g.yleft - 1, wait := .none } } : State).modLc s.myLc
        fun c => { c with regionCtr := n }
      .leave t.settle

/-! ## rcommit -/

/-- How an instruction issues that may close a region. -/
def How.closing : How := { How.word with closes := true }

/-- Is u = k · 2^−32 below the value? -/
def drawBelow (k : Nat) (r : FVal) : Bool :=
  match r with
  | .nan _ => false
  | .inf neg => !neg
  | .zero _ => false
  | .fin n d => decide ((k * d : Int) < n * 2 ^ 32)

/-- The held bytes of a line are written at its home, which gives it a new stamp; a poisoned granule that they do not cover stays
poisoned and its bytes are lost (R163, R209). -/
def State.publishLine (s : State) (h : HoldLine) : State :=
  let pa := 64 * h.line
  if s.poisoned pa && h.mask != BitVec.allOnes 64 then s.writeGranule (some s.ctxId) false pa [0]
  else
    s.writeGranule (some s.ctxId) false pa
      ((s.readHome false pa 64).zipIdx.map fun e => if h.mask.getLsbD e.2 then h.data.extractLsb' (8 * e.2) 8 else e.1)

/-- Puts a line into its place by ascending line number. -/
def insertLine (h : HoldLine) : List HoldLine → List HoldLine
  | [] => [h]
  | x :: r => if h.line < x.line then h :: x :: r else x :: insertLine h r

/-- The lines of the write-hold buffer in ascending physical address. -/
def Region.lines (r : Region) : List HoldLine := r.hold.foldl (fun l h => insertLine h l) []

/-- REGSTAT after a draw. -/
def afterDraw (r : Word) (k : Nat) (nan acc : Bool) : Word :=
  BitVec.ofNat 64 (k * 2 ^ 32 + fld r 31 4 * 16 + flag nan 3 + (if acc then 3 else 4))

/-- An rcommit that has passed validation with the draw k. It publishes the lines that it held as it began, though a put of its release, or the almanac's
entry on a page of registers, may have ended the launch meanwhile: it completes in full before its firing stops (R211). -/
def State.commit (s : State) (lines : List HoldLine) (d : BitVec 6) (r : FVal) (k : Nat) : State :=
  let acc := drawBelow k r
  let s := s.releaseDevice
  let s := if acc then lines.foldl State.publishLine s else s
  let s := s.acquire 3
  let g := s.f
  let s : State := { s with f := { g with
    regstat := afterDraw g.regstat k r.isNan acc, region := { g.region with isOpen := false, hold := [], reads := [] } } }
  (s.raiseFlags (if r.isNan then flInvalid else 0)).setSreg d (if acc then 1 else 0)

/-- rcommit (R209, R214, R216): a conflict that validation finds charges the rcommit too before the region starts again (R219). -/
def execRcommit (d a : BitVec 6) (s : State) : Outcome :=
  s.issue .closing fun s =>
    let g := s.f
    if !g.region.isOpen then .fault 0x0E 0 0
    else if s.job.det && !s.commitTurn s.myLc g.regseq.toNat then
      .leave { s with f := { g with st := .waiting, wait := .need .commitOrder, waited := 0, probes := 0, waitNo := g.waitNo + 1 } }
    else if s.job.det && !s.job.replay && !s.almRoom 1 then .fault 0x13 0 0
    else if !s.validates g.region then .leave { s with f := { g.restart with yleft := g.yleft - 1 } }
    else
      let r := Fmt.f32.value ((s.sreg a).toNat % 2 ^ 32)
      let k := drawFn (commitKey s.me.seed s.me.index g.regseq)
      match s.recorded [(5, BitVec.ofNat 64 k)] with
      | .error e => .ofFlt e
      | .ok (ks, t) => .retire ((t.commit g.region.lines d r ((ks.headD 0).toNat % 2 ^ 32)).settle)

/-! ## rabort, rstat -/

def execRabort (s : State) : Outcome :=
  s.issue .closing fun s =>
    if s.f.region.isOpen then
      if s.job.det && s.me.retired then .fault 0x0E 0 0
      else .retire (({ s with f := s.f.discardRegion 5 } : State).settle)
    else if s.job.det then .retire ((s.modLc s.myLc fun c => { c with retired := true }).settle)
    else .retire s

def execRstat (d : BitVec 6) (s : State) : Outcome := s.compute d s.f.regstat

end Sys2Proof.Machine
end

