-- ==== Sys2Proof/Machine/ScalarMemory.lean ====
section
/-! DEFINITION. Scalar loads and stores, acquire, release and non-temporal accesses, fences, atomics and put (R164 to R169). -/

namespace Sys2Proof.Machine

open Sys2Proof

/-- The effective address of a scalar access: base plus a signed offset in units of `n` bytes. -/
def State.address {k : Nat} (s : State) (b : BitVec 6) (o : BitVec k) (n : Nat) : Word :=
  s.sreg b + o.signExtend 64 * BitVec.ofNat 64 n

/-- Bytes extended to a register. -/
def extend (signed : Bool) (bs : List Byte) : Word :=
  if signed then BitVec.ofInt 64 (toInt (8 * bs.length) (leNat bs)) else leWord bs

/-! ## Loads and stores (R165) -/

def State.load (s : State) (d b : BitVec 6) (o : BitVec 10) (n : Nat) (signed : Bool) : Outcome :=
  s.issue .word fun s =>
    match s.loadAt (s.address b o n) n n true with
    | .stop e => e
    | .ok bs t => .retire (t.setSreg d (extend signed bs))

def State.store (s : State) (d b : BitVec 6) (o : BitVec 10) (n : Nat) : Outcome :=
  s.issue .word fun s =>
    match s.storeAt (s.address b o n) n (leBytes n (s.sreg d).toNat) with
    | .stop e => e
    | .ok t => .retire t

def execLdI8 (d b : BitVec 6) (o : BitVec 10) (s : State) : Outcome := s.load d b o 1 true
def execLdN8 (d b : BitVec 6) (o : BitVec 10) (s : State) : Outcome := s.load d b o 1 false
def execLdI16 (d b : BitVec 6) (o : BitVec 10) (s : State) : Outcome := s.load d b o 2 true
def execLdN16 (d b : BitVec 6) (o : BitVec 10) (s : State) : Outcome := s.load d b o 2 false
def execLdI32 (d b : BitVec 6) (o : BitVec 10) (s : State) : Outcome := s.load d b o 4 true
def execLdN32 (d b : BitVec 6) (o : BitVec 10) (s : State) : Outcome := s.load d b o 4 false
def execLd (d b : BitVec 6) (o : BitVec 10) (s : State) : Outcome := s.load d b o 8 false
def execSt8 (d b : BitVec 6) (o : BitVec 10) (s : State) : Outcome := s.store d b o 1
def execSt16 (d b : BitVec 6) (o : BitVec 10) (s : State) : Outcome := s.store d b o 2
def execSt32 (d b : BitVec 6) (o : BitVec 10) (s : State) : Outcome := s.store d b o 4
def execSt (d b : BitVec 6) (o : BitVec 10) (s : State) : Outcome := s.store d b o 8

/-! ## Acquire, release, non-temporal (R166) -/

/-- An acquire load is answered as a plain one (R156), and empties the L1 at cluster scope or wider before any later load (R190). -/
def State.loadAcquire (s : State) (d b : BitVec 6) (c : BitVec 3) (o : BitVec 7) (n : Nat) : Outcome :=
  s.issue .word fun s => s.outside
    (match s.loadAt (s.address b o n) n n true with
     | .stop e => e
     | .ok bs t => .retire ((t.acquire c.toNat).setSreg d (leWord bs)))

/-- The lines of a write reach the memory-side cache (R162, R186). -/
def State.cleanSpots (s : State) (ps : List Spot) : State :=
  ps.foldl (fun s p => if p.host || p.win.isSome then s else s.l2Clean (p.pa / 64)) s

/-- A release store: the earlier accesses are performed at the scope, then the store; at system scope it reaches the memory-side cache. -/
def State.storeRelease (s : State) (d b : BitVec 6) (c : BitVec 3) (o : BitVec 7) (n : Nat) : Outcome :=
  s.issue .word fun s => s.outside
    (let ea := s.address b o n
     if ea.toNat % n ≠ 0 then .fault 0x07 ea 2
     else
       match s.locate s.asker .store (pieces ea.toNat n) with
       | .error e => .ofFlt e
       | .ok (sp, ts) =>
         let t := ((s.reach s.asker sp ts).release c.toNat).storeSpots s.asker (dealBytes sp (leBytes n (s.sreg d).toNat))
         .retire (if c = 4 then t.cleanSpots sp else t).settle)

/-- One piece of a non-temporal store: it bypasses the L1, updates a resident line of the L2 and is written to the memory-side cache. A
line of the core's L1 takes its bytes, since a later load of the firing returns them (R164, R187). -/
def State.stntSpot (s : State) (q : Asker) (p : Spot) (bs : List Byte) : State :=
  let s := s.l1Update q.pcore p.host p.pa bs
  if p.host then s.writeGranule (some q.ctx) true p.pa bs
  else if isDeviceReg p.pa then s.sendRegister p.pa bs
  else if !isHbm p.pa then s.writeGranule (some q.ctx) false p.pa bs
  else if (s.l2Line (p.pa / 64)).isSome then (s.writeGranule (some q.ctx) false p.pa bs).l2Clean (p.pa / 64)
  else if s.poisoned p.pa then s.memError 2 (some q.ctx) p.pa
  else
    let s := s.mscDirty p.pa
    { s with mem := ({ s.mem with home := Mem.write s.mem.home p.pa bs } : Memories).toSide (p.pa / 64) }

def State.storeNt (s : State) (d b : BitVec 6) (o : BitVec 7) (n : Nat) : Outcome :=
  s.issue .word fun s => s.outside
    (let ea := s.address b o n
     if ea.toNat % n ≠ 0 then .fault 0x07 ea 2
     else
       match s.locate s.asker .stnt (pieces ea.toNat n) with
       | .error e => .ofFlt e
       | .ok (sp, ts) =>
         let t := (dealBytes sp (leBytes n (s.sreg d).toNat)).foldl (fun t e => (t.stntSpot s.asker e.1 e.2).settle) (s.reach s.asker sp ts)
         .retire t.settle)

def execLdAcqN32 (d b : BitVec 6) (c : BitVec 3) (o : BitVec 7) (s : State) : Outcome := s.loadAcquire d b c o 4
def execLdAcq (d b : BitVec 6) (c : BitVec 3) (o : BitVec 7) (s : State) : Outcome := s.loadAcquire d b c o 8
def execStRel32 (d b : BitVec 6) (c : BitVec 3) (o : BitVec 7) (s : State) : Outcome := s.storeRelease d b c o 4
def execStRel (d b : BitVec 6) (c : BitVec 3) (o : BitVec 7) (s : State) : Outcome := s.storeRelease d b c o 8
def execStnt32 (d b : BitVec 6) (o : BitVec 7) (s : State) : Outcome := s.storeNt d b o 4
def execStnt (d b : BitVec 6) (o : BitVec 7) (s : State) : Outcome := s.storeNt d b o 8

/-! ## Fences, draining, flushing, invalidation (R167) -/

def execFence (c : BitVec 3) (s : State) : Outcome :=
  s.issue .word fun s => s.outside (.retire ((s.release c.toNat).acquire c.toNat).settle)

/-- ntdrain: every stnt has reached the memory-side cache already (log 3, DESIGN CHOICE). -/
def execNtdrain (s : State) : Outcome := s.issue .word fun s => s.outside (.retire s)

/-- Where a granule of the context lies in host memory (`true`) or HBM, if its page is present. -/
def State.granuleAt (s : State) (va : Nat) : Option (Bool × Nat) :=
  if 0x400000000000 ≤ va then none
  else
    match s.translate s.me.pcore s.ctxId va with
    | .ok t => if t.attr.host || isHbm (t.pa + (va - t.va)) then some (t.attr.host, t.pa + (va - t.va)) else none
    | _ => none

/-- Its address in HBM. -/
def State.granulePA (s : State) (va : Nat) : Option Nat := match s.granuleAt va with | some (false, pa) => some pa | _ => none

/-- The granules that meet a range. -/
def granulesOf (va n : Nat) : List Nat :=
  if n = 0 then [] else (List.range ((va + n - 1) / 64 + 1 - va / 64)).map fun i => (va / 64 + i) * 64

def execMflush (d a b : BitVec 6) (s : State) : Outcome :=
  s.issue .word fun s => s.outside
    (let len := min (s.sreg b).toNat 0x100000
     let t := (s.releaseSystem).acquire 4
     let t := (granulesOf (s.sreg a).toNat len).foldl
       (fun t va => match t.granulePA va with | some pa => (t.l2Clean (pa / 64)).mscClean pa | none => t) t
     .retire ((t.setSreg d (BitVec.ofNat 64 len)).settle))

def execCinv (a b : BitVec 6) (s : State) : Outcome :=
  s.issue .word fun s => s.outside
    (let n := (s.sreg b).toNat
     if 32768 ≤ n then .retire (s.emptyL1 s.me.pcore)
     else .retire ((granulesOf (s.sreg a).toNat n).foldl
       (fun t va => match t.granuleAt va with | some (host, pa) => t.dropL1 t.me.pcore host (pa / 64) | none => t) s))

/-! ## Atomics (R168) -/

/-- An indivisible read-modify-write of `n` bytes: an acquire and a release at its scope. -/
def State.atomic (s : State) (d a : BitVec 6) (c : BitVec 3) (n : Nat) (signed : Bool) (f : Nat → Nat) : Outcome :=
  s.issue .word fun s => s.outside
    (let ea := s.sreg a
     if ea.toNat % n ≠ 0 then .fault 0x07 ea 2
     else
       match s.locate s.asker (.atomic n) (pieces ea.toNat n) with
       | .error e => .ofFlt e
       | .ok (sp, ts) =>
         let t := s.reach s.asker sp ts
         if sp.any fun p => t.poisoned p.pa then .fault 0x0A ea 2
         else
           let t := t.release c.toNat
           let (old, t) := t.loadSpots s.asker false sp
           let t := t.storeSpots s.asker (dealBytes sp (leBytes n (f (leNat old))))
           let t := sp.foldl (fun t p => if p.win.isSome then t else t.dropL1 s.me.pcore p.host (p.pa / 64)) t
           let t := if c = 4 then t.cleanSpots sp else t
           .retire (((t.acquire c.toNat).setSreg d (extend signed old)).settle))

def execAmoswap (d a b : BitVec 6) (c : BitVec 3) (s : State) : Outcome :=
  s.atomic d a c 8 false fun _ => (s.sreg b).toNat
def execAmoaddI64 (d a b : BitVec 6) (c : BitVec 3) (s : State) : Outcome :=
  s.atomic d a c 8 false fun m => m + (s.sreg b).toNat
def execAmoand (d a b : BitVec 6) (c : BitVec 3) (s : State) : Outcome :=
  s.atomic d a c 8 false fun m => m &&& (s.sreg b).toNat
def execAmoor (d a b : BitVec 6) (c : BitVec 3) (s : State) : Outcome :=
  s.atomic d a c 8 false fun m => m ||| (s.sreg b).toNat
def execAmoxor (d a b : BitVec 6) (c : BitVec 3) (s : State) : Outcome :=
  s.atomic d a c 8 false fun m => m ^^^ (s.sreg b).toNat
def execAmomaxI64 (d a b : BitVec 6) (c : BitVec 3) (s : State) : Outcome :=
  s.atomic d a c 8 false fun m => if toInt 64 m < (s.sreg b).toInt then (s.sreg b).toNat else m
def execAmominI64 (d a b : BitVec 6) (c : BitVec 3) (s : State) : Outcome :=
  s.atomic d a c 8 false fun m => if (s.sreg b).toInt < toInt 64 m then (s.sreg b).toNat else m
def execAmomaxN64 (d a b : BitVec 6) (c : BitVec 3) (s : State) : Outcome :=
  s.atomic d a c 8 false fun m => Nat.max m (s.sreg b).toNat
def execAmominN64 (d a b : BitVec 6) (c : BitVec 3) (s : State) : Outcome :=
  s.atomic d a c 8 false fun m => Nat.min m (s.sreg b).toNat
def execAmocas (d a b : BitVec 6) (c : BitVec 3) (s : State) : Outcome :=
  s.atomic d a c 8 false fun m => if m = (s.sreg d).toNat then (s.sreg b).toNat else m
def execAmoaddI32 (d a b : BitVec 6) (c : BitVec 3) (s : State) : Outcome :=
  s.atomic d a c 4 true fun m => m + (s.sreg b).toNat
def execAmoswap32 (d a b : BitVec 6) (c : BitVec 3) (s : State) : Outcome :=
  s.atomic d a c 4 false fun _ => (s.sreg b).toNat
/-- amoadd.fx64: addition modulo 2^64 (R51). -/
def execAmoaddFx64 (d a b : BitVec 6) (c : BitVec 3) (s : State) : Outcome :=
  s.atomic d a c 8 false fun m => m + (s.sreg b).toNat
/-- amoadd.f32: RNE, and FLAGS is not written. -/
def execAmoaddF32 (d a b : BitVec 6) (c : BitVec 3) (s : State) : Outcome :=
  s.atomic d a c 4 false fun m =>
    (Fmt.f32.round .rne 0 (addVal .rne (Fmt.f32.value m) (Fmt.f32.value ((s.sreg b).toNat % 2 ^ 32))).1).pat
def execAmocas32 (d a b : BitVec 6) (c : BitVec 3) (s : State) : Outcome :=
  s.atomic d a c 4 false fun m => if m = (s.sreg d).toNat % 2 ^ 32 then (s.sreg b).toNat else m

/-! ## put (R169) -/

/-- A put issues: its checks, its source as it stands, and the write and increment on their way. -/
def State.issuePut (s : State) (a b : BitVec 6) (align : Nat) (data : List Byte) : Outcome :=
  s.issue .word fun s => s.outside
    (let ea := s.sreg a
     if ea.toNat % align ≠ 0 then .fault 0x07 ea 2
     else
       match s.locate s.asker .put (pieces ea.toNat data.length) with
       | .error e => .ofFlt e
       | .ok (sp, ts) =>
         let go (ctr : Option (Nat × Bool)) (t : State) : Eff :=
           let parts := (dealBytes sp data).map fun e => { pa := e.1.pa, host := e.1.host, sc := e.1.attr.sc, data := e.2 }
           let p : PendingPut := { fk := t.f.key, seqno := t.f.seqno, launch := t.myLaunch, ctx := t.ctxId, pcore := t.me.pcore, parts := parts,
                                   far := sp.any Spot.host, ctr := ctr }
           .retire { t with net := { t.net with puts := t.net.puts ++ [p] } }
         if b = 0 then go none (s.noteAll s.asker ts)
         else
           let ca := s.sreg b
           if ca.toNat % 8 ≠ 0 then .fault 0x07 ca 2
           else
             match s.locate s.asker .increment (pieces ca.toNat 8) with
             | .error e => .ofFlt e
             | .ok (cp, us) => go (cp.head?.map fun p => (p.pa, p.attr.sc)) ((s.noteAll s.asker ts).noteAll s.asker us))

def execPut (a b c : BitVec 6) (s : State) : Outcome := s.issuePut a b 8 (leBytes 8 (s.sreg c).toNat)
def execPutV (a b c : BitVec 6) (s : State) : Outcome :=
  s.issuePut a b 64 (leBytes 512 (s.vreg (wide c)).toNat)

end Sys2Proof.Machine
end

