-- ==== Sys2Proof/Machine/Tasks.lean ====
section
/-! DEFINITION. spawn, spawnj, done and yield (R258 to R260). -/

namespace Sys2Proof.Machine

open Sys2Proof

/-! ## spawn, spawnj -/

/-- The pip of four register words. -/
def State.pipOf (s : State) (a b c : BitVec 6) : Pip :=
  { w0 := s.sreg a, w1 := s.sreg b, w2 := s.sreg c, w3 := s.sreg (c + 1) }

/-- The checks of a pip in the order of R258, the zero fields of R21 all with the first. -/
def Pip.check (p : Pip) (ncore : Nat) : Option Eff :=
  if fld p.w0 59 48 ≠ 0 || (!p.isPinned && p.target != 0) || (!p.hasJoin && p.cell != 0) then some (.fault 0x02 0 0)
  else if p.w0.getLsbD 0 then some (.fault 0x07 (BitVec.ofNat 64 p.code) 0)
  else if p.isPinned && decide (ncore ≤ p.target) then some (.fault 0x09 0 0)
  else none

/-- A pip is placed: a release at device scope, and the live count rises. -/
def State.placePip (s : State) (p : Pip) : Out × State := (s.pipItem p, (s.release 3).addLive s.myLaunch 1)

def execSpawn (a b c : BitVec 6) (s : State) : Outcome :=
  s.outItem fun s =>
    let p := s.pipOf a b c
    match p.check s.job.ncore with
    | some e => .error e
    | none => if p.hasJoin then .error (.fault 0x02 0 0) else .ok (s.placePip p)

def execSpawnj (a b c : BitVec 6) (s : State) : Outcome :=
  s.outItem fun s =>
    let p := s.pipOf a b c
    match p.check s.job.ncore with
    | some e => .error e
    | none =>
      if !p.hasJoin then .error (.fault 0x02 0 0)
      else
        match s.locateCell p.cell with
        | .error e => .error (.ofFlt e)
        | .ok (pa, t) => .ok (((t.release 3).addCell pa 1).placePip p)

/-! ## done -/

/-- How done and yield issue: with YLEFT 0 too. -/
def How.ending : How := { How.word with ends := true }

/-- Every command that still waits for a guard of a firing is resolved false (R227). -/
def State.resolvePending (s : State) (fk : Nat) (seqno : BitVec 32) : State :=
  let learn (k : Cmd) : Cmd :=
    if k.fk = fk && k.seqno == seqno && k.guard = .pending then { k with guard := .known false } else k
  (s.modLc (lcOf fk) fun c => { c with matq := c.matq.map learn, copyq := c.copyq.map learn }).prune (lcOf fk)

/-- What the source of a firing is owed at its done: a handler frees its mailbox entry, an actor consumes its inputs. -/
def State.paySource (s : State) (lk : Nat) (src : Source) : State :=
  match src with
  | .message i => (s.modLc lk fun c => { c with mbox := Tbl.erase c.mbox i }).unpark lk 24
  | .actor i =>
    match Tbl.find (s.lc lk).actors i with
    | none => s
    | some a =>
      let s := s.consume lk a
      s.modLc lk fun c => { c with actors := Tbl.set c.actors i { a with alive := false } }
  | _ => s

/-- done, its join cell already decremented if it has one: the context is freed and the live count falls. A put that it performs may have ended the
launch, and the firing with it (R338). -/
def State.retireFiring (s : State) : State :=
  let g := s.f
  let s := s.stopFiring g.key
  (s.modLaunch (launchOfLc (lcOf g.key)) fun l => { l with live := l.live - 1 }).settle

def execDone (s : State) : Outcome :=
  s.issue .ending fun s => s.outside
    (let g := s.f
     let cell : Except Flt (Option Nat × State) :=
       if g.pip.hasJoin then (s.locateCell g.pip.cell).map fun x => (some x.1, x.2) else .ok (none, s)
     match cell with
     | .error e => .ofFlt e
     | .ok (pa, t) =>
       let t := t.resolveAll g.key
       let t := if g.service then t.resolvePending g.key g.outer else t
       let t := t.release 3
       if t.f.st = .free then .leave t else
       let t := t.paySource t.myLc g.source
       match pa with
       | none => .leave t.retireFiring
       | some pa =>
         match t.dropCell pa with
         | .error c => .fault c 0 0
         | .ok (some o, u) => .leave (u.retireFiring.joinItem u.myLc o).settle
         | .ok (none, u) => .leave u.retireFiring)

/-! ## yield -/

/-- The bound that yield sets (R260). -/
def yieldBound (n initial : Nat) : Nat := if n = 0 then initial else Nat.min n 1048576

/-- A yielded firing competes in class 4, behind every item of its priority that is there (R26, R31). -/
def execYield (a : BitVec 6) (s : State) : Outcome :=
  s.issue .ending fun s => s.outside
    (let g := s.f
     let n := yieldBound (s.sreg a).toNat s.job.bound.toNat
     let q : QPip := { pip := g.pip, source := .yielded g.number, launch := s.myLaunch, prio := g.prio.toNat, pass := 0, age := 0 }
     let t : State := { s with f := { g with yleft := BitVec.ofNat 21 n, pc := g.pc + 4, st := .yielded, wait := .none } }
     let t := t.modLc t.myLc fun c => { c with pinned := c.pinned ++ [q] }
     .leave (t.freeSlot g.key false).settle)

end Sys2Proof.Machine
end

