-- ==== Sys2Proof/Machine/Dispatch.lean ====
section
/-! DEFINITION. The dispatch: one arm for each constructor of the instruction type, each a direct call of its meaning. -/

namespace Sys2Proof.Machine

open Sys2Proof

def exec (i : Instr) (s : State) : Host.Outcome State Fault Refusal :=
  match i with
  | .add d a b => Sys2Proof.Machine.execAdd d a b s
  | .sub d a b => Sys2Proof.Machine.execSub d a b s
  | .and d a b => Sys2Proof.Machine.execAnd d a b s
  | .or d a b => Sys2Proof.Machine.execOr d a b s
  | .xor d a b => Sys2Proof.Machine.execXor d a b s
  | .sll d a b => Sys2Proof.Machine.execSll d a b s
  | .srl d a b => Sys2Proof.Machine.execSrl d a b s
  | .sra d a b => Sys2Proof.Machine.execSra d a b s
  | .slt d a b => Sys2Proof.Machine.execSlt d a b s
  | .sltu d a b => Sys2Proof.Machine.execSltu d a b s
  | .min d a b => Sys2Proof.Machine.execMin d a b s
  | .max d a b => Sys2Proof.Machine.execMax d a b s
  | .minu d a b => Sys2Proof.Machine.execMinu d a b s
  | .maxu d a b => Sys2Proof.Machine.execMaxu d a b s
  | .csel d a b => Sys2Proof.Machine.execCsel d a b s
  | .addi d a im => Sys2Proof.Machine.execAddi d a im s
  | .lui d im => Sys2Proof.Machine.execLui d im s
  | .auipc d im => Sys2Proof.Machine.execAuipc d im s
  | .mul d a b => Sys2Proof.Machine.execMul d a b s
  | .mulh d a b => Sys2Proof.Machine.execMulh d a b s
  | .mulhu d a b => Sys2Proof.Machine.execMulhu d a b s
  | .div d a b => Sys2Proof.Machine.execDiv d a b s
  | .divu d a b => Sys2Proof.Machine.execDivu d a b s
  | .rem d a b => Sys2Proof.Machine.execRem d a b s
  | .remu d a b => Sys2Proof.Machine.execRemu d a b s
  | .clz d a => Sys2Proof.Machine.execClz d a s
  | .ctz d a => Sys2Proof.Machine.execCtz d a s
  | .popc d a => Sys2Proof.Machine.execPopc d a s
  | .rev8 d a => Sys2Proof.Machine.execRev8 d a s
  | .brev d a => Sys2Proof.Machine.execBrev d a s
  | .rotl d a b => Sys2Proof.Machine.execRotl d a b s
  | .rotr d a b => Sys2Proof.Machine.execRotr d a b s
  | .bext d a b => Sys2Proof.Machine.execBext d a b s
  | .bins d a b => Sys2Proof.Machine.execBins d a b s
  | .clmul d a b => Sys2Proof.Machine.execClmul d a b s
  | .clmulh d a b => Sys2Proof.Machine.execClmulh d a b s
  | .draw d b => Sys2Proof.Machine.execDraw d b s
  | .fadd d a b => Sys2Proof.Machine.execFadd d a b s
  | .fsub d a b => Sys2Proof.Machine.execFsub d a b s
  | .fmul d a b => Sys2Proof.Machine.execFmul d a b s
  | .fdiv d a b => Sys2Proof.Machine.execFdiv d a b s
  | .fsqrt d a => Sys2Proof.Machine.execFsqrt d a s
  | .fmin d a b => Sys2Proof.Machine.execFmin d a b s
  | .fmax d a b => Sys2Proof.Machine.execFmax d a b s
  | .feq d a b => Sys2Proof.Machine.execFeq d a b s
  | .flt d a b => Sys2Proof.Machine.execFlt d a b s
  | .fle d a b => Sys2Proof.Machine.execFle d a b s
  | .fclass d a => Sys2Proof.Machine.execFclass d a s
  | .fcvtF32I64 d a => Sys2Proof.Machine.execFcvtF32I64 d a s
  | .fcvtI64F32 d a => Sys2Proof.Machine.execFcvtI64F32 d a s
  | .fcvtF32Fx64 d a => Sys2Proof.Machine.execFcvtF32Fx64 d a s
  | .fcvtFx64F32 d a => Sys2Proof.Machine.execFcvtFx64F32 d a s
  | .frcp d a => Sys2Proof.Machine.execFrcp d a s
  | .frsqrt d a => Sys2Proof.Machine.execFrsqrt d a s
  | .frcps d a b => Sys2Proof.Machine.execFrcps d a b s
  | .frsqrts d a b => Sys2Proof.Machine.execFrsqrts d a b s
  | .fexp2 d a => Sys2Proof.Machine.execFexp2 d a s
  | .flog2 d a => Sys2Proof.Machine.execFlog2 d a s
  | .fmadd d a b => Sys2Proof.Machine.execFmadd d a b s
  | .fmsub d a b => Sys2Proof.Machine.execFmsub d a b s
  | .fnmadd d a b => Sys2Proof.Machine.execFnmadd d a b s
  | .fnmsub d a b => Sys2Proof.Machine.execFnmsub d a b s
  | .beq a b o => Sys2Proof.Machine.execBeq a b o s
  | .bne a b o => Sys2Proof.Machine.execBne a b o s
  | .blt a b o => Sys2Proof.Machine.execBlt a b o s
  | .bge a b o => Sys2Proof.Machine.execBge a b o s
  | .bltu a b o => Sys2Proof.Machine.execBltu a b o s
  | .bgeu a b o => Sys2Proof.Machine.execBgeu a b o s
  | .btst a b o => Sys2Proof.Machine.execBtst a b o s
  | .btstz a b o => Sys2Proof.Machine.execBtstz a b o s
  | .bz d im => Sys2Proof.Machine.execBz d im s
  | .j im => Sys2Proof.Machine.execJ im s
  | .jal d im => Sys2Proof.Machine.execJal d im s
  | .jalr d a im => Sys2Proof.Machine.execJalr d a im s
  | .ldI8 d b o => Sys2Proof.Machine.execLdI8 d b o s
  | .ldN8 d b o => Sys2Proof.Machine.execLdN8 d b o s
  | .ldI16 d b o => Sys2Proof.Machine.execLdI16 d b o s
  | .ldN16 d b o => Sys2Proof.Machine.execLdN16 d b o s
  | .ldI32 d b o => Sys2Proof.Machine.execLdI32 d b o s
  | .ldN32 d b o => Sys2Proof.Machine.execLdN32 d b o s
  | .ld d b o => Sys2Proof.Machine.execLd d b o s
  | .st8 d b o => Sys2Proof.Machine.execSt8 d b o s
  | .st16 d b o => Sys2Proof.Machine.execSt16 d b o s
  | .st32 d b o => Sys2Proof.Machine.execSt32 d b o s
  | .st d b o => Sys2Proof.Machine.execSt d b o s
  | .ldAcqN32 d b c o => Sys2Proof.Machine.execLdAcqN32 d b c o s
  | .ldAcq d b c o => Sys2Proof.Machine.execLdAcq d b c o s
  | .stRel32 d b c o => Sys2Proof.Machine.execStRel32 d b c o s
  | .stRel d b c o => Sys2Proof.Machine.execStRel d b c o s
  | .stnt32 d b o => Sys2Proof.Machine.execStnt32 d b o s
  | .stnt d b o => Sys2Proof.Machine.execStnt d b o s
  | .amoswap d a b c => Sys2Proof.Machine.execAmoswap d a b c s
  | .amoaddI64 d a b c => Sys2Proof.Machine.execAmoaddI64 d a b c s
  | .amoand d a b c => Sys2Proof.Machine.execAmoand d a b c s
  | .amoor d a b c => Sys2Proof.Machine.execAmoor d a b c s
  | .amoxor d a b c => Sys2Proof.Machine.execAmoxor d a b c s
  | .amomaxI64 d a b c => Sys2Proof.Machine.execAmomaxI64 d a b c s
  | .amominI64 d a b c => Sys2Proof.Machine.execAmominI64 d a b c s
  | .amomaxN64 d a b c => Sys2Proof.Machine.execAmomaxN64 d a b c s
  | .amominN64 d a b c => Sys2Proof.Machine.execAmominN64 d a b c s
  | .amocas d a b c => Sys2Proof.Machine.execAmocas d a b c s
  | .amoaddI32 d a b c => Sys2Proof.Machine.execAmoaddI32 d a b c s
  | .amoswap32 d a b c => Sys2Proof.Machine.execAmoswap32 d a b c s
  | .amoaddFx64 d a b c => Sys2Proof.Machine.execAmoaddFx64 d a b c s
  | .amoaddF32 d a b c => Sys2Proof.Machine.execAmoaddF32 d a b c s
  | .amocas32 d a b c => Sys2Proof.Machine.execAmocas32 d a b c s
  | .fence c => Sys2Proof.Machine.execFence c s
  | .mflush d a b => Sys2Proof.Machine.execMflush d a b s
  | .cinv a b => Sys2Proof.Machine.execCinv a b s
  | .put a b c => Sys2Proof.Machine.execPut a b c s
  | .putV a b c => Sys2Proof.Machine.execPutV a b c s
  | .vld d b o => Sys2Proof.Machine.execVld d b o s
  | .vst d b o => Sys2Proof.Machine.execVst d b o s
  | .vldTa6 d b o => Sys2Proof.Machine.execVldTa6 d b o s
  | .vstTa6 d b o => Sys2Proof.Machine.execVstTa6 d b o s
  | .vgather t d a b => Sys2Proof.Machine.execVgather t d a b s
  | .vscatter t d a b => Sys2Proof.Machine.execVscatter t d a b s
  | .vaddInt t sc d a b => Sys2Proof.Machine.execVaddInt t sc d a b s
  | .vsubInt t sc d a b => Sys2Proof.Machine.execVsubInt t sc d a b s
  | .vmulInt t sc d a b => Sys2Proof.Machine.execVmulInt t sc d a b s
  | .vmulh t sc d a b => Sys2Proof.Machine.execVmulh t sc d a b s
  | .vadds t sc d a b => Sys2Proof.Machine.execVadds t sc d a b s
  | .vsubs t sc d a b => Sys2Proof.Machine.execVsubs t sc d a b s
  | .vminInt t sc d a b => Sys2Proof.Machine.execVminInt t sc d a b s
  | .vmaxInt t sc d a b => Sys2Proof.Machine.execVmaxInt t sc d a b s
  | .vmadd t sc d a b => Sys2Proof.Machine.execVmadd t sc d a b s
  | .vwmul t sc d a b => Sys2Proof.Machine.execVwmul t sc d a b s
  | .vand t sc d a b => Sys2Proof.Machine.execVand t sc d a b s
  | .vor t sc d a b => Sys2Proof.Machine.execVor t sc d a b s
  | .vxor t sc d a b => Sys2Proof.Machine.execVxor t sc d a b s
  | .vshl t sc d a b => Sys2Proof.Machine.execVshl t sc d a b s
  | .vshr t sc d a b => Sys2Proof.Machine.execVshr t sc d a b s
  | .vclmul t sc d a b => Sys2Proof.Machine.execVclmul t sc d a b s
  | .vaddFloat t sc d a b => Sys2Proof.Machine.execVaddFloat t sc d a b s
  | .vsubFloat t sc d a b => Sys2Proof.Machine.execVsubFloat t sc d a b s
  | .vmulFloat t sc d a b => Sys2Proof.Machine.execVmulFloat t sc d a b s
  | .vfma t sc d a b => Sys2Proof.Machine.execVfma t sc d a b s
  | .vminFloat t sc d a b => Sys2Proof.Machine.execVminFloat t sc d a b s
  | .vmaxFloat t sc d a b => Sys2Proof.Machine.execVmaxFloat t sc d a b s
  | .vexp2 d a => Sys2Proof.Machine.execVexp2 d a s
  | .vlog2 d a => Sys2Proof.Machine.execVlog2 d a s
  | .vrcp d a => Sys2Proof.Machine.execVrcp d a s
  | .vrsqrt d a => Sys2Proof.Machine.execVrsqrt d a s
  | .vrcps sc d a b => Sys2Proof.Machine.execVrcps sc d a b s
  | .vrsqrts sc d a b => Sys2Proof.Machine.execVrsqrts sc d a b s
  | .vcvt t u d a => Sys2Proof.Machine.execVcvt t u d a s
  | .vcvtw t u d a => Sys2Proof.Machine.execVcvtw t u d a s
  | .vquant t d a b => Sys2Proof.Machine.execVquant t d a b s
  | .vamax t a => Sys2Proof.Machine.execVamax t a s
  | .vmov t d a => Sys2Proof.Machine.execVmov t d a s
  | .vbcast t d a => Sys2Proof.Machine.execVbcast t d a s
  | .vextract t d a b => Sys2Proof.Machine.execVextract t d a b s
  | .vperm t d a b => Sys2Proof.Machine.execVperm t d a b s
  | .vslide t d a b => Sys2Proof.Machine.execVslide t d a b s
  | .viota t d => Sys2Proof.Machine.execViota t d s
  | .vredsum t d a => Sys2Proof.Machine.execVredsum t d a s
  | .vredmax t d a => Sys2Proof.Machine.execVredmax t d a s
  | .vredmin t d a => Sys2Proof.Machine.execVredmin t d a s
  | .vsample d a b => Sys2Proof.Machine.execVsample d a b s
  | .vcmpeq t d a b => Sys2Proof.Machine.execVcmpeq t d a b s
  | .vcmpne t d a b => Sys2Proof.Machine.execVcmpne t d a b s
  | .vcmplt t d a b => Sys2Proof.Machine.execVcmplt t d a b s
  | .vcmple t d a b => Sys2Proof.Machine.execVcmple t d a b s
  | .vsel t d a b => Sys2Proof.Machine.execVsel t d a b s
  | .kand d a b => Sys2Proof.Machine.execKand d a b s
  | .kor d a b => Sys2Proof.Machine.execKor d a b s
  | .kxor d a b => Sys2Proof.Machine.execKxor d a b s
  | .kandn d a b => Sys2Proof.Machine.execKandn d a b s
  | .kpop d a => Sys2Proof.Machine.execKpop d a s
  | .vmov16 d b => Sys2Proof.Machine.execVmov16 d b s
  | .vbcast16 d b => Sys2Proof.Machine.execVbcast16 d b s
  | .vaddI3216 sc d b => Sys2Proof.Machine.execVaddI3216 sc d b s
  | .vsubI3216 sc d b => Sys2Proof.Machine.execVsubI3216 sc d b s
  | .vand16 sc d b => Sys2Proof.Machine.execVand16 sc d b s
  | .vor16 sc d b => Sys2Proof.Machine.execVor16 sc d b s
  | .vxor16 sc d b => Sys2Proof.Machine.execVxor16 sc d b s
  | .vshlI3216 sc d b => Sys2Proof.Machine.execVshlI3216 sc d b s
  | .vshrN3216 sc d b => Sys2Proof.Machine.execVshrN3216 sc d b s
  | .vshrI3216 sc d b => Sys2Proof.Machine.execVshrI3216 sc d b s
  | .vminI3216 sc d b => Sys2Proof.Machine.execVminI3216 sc d b s
  | .vmaxI3216 sc d b => Sys2Proof.Machine.execVmaxI3216 sc d b s
  | .vaddF3216 sc d b => Sys2Proof.Machine.execVaddF3216 sc d b s
  | .vsubF3216 sc d b => Sys2Proof.Machine.execVsubF3216 sc d b s
  | .vmulF3216 sc d b => Sys2Proof.Machine.execVmulF3216 sc d b s
  | .vminF3216 sc d b => Sys2Proof.Machine.execVminF3216 sc d b s
  | .vmaxF3216 sc d b => Sys2Proof.Machine.execVmaxF3216 sc d b s
  | .pfx sc m o r z k => Sys2Proof.Machine.execPfx sc m o r z k s
  | .pfac a b => Sys2Proof.Machine.execPfac a b s
  | .pfacv d a b => Sys2Proof.Machine.execPfacv d a b s
  | .pdiv a b => Sys2Proof.Machine.execPdiv a b s
  | .pconv a => Sys2Proof.Machine.execPconv a s
  | .pld a => Sys2Proof.Machine.execPld a s
  | .pst a => Sys2Proof.Machine.execPst a s
  | .pget d a => Sys2Proof.Machine.execPget d a s
  | .pstat d => Sys2Proof.Machine.execPstat d s
  | .rcommit d a => Sys2Proof.Machine.execRcommit d a s
  | .rstat d => Sys2Proof.Machine.execRstat d s
  | .oclaim a b => Sys2Proof.Machine.execOclaim a b s
  | .orelease a => Sys2Proof.Machine.execOrelease a s
  | .ofill g a b c => Sys2Proof.Machine.execOfill g a b c s
  | .mma g a b c => Sys2Proof.Machine.execMma g a b c s
  | .mmask g a => Sys2Proof.Machine.execMmask g a s
  | .adrain g a c => Sys2Proof.Machine.execAdrain g a c s
  | .azero g a => Sys2Proof.Machine.execAzero g a s
  | .cpy g a b c => Sys2Proof.Machine.execCpy g a b c s
  | .cpyt g a b c => Sys2Proof.Machine.execCpyt g a b c s
  | .halo g a b c => Sys2Proof.Machine.execHalo g a b c s
  | .garm g => Sys2Proof.Machine.execGarm g s
  | .gset g a => Sys2Proof.Machine.execGset g a s
  | .send a b c => Sys2Proof.Machine.execSend a b c s
  | .sendr a b c => Sys2Proof.Machine.execSendr a b c s
  | .bind a b => Sys2Proof.Machine.execBind a b s
  | .unbind b => Sys2Proof.Machine.execUnbind b s
  | .chput c n => Sys2Proof.Machine.execChput c n s
  | .wclose a b => Sys2Proof.Machine.execWclose a b s
  | .spawn a b c => Sys2Proof.Machine.execSpawn a b c s
  | .spawnj a b c => Sys2Proof.Machine.execSpawnj a b c s
  | .yield a => Sys2Proof.Machine.execYield a s
  | .tset a b c => Sys2Proof.Machine.execTset a b c s
  | .tmark a b => Sys2Proof.Machine.execTmark a b s
  | .twait a b => Sys2Proof.Machine.execTwait a b s
  | .tstat a b => Sys2Proof.Machine.execTstat a b s
  | .tclr a => Sys2Proof.Machine.execTclr a s
  | .cwait a b c => Sys2Proof.Machine.execCwait a b c s
  | .ctrig a b c => Sys2Proof.Machine.execCtrig a b c s
  | .evset a b => Sys2Proof.Machine.execEvset a b s
  | .evclr a b => Sys2Proof.Machine.execEvclr a b s
  | .evwait a b => Sys2Proof.Machine.execEvwait a b s
  | .rinit a b c => Sys2Proof.Machine.execRinit a b c s
  | .rnext d b => Sys2Proof.Machine.execRnext d b s
  | .tjoin a b => Sys2Proof.Machine.execTjoin a b s
  | .tleave a => Sys2Proof.Machine.execTleave a s
  | .tbar a => Sys2Proof.Machine.execTbar a s
  | .launch d b => Sys2Proof.Machine.execLaunch d b s
  | .digest d b c => Sys2Proof.Machine.execDigest d b c s
  | .tkn g a b c => Sys2Proof.Machine.execTkn g a b c s
  | .dtkn g a b c => Sys2Proof.Machine.execDtkn g a b c s
  | .combineMaxi a b c => Sys2Proof.Machine.execCombineMaxi a b c s
  | .combineAddfx a b c => Sys2Proof.Machine.execCombineAddfx a b c s
  | .srr d n => Sys2Proof.Machine.execSrr d n s
  | .srw d n => Sys2Proof.Machine.execSrw d n s
  | .trap n => Sys2Proof.Machine.execTrap n s
  | .ntdrain => Sys2Proof.Machine.execNtdrain s
  | .pclr => Sys2Proof.Machine.execPclr s
  | .rbegin => Sys2Proof.Machine.execRbegin s
  | .rabort => Sys2Proof.Machine.execRabort s
  | .done => Sys2Proof.Machine.execDone s
  | .eret => Sys2Proof.Machine.execEret s
  | .bkpt => Sys2Proof.Machine.execBkpt s
  | .halt => Sys2Proof.Machine.execHalt s
  | .waiti => Sys2Proof.Machine.execWaiti s
  | .putPerform => Sys2Proof.Machine.execPutPerform s
  | .regionInstructionLimit => Sys2Proof.Machine.execRegionInstructionLimit s
  | .ofillStart => Sys2Proof.Machine.execOfillStart s
  | .ofillCompletion => Sys2Proof.Machine.execOfillCompletion s
  | .mmaStart => Sys2Proof.Machine.execMmaStart s
  | .mmaKstepBoundary => Sys2Proof.Machine.execMmaKstepBoundary s
  | .mmaCompletion => Sys2Proof.Machine.execMmaCompletion s
  | .mmaskStart => Sys2Proof.Machine.execMmaskStart s
  | .adrainStart => Sys2Proof.Machine.execAdrainStart s
  | .adrainCompletion => Sys2Proof.Machine.execAdrainCompletion s
  | .azeroStart => Sys2Proof.Machine.execAzeroStart s
  | .copyRequestSend => Sys2Proof.Machine.execCopyRequestSend s
  | .copyStart => Sys2Proof.Machine.execCopyStart s
  | .cpytStart => Sys2Proof.Machine.execCpytStart s
  | .copyCompletion => Sys2Proof.Machine.execCopyCompletion s
  | .haloStart => Sys2Proof.Machine.execHaloStart s
  | .haloStripDelivery => Sys2Proof.Machine.execHaloStripDelivery s
  | .messageArrival => Sys2Proof.Machine.execMessageArrival s
  | .sendStatusWrite => Sys2Proof.Machine.execSendStatusWrite s
  | .outboundResend => Sys2Proof.Machine.execOutboundResend s
  | .pipAccept => Sys2Proof.Machine.execPipAccept s
  | .wcloseMarkerArrival => Sys2Proof.Machine.execWcloseMarkerArrival s
  | .channelEntryArrival => Sys2Proof.Machine.execChannelEntryArrival s
  | .spaceUpdateArrival => Sys2Proof.Machine.execSpaceUpdateArrival s
  | .combineRouterMerge => Sys2Proof.Machine.execCombineRouterMerge s
  | .combineRootArrival => Sys2Proof.Machine.execCombineRootArrival s
  | .tknStart => Sys2Proof.Machine.execTknStart s
  | .tknEntryWrite => Sys2Proof.Machine.execTknEntryWrite s
  | .dtknStart => Sys2Proof.Machine.execDtknStart s
  | .yieldDeadlineOverrun => Sys2Proof.Machine.execYieldDeadlineOverrun s
  | .dispatch => Sys2Proof.Machine.execDispatch s
  | .resumption => Sys2Proof.Machine.execResumption s
  | .deadlockProbeSend => Sys2Proof.Machine.execDeadlockProbeSend s
  | .deadlockProbeReceive => Sys2Proof.Machine.execDeadlockProbeReceive s
  | .launchStart => Sys2Proof.Machine.execLaunchStart s
  | .launchCompletion => Sys2Proof.Machine.execLaunchCompletion s
  | .launchEndByFault => Sys2Proof.Machine.execLaunchEndByFault s
  | .pageFaultEntryPost => Sys2Proof.Machine.execPageFaultEntryPost s
  | .pageFaultResume => Sys2Proof.Machine.execPageFaultResume s
  | .pageFaultRefuse => Sys2Proof.Machine.execPageFaultRefuse s
  | .launchQueueTailWrite => Sys2Proof.Machine.execLaunchQueueTailWrite s
  | .launchQueueStop => Sys2Proof.Machine.execLaunchQueueStop s
  | .launchQueueStopped => Sys2Proof.Machine.execLaunchQueueStopped s
  | .launchQueueRestart => Sys2Proof.Machine.execLaunchQueueRestart s
  | .launchQueueOverrunClear => Sys2Proof.Machine.execLaunchQueueOverrunClear s
  | .launchQueueHeadWrite => Sys2Proof.Machine.execLaunchQueueHeadWrite s
  | .eventVectorSetWindowWrite => Sys2Proof.Machine.execEventVectorSetWindowWrite s
  | .eventVectorClearWindowWrite => Sys2Proof.Machine.execEventVectorClearWindowWrite s
  | .runControlWrite => Sys2Proof.Machine.execRunControlWrite s
  | .translationInvalidation => Sys2Proof.Machine.execTranslationInvalidation s
  | .invalidationDone => Sys2Proof.Machine.execInvalidationDone s
  | .l2Purge => Sys2Proof.Machine.execL2Purge s
  | .l2PurgeDone => Sys2Proof.Machine.execL2PurgeDone s
  | .addressRangeEntryWrite => Sys2Proof.Machine.execAddressRangeEntryWrite s
  | .registerWrite => Sys2Proof.Machine.execRegisterWrite s
  | .translationWalk => Sys2Proof.Machine.execTranslationWalk s
  | .mscMissFill => Sys2Proof.Machine.execMscMissFill s
  | .scrub => Sys2Proof.Machine.execScrub s
  | .pageRetirement => Sys2Proof.Machine.execPageRetirement s
  | .replicaDecision => Sys2Proof.Machine.execReplicaDecision s
  | .replicaTimeout => Sys2Proof.Machine.execReplicaTimeout s
  | .hostWrite => Sys2Proof.Machine.execHostWrite s
  | .hostRead => Sys2Proof.Machine.execHostRead s
  | .hostMailboxDoorbell => Sys2Proof.Machine.execHostMailboxDoorbell s
  | .deviceMailboxDoorbell => Sys2Proof.Machine.execDeviceMailboxDoorbell s
  | .ranvikFlitReceive => Sys2Proof.Machine.execRanvikFlitReceive s
  | .laneFailure => Sys2Proof.Machine.execLaneFailure s
  | .linkTraining => Sys2Proof.Machine.execLinkTraining s
  | .ranvikPortTraining => Sys2Proof.Machine.execRanvikPortTraining s
  | .ethernetWrite => Sys2Proof.Machine.execEthernetWrite s
  | .textFrameReceive => Sys2Proof.Machine.execTextFrameReceive s
  | .textNoticeResend => Sys2Proof.Machine.execTextNoticeResend s
  | .transmitEntrySend => Sys2Proof.Machine.execTransmitEntrySend s
  | .powerOn => Sys2Proof.Machine.execPowerOn s
  | .powerOff => Sys2Proof.Machine.execPowerOff s
  | .idleEntry => Sys2Proof.Machine.execIdleEntry s
  | .wake => Sys2Proof.Machine.execWake s
  | .overTemperature => Sys2Proof.Machine.execOverTemperature s
  | .criticalTemperature => Sys2Proof.Machine.execCriticalTemperature s
  | .textCommandAccept => Sys2Proof.Machine.execTextCommandAccept s
  | .arithmeticClockCycle => Sys2Proof.Machine.execArithmeticClockCycle s
  | .ethernetPortTraining => Sys2Proof.Machine.execEthernetPortTraining s
  | .telemetryAlarm => Sys2Proof.Machine.execTelemetryAlarm s

end Sys2Proof.Machine
end

