-- ==== Sys2Proof/Machine/Outside.lean ====
section
/-! DEFINITION. What comes about beside the steps of the opcode table (R10, R12, R17, R72, R99, R155, R156, R158, R163, R251, R345, R347, R351, R353, R354,
R357, R361): wear, the driver, the host and the links. -/

namespace Sys2Proof.Machine

open Sys2Proof

/-- The context of a launch that a physical core serves. -/
def State.contextOn (s : State) (pcore : Nat) : Option Nat :=
  (s.lcores.find? fun e => e.2.pcore = pcore).map fun e => (s.launch (launchOfLc e.1)).ctx

/-- An SRAM that shows errors by granule: a scratchpad, accumulators or counters by their windows, or, for an HBM address, its L2 line or its
sector of a memory-side cache. -/
def State.inSram (s : State) (pa : Nat) : Bool :=
  (isWindowPA pa && (windowKind pa == 0 || windowKind pa == 1 || windowKind pa == 5)) || 
    (isHbm pa && ((s.l2Line (pa / 64)).isSome || ((s.mscLine (pa / 2048)).elim false fun l => l.valid &&& granuleHalves pa != 0)))

/-- A SECDED error that cannot be corrected marks its granule, and a kind 5 entry tells of it (R156, R163, R345). -/
def State.sramError (s : State) (pa : Nat) : State :=
  (s.setPoison pa).faultEntry 5 (if isHbm pa then none else s.contextOn (windowCore pa)) false pa

/-- The same in granule `g` of an operand slot, which has no physical address (log 19, DESIGN CHOICE). -/
def State.slotError (s : State) (oct slot g : Nat) : State :=
  (s.setSlot oct slot fun x => { x with poison := if x.poison.contains g then x.poison else g :: x.poison }).faultEntry 5
    (((Tbl.get .unclaimed (s.octave oct).slots slot).owner).map fun lk => (s.launch (launchOfLc lk)).ctx) false slotPA

/-- The driver has created a context anew: its next launch receives LAUNCHID 1 (R99), its event vector is 0 (R302), and its range units have
nothing left (R304). No register write says so in the manual; every other register stands as the driver wrote it (log 21, DESIGN CHOICE). -/
def State.contextMade (s : State) (c : Nat) : State :=
  s.modContext c fun x => { x with nextId := 1, events := 0, units := Tbl.mapVals (fun _ u => { u with remain := 0 }) x.units }

/-- A happening, if it can come about. -/
def State.happen (s : State) (h : Happening) : Outcome :=
  let on := s.pkg.power == .active
  let up := on || s.pkg.power == .gated
  match h with
  | .memoryError pa => s.enabled (on && s.inSram pa) fun s => s.sramError pa
  | .slotError o n g => s.enabled (on && decide (o < 384) && decide (n < 64) && decide (g < 136)) fun s => s.slotError o n g
  | .cacheDrop o i => s.enabled (on && decide (i < (s.octave o).icache.length)) fun s =>
      s.modOctave o fun x => { x with icache := x.icache.eraseIdx i }
  | .contextMade c => s.enabled (up && decide (c < 64) && !s.launches.any fun e => e.2.ctx == c) fun s => s.contextMade c
  | .softLimit n => s.enabled (up && decide (0 < n)) fun s => { s with pkg := { s.pkg with softLimit := n } }
  | .flashed x => s.enabled up fun s => { s with pkg := { s.pkg with flash := x } }
  | .calibrated e p => s.calibrate e p
  | .barSized n => s.enabled (up && decide (28 ≤ n) && decide (n ≤ 39)) fun s => s.setWindow s.pkg.window n
  | .ethernetRead pa n => s.ethernetRead pa n
  | .flitSent i => s.flitSent i
  | .flitRouted i p => s.flitRouted i p
  | .combineHop i r => s.combineHop i r
  | .walkStart d c va => s.walkStart d c va
  | .coreCycle p => s.enabled (on && decide (p < 4096)) fun s => s.coreCycle p
  | .mgmtRead pa n => s.enabled (s.mgmtReaches pa) fun s => s.mgmtRead pa n s.subject.data
  | .mgmtWrite pa => s.enabled (s.mgmtReaches pa) fun s => s.mgmtWrite pa s.subject.data

end Sys2Proof.Machine
end

