-- ==== Sys2Proof/Machine/Default.lean ====
section
/-! DEFINITION. Which move comes next and what it does (log 1, DESIGN CHOICE): the power states (R362), the moves that are due at once (R27,
R33), those that take place with nothing on the agenda (R45), and a program placed from outside (log 10). -/

namespace Sys2Proof.Machine

open Sys2Proof

/-! ## The power states (R9, R17, R20, R361, R362) -/

/-- The steps that take place while the arithmetic clock is gated: what the management core, the management network and the host port do; a
write that arrives is held, and a flit or a frame that arrives wakes the package. -/
def gatedStep (i : Instr) : Bool :=
  match i with
  | .hostWrite => true
  | .hostRead => true
  | .registerWrite => true
  | .pageFaultResume => true
  | .pageFaultRefuse => true
  | .launchQueueTailWrite => true
  | .launchQueueStop => true
  | .launchQueueRestart => true
  | .launchQueueOverrunClear => true
  | .launchQueueHeadWrite => true
  | .eventVectorSetWindowWrite => true
  | .eventVectorClearWindowWrite => true
  | .runControlWrite => true
  | .addressRangeEntryWrite => true
  | .l2Purge => true
  | .translationInvalidation => true
  | .ethernetWrite => true
  | .ranvikFlitReceive => true
  | .textFrameReceive => true
  | .hostMailboxDoorbell => true
  | .deviceMailboxDoorbell => true
  | .wake => true
  | .pageRetirement => true
  | .replicaDecision => true
  | .replicaTimeout => true
  | .telemetryAlarm => true
  | .overTemperature => true
  | .criticalTemperature => true
  | .linkTraining => true
  | .powerOff => true
  | _ => false

/-- The steps of a package whose management core stays in its ROM. -/
def romStep (i : Instr) : Bool :=
  match i with
  | .hostWrite => true
  | .hostRead => true
  | .hostMailboxDoorbell => true
  | .deviceMailboxDoorbell => true
  | .linkTraining => true
  | .criticalTemperature => true
  | .powerOff => true
  | _ => false

/-- May an event take place in the power state of the package? -/
def State.permits (s : State) (i : Instr) : Bool :=
  match s.pkg.power with
  | .active => i != .powerOn && i != .wake
  | .gated => gatedStep i
  | .rom => romStep i
  | .off => i == .powerOn

/-! ## One move -/

/-- The issuing firing fetches and issues one instruction, if it can issue; its core has issued in this cycle (R23, R71, R79, R89). -/
def State.issueNext (s : State) : Outcome :=
  if s.canIssue s.f then
    match s.fetch with
    | (.ok i, t) => exec i t.takeTurn
    | (.error e, t) => .next (t.takeTurn.takeFlt e)
  else .next s

/-- A move takes place; one that cannot, or that the power state forbids, changes nothing (log 1). -/
def State.perform (s : State) (m : Move) : Outcome :=
  match m with
  | .event i about => if i.isEncoded || !s.permits i then .next s else exec i { s with subject := about }
  | .happen h about => ({ s with subject := about } : State).happen h
  | .issue k => (s.turnTo k).issueNext

/-! ## Moves that are due at once (R27, R33) -/

/-- An event about one unit. -/
def eventOn (i : Instr) (unit item : Nat) : Move := .event i { Subject.none with unit := unit, item := item }

/-- A free slot takes a runnable firing or an eligible pip at once: the first physical core with such a slot. -/
def State.urgentMove (s : State) : Option Move :=
  if s.pkg.power = .active then
    s.lcores.findSome? fun e =>
      if s.resumeDue e.2.pcore then some (eventOn .resumption e.2.pcore 0)
      else if s.dispatchDue e.2.pcore then some (eventOn .dispatch e.2.pcore 0) else none
  else none

/-- Does a move fill a slot? -/
def Move.fillsSlot (m : Move) : Bool :=
  match m with
  | .event i _ => i == .dispatch || i == .resumption
  | _ => false

/-! ## Moves with nothing on the agenda (R45) -/

/-- The combine packets that are not yet at the router of their root go on, each by the first of its minimal ways. -/
def State.combineHops (s : State) : List Move :=
  s.net.combs.zipIdx.filterMap fun e => (s.hopsOf e.1).head?.map fun r => .happen (.combineHop e.2 r) Subject.none

/-- What the launch unit, the octaves, the streamers, the text engines, the routers and the device's registers may have to do, in an order of
the model's own. -/
def State.pending (s : State) : List Move :=
  let upTo (i : Instr) (n : Nat) : List Move := (List.range n).map fun k => eventOn i k 0
  let octs := (s.octaves.map fun e => e.1) ++ (s.lcores.map fun e => octaveOf e.2.pcore)
  [.event .launchStart { Subject.none with data := Config.freeAccumulators s.nextLaunch }] ++
  upTo .putPerform s.net.puts.length ++ upTo .sendStatusWrite s.net.status.length ++ upTo .channelEntryArrival s.net.entries.length ++
  upTo .spaceUpdateArrival s.net.spaces.length ++ upTo .wcloseMarkerArrival s.net.markers.length ++
  upTo .combineRootArrival s.net.combs.length ++ s.combineHops ++
  ((List.range s.net.flits.length).map fun i => .happen (.flitSent i) Subject.none) ++ (s.pkg.ports.map fun e => eventOn .transmitEntrySend e.1 0) ++
  (s.lcores.flatMap fun e => e.2.outbound.flatMap fun o => [eventOn .messageArrival e.1 o.num, eventOn .pipAccept e.1 o.num]) ++
  (s.lcores.flatMap fun e => e.2.copyq.flatMap fun k => [eventOn .copyRequestSend e.1 k.order, eventOn .textCommandAccept e.1 k.order]) ++
  (octs.flatMap fun o =>
    [.mmaCompletion, .mmaKstepBoundary, .mmaStart, .ofillCompletion, .adrainCompletion, .ofillStart, .adrainStart, .azeroStart, .mmaskStart].map
      fun i => eventOn i o 0) ++
  (s.streamers.flatMap fun e =>
    (e.2.running.zipIdx.flatMap fun r =>
      eventOn .copyCompletion e.1 r.2 :: r.1.2.strips.map fun x =>
        .event .haloStripDelivery { Subject.none with unit := e.1, item := r.2, value := BitVec.ofNat 64 x.side }) ++
    [eventOn .copyStart e.1 0, eventOn .cpytStart e.1 0, eventOn .haloStart e.1 0]) ++
  (s.tokenisers.flatMap fun e => [eventOn .tknEntryWrite e.1 0, eventOn .tknStart e.1 0]) ++
  (s.detokenisers.map fun e => eventOn .dtknStart e.1 0) ++
  (s.allFirings.flatMap fun g => [eventOn .pageFaultEntryPost g.key 0, eventOn .deadlockProbeSend g.key 0]) ++
  (s.launches.flatMap fun e => [eventOn .launchCompletion e.1 0, eventOn .launchEndByFault e.1 0]) ++
  (s.contexts.flatMap fun e => e.2.queues.map fun q => eventOn .launchQueueStopped e.1 q.1) ++
  [eventOn .l2PurgeDone 0 0, eventOn .invalidationDone 0 0, eventOn .invalidationDone 1 0] ++
  (if s.polled then []
   else upTo .deadlockProbeReceive s.net.probes.length ++ s.lcores.flatMap fun e => e.2.outbound.map fun o => eventOn .outboundResend e.1 o.num)

/-- Does a move take place, and change anything? -/
def State.takes (s : State) (m : Move) : Bool :=
  match s.perform m with
  | .next t => ({ t with subject := s.subject } : State) != s
  | _ => false

/-- The move with nothing on the agenda: an instruction of a firing that can issue in this cycle, else the first pending step, else a cycle of
the clock. -/
def State.defaultMove (s : State) : Move :=
  match s.pickNext with
  | some k => .issue k
  | none => (s.pending.find? s.takes).getD (eventOn .arithmeticClockCycle 0 0)

/-- The next move and the agenda after it: a slot that can be filled is filled first, unless the agenda fills one itself. -/
def State.nextMove (s : State) : Move × List Move :=
  match s.agenda with
  | [] => ((s.urgentMove).getD s.defaultMove, [])
  | m :: rest =>
    if m.fillsSlot then (m, rest)
    else
      match s.urgentMove with
      | some d => (d, m :: rest)
      | none => (m, rest)

/-! ## A program placed from outside -/

/-- The context, launch and firing of a one-instruction program: one logical core on physical core 0, whose code lies at 0x20000 in a
1 GiB page that maps to itself, and which no other logical core shares the package with (log 10, DESIGN CHOICE). -/
def State.bootLaunch (s : State) : State :=
  let cells : List Host.Cell := [(0x10000, 0x01), (0x10001, 0x10), (0x10002, 0x01), (0x11000, 0x0F)]
  let put (m : List Host.Cell) := cells.foldl (fun m c => Mem.set m c.1 c.2) m
  let l : Launch := { Launch.none with
    launchId := 1, codeVA := 0x20000, codeLen := 4096, regions := true, matrix := true, bound := 1048576, place := [(0, 0, 0)],
    live := 1 }
  let g : Firing := { Firing.idle 0 with
    st := .running, yleft := 1048576, pc := 0x20000, pinned := true, source := .entry, slot := some 0,
    pip := { Pip.zero with w0 := 0x2000000000020000 } }
  let c : LCore := { LCore.fresh with starts := 1 }
  let s := s.modPCore 0 fun p => { p with halted := false, ran := false, lastSlot := 0, slot0 := { resident := some 0, busy := true }, last := 1, served := 1 }
  let s := s.modContext 0 fun x => { x with root := 0x10001, nextId := 2 }
  { s with
    f := g,
    firings := Tbl.erase (if s.f.key = 0 then s.firings else Tbl.set s.firings s.f.key s.f) 0,
    lcores := [(0, c)], tasks := [], launches := Tbl.set s.launches 0 l, nextLaunch := s.nextLaunch + 1,
    pkg := { s.pkg with power := .active },
    mem := { s.mem with home := put s.mem.home, side := put s.mem.side, array := put s.mem.array } }

/-- Where the eight bytes at the program counter are fetched, in HBM or host memory: their pieces, if they can be. -/
def State.fetchSpots (s : State) : Option (List Spot) :=
  let va := s.f.pc.toNat
  let l := s.job
  if !s.canIssue s.f || !l.patches.isEmpty || va < l.codeVA.toNat || l.codeVA.toNat + l.codeLen < va + 8 then none
  else
    match s.locatePieces s.asker .fetch (pieces va 8) with
    | .error _ => none
    | .ok (ps, _) => if ps.any fun p => !p.host && (s.poisoned p.pa || !isHbm p.pa) then none else some ps

/-- Puts bytes where the pieces lie. -/
def placeBytes (m : Memories) : List (Spot × List Byte) → Memories
  | [] => m
  | (p, b) :: r =>
    placeBytes (if p.host then { m with host := Mem.write m.host p.pa b } else { m with home := Mem.write m.home p.pa b }) r

/-- The state with an instruction placed where the next one is fetched; the octave's instruction cache holds no line of it. -/
def State.placeWord (s : State) (nbits w : Nat) : State :=
  let bytes := tableBytes (w % 2 ^ nbits)
  let s : State := { s with agenda := [] }
  let s := if s.fetchSpots.isSome && s.urgentMove.isNone then s else s.bootLaunch
  match s.fetchSpots with
  | some ps =>
    let s := s.modOctave s.myOctave fun o => { o with icache := [] }
    { s with mem := placeBytes s.mem (dealBytes ps bytes) }
  | none => s

end Sys2Proof.Machine
end

