-- ==== Sys2Proof/Machine/Step.lean ====
section
/-! DEFINITION. One step of the package (log 1, DESIGN CHOICE): the next move takes place. -/

namespace Sys2Proof.Machine

open Sys2Proof

/-- One step: the move that the agenda names, one that is due at once, or, with nothing on the agenda, one of the model's order. -/
def step (s : State) : Host.Outcome State Fault Refusal :=
  ({ s with agenda := s.nextMove.2 } : State).perform s.nextMove.1

/-- The state with an instruction of `nbits` bits `w` stored where `step` fetches its next one: at the program counter of the issuing
firing, or of the firing of a one-core launch when none can issue (log 10, DESIGN CHOICE). -/
def State.withFetchWord (s : State) (nbits w : Nat) : State := s.placeWord nbits w

end Sys2Proof.Machine
end

