-- ==== Sys2Proof/Certificates/Slice0/Obligations.lean ====
section
/-! DEFINITION. What is claimed of the machine: one statement each, with the rules that it rests on. The vocabulary of the statements
stands in the namespace Claims. -/

namespace Sys2Proof.Claims

open Sys2Proof Sys2Proof.Machine

/-- Nothing of R79 step 6 and R207 stands in the way of the next instruction: the firing runs, has time left, and an open region has
room for one more. -/
structure Ready (s : State) : Prop where
  running : s.f.st = .running
  time    : s.f.yleft ≠ 0
  room    : s.f.region.isOpen = true → s.f.region.retired < 4096

/-- The state in which an instruction of four bytes has retired and left `t`. -/
def retired (s t : State) : State := t.retireTo (s.f.pc + 4)

/-- 1 for true, 0 for false. -/
def oneIf (p : Prop) [Decidable p] : Word := if p then 1 else 0

/-! ## Scalar integers -/

/-- Destination and result of the register and immediate instructions (R102, R103). -/
def aluResult (s : State) : Instr → Option (BitVec 6 × Word)
  | .add d a b => some (d, BitVec.ofNat 64 ((s.sreg a).toNat + (s.sreg b).toNat))
  | .sub d a b => some (d, BitVec.ofInt 64 ((s.sreg a).toInt - (s.sreg b).toInt))
  | .and d a b => some (d, s.sreg a &&& s.sreg b)
  | .or d a b => some (d, s.sreg a ||| s.sreg b)
  | .xor d a b => some (d, s.sreg a ^^^ s.sreg b)
  | .sll d a b => some (d, BitVec.ofNat 64 ((s.sreg a).toNat * 2 ^ ((s.sreg b).toNat % 64)))
  | .srl d a b => some (d, BitVec.ofNat 64 ((s.sreg a).toNat / 2 ^ ((s.sreg b).toNat % 64)))
  | .sra d a b => some (d, BitVec.ofInt 64 ((s.sreg a).toInt / (2 ^ ((s.sreg b).toNat % 64) : Nat)))
  | .slt d a b => some (d, oneIf ((s.sreg a).toInt < (s.sreg b).toInt))
  | .sltu d a b => some (d, oneIf ((s.sreg a).toNat < (s.sreg b).toNat))
  | .min d a b => some (d, BitVec.ofInt 64 (Min.min (s.sreg a).toInt (s.sreg b).toInt))
  | .max d a b => some (d, BitVec.ofInt 64 (Max.max (s.sreg a).toInt (s.sreg b).toInt))
  | .minu d a b => some (d, BitVec.ofNat 64 (Min.min (s.sreg a).toNat (s.sreg b).toNat))
  | .maxu d a b => some (d, BitVec.ofNat 64 (Max.max (s.sreg a).toNat (s.sreg b).toNat))
  | .csel d a b => some (d, if s.sreg b = 0 then s.sreg d else s.sreg a)
  | .addi d a i => some (d, BitVec.ofInt 64 ((s.sreg a).toInt + i.toInt))
  | .lui d i => some (d, BitVec.ofInt 64 (i.toInt * 8192))
  | .auipc d i => some (d, BitVec.ofInt 64 (s.f.pc.toInt + i.toInt * 8192))
  | _ => none

/-- Destination and result of multiply and divide (R104). -/
def mulDivResult (s : State) : Instr → Option (BitVec 6 × Word)
  | .mul d a b => some (d, BitVec.ofInt 64 ((s.sreg a).toInt * (s.sreg b).toInt))
  | .mulh d a b => some (d, BitVec.ofInt 64 ((s.sreg a).toInt * (s.sreg b).toInt / (2 ^ 64 : Nat)))
  | .mulhu d a b => some (d, BitVec.ofNat 64 ((s.sreg a).toNat * (s.sreg b).toNat / 2 ^ 64))
  | .div d a b => some (d,
      if s.sreg b = 0 then BitVec.allOnes 64
      else if s.sreg a = BitVec.intMin 64 ∧ s.sreg b = BitVec.allOnes 64 then BitVec.intMin 64
      else BitVec.ofInt 64 ((s.sreg a).toInt.tdiv (s.sreg b).toInt))
  | .divu d a b => some (d, if s.sreg b = 0 then BitVec.allOnes 64 else BitVec.ofNat 64 ((s.sreg a).toNat / (s.sreg b).toNat))
  | .rem d a b => some (d,
      if s.sreg b = 0 then s.sreg a
      else if s.sreg a = BitVec.intMin 64 ∧ s.sreg b = BitVec.allOnes 64 then 0
      else BitVec.ofInt 64 ((s.sreg a).toInt.tmod (s.sreg b).toInt))
  | .remu d a b => some (d, if s.sreg b = 0 then s.sreg a else BitVec.ofNat 64 ((s.sreg a).toNat % (s.sreg b).toNat))
  | _ => none

/-- `n` is the number of places of a register, from its top, that hold no 1 before the first that does. -/
def leadingZeroCount (x : Word) (n : Nat) : Prop :=
  n ≤ 64 ∧ x.toNat < 2 ^ (64 - n) ∧ (n < 64 → 2 ^ (63 - n) ≤ x.toNat)

/-- `n` is the number of zero places below the lowest 1. -/
def trailingZeroCount (x : Word) (n : Nat) : Prop :=
  n ≤ 64 ∧ x.toNat % 2 ^ n = 0 ∧ (n < 64 → x.getLsbD n = true)

/-- Position and width of the field that bext and bins name (R105). -/
def fieldOf (b : Word) : Nat × Nat := (b.toNat % 64, Min.min (b.toNat / 256 % 128) (64 - b.toNat % 64))

/-- The carry-less product of two registers, as a polynomial over the field of two elements (R105). -/
def clProduct (a b : Word) : BitVec 128 :=
  (List.range 64).foldl (fun acc i => if b.getLsbD i then acc ^^^ (a.zeroExtend 128 <<< i) else acc) 0

/-- Bit `i` of the result of a bit operation that moves or masks bits (R105). -/
def bitResult (s : State) : Instr → Option (BitVec 6 × (Nat → Bool))
  | .rev8 d a => some (d, fun i => (s.sreg a).getLsbD (8 * (7 - i / 8) + i % 8))
  | .brev d a => some (d, fun i => (s.sreg a).getLsbD (63 - i))
  | .rotl d a b => some (d, fun i => (s.sreg a).getLsbD ((i + 64 - (s.sreg b).toNat % 64) % 64))
  | .rotr d a b => some (d, fun i => (s.sreg a).getLsbD ((i + (s.sreg b).toNat % 64) % 64))
  | .bext d a b => let (p, n) := fieldOf (s.sreg b); some (d, fun i => decide (i < n) && (s.sreg a).getLsbD (p + i))
  | .bins d a b =>
    let (p, n) := fieldOf (s.sreg b)
    some (d, fun i => if p ≤ i ∧ i < p + n then (s.sreg a).getLsbD (i - p) else (s.sreg d).getLsbD i)
  | .clmul d a b => some (d, fun i => (clProduct (s.sreg a) (s.sreg b)).getLsbD i)
  | .clmulh d a b => some (d, fun i => (clProduct (s.sreg a) (s.sreg b)).getLsbD (64 + i))
  | _ => none

/-- A word of 32 bits with this major (R71, R73). -/
def OfMajor (w : BitVec 32) (major : Nat) : Prop := w.getLsbD 0 = true ∧ (w.extractLsb' 1 6).toNat = major

/-- Fields d, a, b and fn7 of formats A and I (R75). -/
def fieldD (w : BitVec 32) : BitVec 6 := w.extractLsb' 7 6
def fieldA (w : BitVec 32) : BitVec 6 := w.extractLsb' 13 6
def fieldB (w : BitVec 32) : BitVec 6 := w.extractLsb' 19 6
def fieldFn7 (w : BitVec 32) : Nat := (w.extractLsb' 25 7).toNat

/-- The instruction of a code of a major, or the fault of a code that has none. -/
def coded (l : List Instr) (n : Nat) : Except Reject Instr :=
  match l[n]? with
  | some i => .ok i
  | none => .error .illegalEncoding

/-- The instructions of major 0x00 by code (R102), of major 0x04 (R104), and of codes 5 to 10 of major 0x05 (R105). -/
def aluCodes (d a b : BitVec 6) : List Instr :=
  [.add d a b, .sub d a b, .and d a b, .or d a b, .xor d a b, .sll d a b, .srl d a b, .sra d a b, .slt d a b, .sltu d a b, .min d a b,
   .max d a b, .minu d a b, .maxu d a b, .csel d a b]
def mulDivCodes (d a b : BitVec 6) : List Instr :=
  [.mul d a b, .mulh d a b, .mulhu d a b, .div d a b, .divu d a b, .rem d a b, .remu d a b]
def oneSourceCodes (d a : BitVec 6) : List Instr := [.clz d a, .ctz d a, .popc d a, .rev8 d a, .brev d a]
def twoSourceCodes (d a b : BitVec 6) : List Instr :=
  [.rotl d a b, .rotr d a b, .bext d a b, .bins d a b, .clmul d a b, .clmulh d a b]

/-- The branches of major 0x08 by condition (R106). -/
def branchCodes (a b : BitVec 6) (off : BitVec 10) : List Instr :=
  [.beq a b off, .bne a b off, .blt a b off, .bge a b off, .bltu a b off, .bgeu a b off, .btst a b off, .btstz a b off]

end Sys2Proof.Claims

section

open Sys2Proof Sys2Proof.Machine Sys2Proof.Claims

/-- R90, R114: s0 reads zero and k0 all ones at all times, a write to either is discarded, and a write to another register
is read back and changes no other register. R29, R89: a retirement sets the pc, takes one from YLEFT, counts the instruction in an open
region, and changes nothing else. -/
def Obligations.RegisterFilesAndRetirement : Prop :=
  (∀ (s : State) (d e : BitVec 6) (v : Word),
    s.sreg 0 = 0 ∧ (s.setSreg 0 v) = s ∧ (s.setSreg d v).sreg e = if e = d ∧ e ≠ 0 then v else s.sreg e) ∧
  (∀ (s : State) (d e : BitVec 5) (v : VWord), (s.setVreg d v).vreg e = if e = d then v else s.vreg e) ∧
  (∀ (s : State) (d e : BitVec 4) (v : PWord),
    s.kreg 0 = BitVec.allOnes 512 ∧ (s.setKreg 0 v) = s ∧ (s.setKreg d v).kreg e = if e = d ∧ e ≠ 0 then v else s.kreg e) ∧
  (∀ (s : State) (pc : Word),
    s.retireTo pc = { s with f := (s.retireTo pc).f } ∧
    (s.retireTo pc).f.pc = pc ∧ (s.retireTo pc).f.yleft = s.f.yleft - 1 ∧
    (s.retireTo pc).f.region.retired = s.f.region.retired + (if s.f.region.isOpen then 1 else 0) ∧
    (s.retireTo pc).f =
      { s.f with pc := pc, yleft := s.f.yleft - 1, wait := .none,
                 region := { s.f.region with retired := (s.retireTo pc).f.region.retired } })

/-- R102, R103, R104: each register, immediate, multiply and divide instruction retires with its result in sd, zero divisors and the quotient
that overflows included, and changes nothing else; and each word of their majors is the instruction of its code, or of none. -/
def Obligations.ScalarIntegerResults : Prop :=
  (∀ (s : State) (i : Instr) (d : BitVec 6) (v : Word), Ready s →
    (aluResult s i = some (d, v) ∨ mulDivResult s i = some (d, v)) → exec i s = .next (retired s (s.setSreg d v))) ∧
  (∀ w : BitVec 32,
    (OfMajor w 0x00 → decode32 w = coded (aluCodes (fieldD w) (fieldA w) (fieldB w)) (fieldFn7 w)) ∧
    (OfMajor w 0x01 → decode32 w = .ok (.addi (fieldD w) (fieldA w) (w.extractLsb' 19 13))) ∧
    (OfMajor w 0x02 → decode32 w = .ok (.lui (fieldD w) (w.extractLsb' 13 19))) ∧
    (OfMajor w 0x03 → decode32 w = .ok (.auipc (fieldD w) (w.extractLsb' 13 19))) ∧
    (OfMajor w 0x04 → decode32 w = coded (mulDivCodes (fieldD w) (fieldA w) (fieldB w)) (fieldFn7 w)))

/-- R105: the counts of bits; and the operations that move, cut out or insert bits, and the carry-less products, bit by bit; and each word of
the major is the instruction of its code, or of none: codes 0 to 4 want a zero b, and code 11, draw (R150), a zero a. -/
def Obligations.BitOperationResults : Prop :=
  (∀ (s : State) (d a : BitVec 6), Ready s →
    (∃ n, leadingZeroCount (s.sreg a) n ∧ exec (.clz d a) s = .next (retired s (s.setSreg d (BitVec.ofNat 64 n)))) ∧
    (∃ n, trailingZeroCount (s.sreg a) n ∧ exec (.ctz d a) s = .next (retired s (s.setSreg d (BitVec.ofNat 64 n)))) ∧
    exec (.popc d a) s =
      .next (retired s (s.setSreg d (BitVec.ofNat 64 ((List.range 64).countP fun i => (s.sreg a).getLsbD i)))) ∧
    (∀ (i : Instr) (f : Nat → Bool), bitResult s i = some (d, f) →
      ∃ v : Word, (∀ k, k < 64 → v.getLsbD k = f k) ∧ exec i s = .next (retired s (s.setSreg d v)))) ∧
  (∀ w : BitVec 32, OfMajor w 0x05 →
    (fieldFn7 w ≤ 4 → decode32 w =
      if fieldB w = 0 then coded (oneSourceCodes (fieldD w) (fieldA w)) (fieldFn7 w) else .error .reservedField) ∧
    (5 ≤ fieldFn7 w → fieldFn7 w ≤ 10 → decode32 w = coded (twoSourceCodes (fieldD w) (fieldA w) (fieldB w)) (fieldFn7 w - 5)) ∧
    (fieldFn7 w = 11 → decode32 w = if fieldA w = 0 then .ok (.draw (fieldD w) (fieldB w)) else .error .reservedField) ∧
    (12 ≤ fieldFn7 w → decode32 w = .error .illegalEncoding))

end

namespace Sys2Proof.Claims

open Sys2Proof Sys2Proof.Machine

/-! ## Branches and jumps -/

/-- Whether a branch is taken, with its offset in halfwords (R106, R107). -/
def branchOf (s : State) : Instr → Option (Prop × Int)
  | .beq a b o => some (s.sreg a = s.sreg b, o.toInt)
  | .bne a b o => some (s.sreg a ≠ s.sreg b, o.toInt)
  | .blt a b o => some ((s.sreg a).toInt < (s.sreg b).toInt, o.toInt)
  | .bge a b o => some ((s.sreg b).toInt ≤ (s.sreg a).toInt, o.toInt)
  | .bltu a b o => some ((s.sreg a).toNat < (s.sreg b).toNat, o.toInt)
  | .bgeu a b o => some ((s.sreg b).toNat ≤ (s.sreg a).toNat, o.toInt)
  | .btst a b o => some (s.sreg a &&& s.sreg b ≠ 0, o.toInt)
  | .btstz a b o => some (s.sreg a &&& s.sreg b = 0, o.toInt)
  | .bz d i => some (s.sreg d = 0, i.toInt)
  | _ => none

/-- The address `n` halfwords from the pc. -/
def halfwordsOn (s : State) (n : Int) : Word := BitVec.ofInt 64 (s.f.pc.toInt + 2 * n)

/-! ## Scalar floating point -/

/-- The f32 pattern and the f32 value of a scalar register (R92). -/
def p32 (s : State) (n : BitVec 6) : Nat := (s.sreg n).toNat % 2 ^ 32
def f32 (s : State) (n : BitVec 6) : FVal := Fmt.f32.value (p32 s n)

/-- Destination, and the result of a scalar instruction that rounds, in a mode with a draw (R108, R109, R111). -/
def roundedResult (s : State) (md : Mode) (k : Nat) : Instr → Option (BitVec 6 × Res)
  | .fadd d a b => some (d, roundPair md k (addVal md (f32 s a) (f32 s b)))
  | .fsub d a b => some (d, roundPair md k (addVal md (f32 s a) (f32 s b).neg))
  | .fmul d a b => some (d, roundPair md k (mulVal (f32 s a) (f32 s b)))
  | .fdiv d a b => some (d, roundPair md k (divVal (f32 s a) (f32 s b)))
  | .fsqrt d a => some (d, roundPair md k (sqrtVal (f32 s a)))
  | .fmadd d a b => some (d, roundPair md k (fmaVal md (f32 s a) (f32 s b) (f32 s d)))
  | .fmsub d a b => some (d, roundPair md k (fmaVal md (f32 s a) (f32 s b) (f32 s d).neg))
  | .fnmadd d a b => some (d, roundPair md k (fmaVal md (f32 s a).neg (f32 s b) (f32 s d).neg))
  | .fnmsub d a b => some (d, roundPair md k (fmaVal md (f32 s a).neg (f32 s b) (f32 s d)))
  | .fcvtF32I64 d a => some (d, Fmt.f32.round md k (FVal.ofRat (s.sreg a).toInt 1))
  | .fcvtF32Fx64 d a => some (d, Fmt.f32.round md k (FVal.ofRat (s.sreg a).toInt (2 ^ 32)))
  | .fcvtI64F32 d a => some (d, toIntVal md k 64 true (f32 s a))
  | .fcvtFx64F32 d a => some (d, toIntVal md k 64 true ((f32 s a).scale 32))
  | .frcps d a b => some (d, frcps md k (p32 s a) (p32 s b))
  | .frsqrts d a b => some (d, frsqrts md k (p32 s a) (p32 s b))
  | _ => none

/-- Destination, result and flags of the scalar float instructions that do not round in the mode (R69, R70, R109, R110). -/
def plainResult (s : State) : Instr → Option (BitVec 6 × Res)
  | .fmin d a b => some (d, Fmt.f32.minMax false (p32 s a) (p32 s b))
  | .fmax d a b => some (d, Fmt.f32.minMax true (p32 s a) (p32 s b))
  | .feq d a b => some (d, { pat := if (f32 s a).same (f32 s b) then 1 else 0,
                             flags := if (f32 s a).isSig || (f32 s b).isSig then flInvalid else 0 })
  | .flt d a b => some (d, { pat := if (f32 s a).lt (f32 s b) then 1 else 0,
                             flags := if (f32 s a).isNan || (f32 s b).isNan then flInvalid else 0 })
  | .fle d a b => some (d, { pat := if (f32 s a).le false (f32 s b) then 1 else 0,
                             flags := if (f32 s a).isNan || (f32 s b).isNan then flInvalid else 0 })
  | .fclass d a => some (d, { pat := Fmt.f32.classMask (p32 s a), flags := 0 })
  | .frcp d a => some (d, frcp (p32 s a))
  | .frsqrt d a => some (d, frsqrt (p32 s a))
  | .fexp2 d a => some (d, fexp2 (p32 s a))
  | .flog2 d a => some (d, flog2 (p32 s a))
  | _ => none

/-- The rational number of a finite value. -/
def ratOf : FVal → Option ℚ
  | .zero _ => some 0
  | .fin n d => if d = 0 then none else some ((n : ℚ) / (d : ℚ))
  | _ => none

/-- A zero, or a fraction that is none. -/
def IsNumber : FVal → Prop
  | .zero _ => True
  | .fin n d => n ≠ 0 ∧ d ≠ 0
  | _ => False

/-- One value lies above another, NaNs apart; −0 and +0 are equal. -/
def Above : FVal → FVal → Prop
  | .inf a, .inf b => a = false ∧ b = true
  | .inf a, _ => a = false
  | _, .inf b => b = true
  | x, y => ∃ a b, ratOf x = some a ∧ ratOf y = some b ∧ b < a

/-- A number, an infinity or a NaN. -/
def IsValue (x : FVal) : Prop := x.isFinite = true → IsNumber x

/-- What the four compares give, 0 eq, 1 ne, 2 lt, 3 le, and when they raise invalid (R109, R135): the values decide, −0 equals +0, and beside a NaN
only ne holds. -/
def CompareGives (x y : FVal) : Prop :=
  let unordered := x.isNan = true ∨ y.isNan = true
  ((compareVal 0 x y).1 = true ↔ ¬ unordered ∧ ¬ Above x y ∧ ¬ Above y x) ∧
  ((compareVal 1 x y).1 = true ↔ unordered ∨ Above x y ∨ Above y x) ∧
  ((compareVal 2 x y).1 = true ↔ ¬ unordered ∧ Above y x) ∧
  ((compareVal 3 x y).1 = true ↔ ¬ unordered ∧ ¬ Above x y) ∧
  x.same y = (compareVal 0 x y).1 ∧ x.lt y = (compareVal 2 x y).1 ∧ x.le false y = (compareVal 3 x y).1 ∧
  ∀ op, op < 4 → (compareVal op x y).2 =
    if (op < 2 ∧ (x.isSig = true ∨ y.isSig = true)) ∨ (2 ≤ op ∧ unordered) then flInvalid else 0

/-- What a conversion to an integer of `w` bits between two bounds gives (R51, R58): the value rounded in the mode, a bound where that lies beyond it,
0 for a NaN. That one which saturates is invalid and not inexact too is the model's choice (log 22, DESIGN CHOICE). -/
def intoRange (w : Nat) (lo hi : Int) (md : Mode) (k : Nat) (v : FVal) (r : Res) : Prop :=
  let pat := fun x : Int => (BitVec.ofInt w x).toNat
  match v with
  | .nan _ => r = { pat := 0, flags := flInvalid }
  | .inf s => r = { pat := pat (if s then lo else hi), flags := flInvalid }
  | .zero _ => r = { pat := 0, flags := 0 }
  | .fin a b =>
    let m : Int := if a < 0 then -(roundNat md k true a.natAbs b : Int) else roundNat md k false a.natAbs b
    r = if hi < m then { pat := pat hi, flags := flInvalid }
      else if m < lo then { pat := pat lo, flags := flInvalid }
      else { pat := pat m, flags := if a.natAbs % b = 0 then 0 else flInexact }

/-- Of the multiples of `s` beside `x`, the magnitude of a value that is negative if `neg` says so, the one that a mode takes, and `x` if it is one (R55,
R57). -/
def Takes (md : Mode) (k : Nat) (neg : Bool) (s x y : ℚ) : Prop :=
  ∃ n : Nat,
    let lo : ℚ := n * s
    lo ≤ x ∧ x < lo + s ∧
    if x = lo then y = x
    else match md with
      | .rne => y = if x - lo < s / 2 ∨ (x - lo = s / 2 ∧ n % 2 = 0) then lo else lo + s
      | .rna => y = if x - lo < s / 2 then lo else lo + s
      | .rtz => y = lo
      | .rup => y = if neg then lo else lo + s
      | .rdn => y = if neg then lo + s else lo
      | .sto => y = if neg then (if (k : ℚ) < (lo + s - x) / s * 2 ^ 32 then lo else lo + s)
                    else if (k : ℚ) < (x - lo) / s * 2 ^ 32 then lo + s else lo

/-- The value of a pattern of a format by its fields: sign, exponent `e`, fraction `m` (R52). -/
def FieldsRead (f : Fmt) (p : Nat) : Prop :=
  let e := p / 2 ^ f.mw % 2 ^ f.ew
  let m := p % 2 ^ f.mw
  let neg := p.testBit (f.ew + f.mw)
  let sign : ℚ := if neg then -1 else 1
  if e = 2 ^ f.ew - 1 then f.value p = if m = 0 then .inf neg else .nan (decide (m < 2 ^ (f.mw - 1)))
  else if e = 0 ∧ m = 0 then f.value p = .zero neg
  else ratOf (f.value p) = some (if e = 0 then sign * m * (2 : ℚ) ^ (f.emin - f.mw)
    else sign * (m + 2 ^ f.mw) * (2 : ℚ) ^ ((e : Int) - f.emax - f.mw))

/-- A number `q` that is not zero rounded to a format (R53 to R57). `w` is its magnitude rounded to the precision of the format with an unbounded exponent,
by which overflow and tininess are judged; `y` is that rounded to the format itself, whose step below the least normal is that of the subnormals. -/
def RoundsInto (f : Fmt) (md : Mode) (k : Nat) (q : ℚ) (r : Res) : Prop :=
  let neg := decide (q < 0)
  let sign : ℚ := if neg then -1 else 1
  let top : ℚ := (2 ^ (f.mw + 1) - 1) * (2 : ℚ) ^ (f.emax - f.mw)
  ∃ (e : Int) (w y : ℚ), (2 : ℚ) ^ e ≤ |q| ∧ |q| < (2 : ℚ) ^ (e + 1) ∧
    Takes md k neg ((2 : ℚ) ^ (e - f.mw)) |q| w ∧ Takes md k neg ((2 : ℚ) ^ (Max.max e f.emin - f.mw)) |q| y ∧ r.pat < 2 ^ f.width ∧
    if top < w then
      r.flags = flOverflow ||| flInexact ∧
      if md = .rtz ∨ (md = .rup ∧ neg = true) ∨ (md = .rdn ∧ neg = false) then ratOf (f.value r.pat) = some (sign * top)
      else f.value r.pat = .inf neg
    else
      (if y = 0 then f.value r.pat = .zero neg else ratOf (f.value r.pat) = some (sign * y)) ∧
      r.flags = if y = |q| then 0 else if w < (2 : ℚ) ^ f.emin then flUnderflow ||| flInexact else flInexact

/-- The default NaN, with the flag of a signalling operand or of an invalid operation (R53). -/
def nanGives (invalid : Bool) : FVal × BitVec 5 := (.nan false, if invalid then flInvalid else 0)
def nanResult (invalid : Bool) : Res := { pat := Fmt.f32.nanPat, flags := if invalid then flInvalid else 0 }

/-- A sum, a product and a quotient of NaNs, infinities and zeros, and the sign of an exact zero sum (R53, R109). -/
def SpecialOperands (md : Mode) (x y z : FVal) : Prop :=
  (x.isNan = true ∨ y.isNan = true → addVal md x y = nanGives (x.isSig || y.isSig) ∧ mulVal x y = nanGives (x.isSig || y.isSig) ∧
    divVal x y = nanGives (x.isSig || y.isSig)) ∧
  (∀ a b, addVal md (.inf a) (.inf b) = (if a = b then (.inf a, 0) else nanGives true) ∧
    mulVal (.inf a) (.inf b) = (.inf (a != b), 0) ∧ divVal (.inf a) (.inf b) = nanGives true ∧ divVal (.zero a) (.zero b) = nanGives true ∧
    fmaVal md (.inf a) (.zero b) z = nanGives true ∧ fmaVal md (.zero a) (.inf b) z = nanGives true) ∧
  (IsNumber x → ∀ a, addVal md (.inf a) x = (.inf a, 0) ∧ addVal md x (.inf a) = (.inf a, 0) ∧
    divVal (.inf a) x = (.inf (a != x.isNeg), 0) ∧ divVal x (.inf a) = (.zero (x.isNeg != a), 0) ∧
    (x.isZero = false → mulVal (.inf a) x = (.inf (a != x.isNeg), 0) ∧ mulVal x (.inf a) = (.inf (x.isNeg != a), 0) ∧
      divVal x (.zero a) = (.inf (x.isNeg != a), flDivide))) ∧
  (∀ a b, IsNumber x → IsNumber y → ratOf x = some a → ratOf y = some b → a + b = 0 →
    addVal md x y = (.zero (if x.isZero = true ∧ x.isNeg = y.isNeg then x.isNeg else decide (md = .rdn)), 0))

/-- The square root before its rounding (R109): exact, or no fraction of 200 binary places but between the same two of them, in units of 2^−201
an odd number. -/
def RootGives (x : FVal) : Prop :=
  (∀ s, sqrtVal (.nan s) = nanGives s) ∧ (∀ s, sqrtVal (.zero s) = (.zero s, 0)) ∧ sqrtVal (.inf false) = (.inf false, 0) ∧
  (x.isNan = false → x.isZero = false → x.isNeg = true → sqrtVal x = nanGives true) ∧
  ∀ q, ratOf x = some q → 0 < q → q < 2 ^ 200 →
    ∃ k : Nat, ratOf (sqrtVal x).1 = some ((k : ℚ) / 2 ^ 201) ∧ (sqrtVal x).2 = 0 ∧
      (k % 2 = 0 → ((k : ℚ) / 2 ^ 201) ^ 2 = q) ∧ (k % 2 = 1 → (((k : ℚ) - 1) / 2 ^ 201) ^ 2 < q ∧ q < (((k : ℚ) + 1) / 2 ^ 201) ^ 2)

/-- The lesser or the greater of two patterns of a format, −0 below +0 (R109). -/
def MinMaxGives (f : Fmt) (isMax : Bool) (p q : Nat) (r : Res) : Prop :=
  let x := f.value p
  let y := f.value q
  let below := fun u v : FVal => u.lt v = true ∨ (u = .zero true ∧ v = .zero false)
  if x.isNan = true ∨ y.isNan = true then r = { pat := f.nanPat, flags := if x.isSig || y.isSig then flInvalid else 0 }
  else r.flags = 0 ∧ (below x y → r.pat = if isMax then q else p) ∧ (below y x → r.pat = if isMax then p else q) ∧ (p = q → r.pat = p)

/-- The bit of the class mask of an f32 value (R110). -/
def classBit (x : FVal) : Nat :=
  match x with
  | .inf s => if s then 0 else 7
  | .zero s => if s then 3 else 4
  | .nan s => if s then 8 else 9
  | .fin _ _ =>
    let normal := (ratOf x).any fun q => decide ((2 : ℚ) ^ (-126 : Int) ≤ |q|)
    if x.isNeg then (if normal then 1 else 2) else if normal then 6 else 5

/-- `y` is `q` rounded to f32 with RNE. -/
def Rne32 (q y : ℚ) : Prop := ∃ v, ratOf v = some q ∧ ratOf (Fmt.f32.value (Fmt.f32.round .rne 0 v).pat) = some y

/-- The rational number of an f32 pattern. -/
def c32 (p : Nat) : ℚ := (ratOf (Fmt.f32.value p)).getD 0

/-- `t` is 2^(j/16) rounded to f32 (R66): the multiple of 2^−23 nearest to it. -/
def IsExp2Entry (j : Nat) (t : ℚ) : Prop :=
  (∃ k : Nat, t = (k : ℚ) / 2 ^ 23) ∧ (t - 1 / 2 ^ 24) ^ 16 < 2 ^ j ∧ (2 : ℚ) ^ j < (t + 1 / 2 ^ 24) ^ 16 ∧ 1 ≤ t

/-- The steps of R66 for a number `q` in the range of the table. -/
def Exp2Steps (q : ℚ) (r : Res) : Prop :=
  ∃ (m : Int) (t a3 a2 a1 a y : ℚ) (v : FVal),
    let x := q - (m : ℚ) / 16
    |16 * q - (m : ℚ)| ≤ 1 / 2 ∧ (|16 * q - (m : ℚ)| = 1 / 2 → m % 2 = 0) ∧ IsExp2Entry (m % 16).toNat t ∧
    Rne32 (c32 0x3C1D955B * x + c32 0x3D635847) a3 ∧ Rne32 (a3 * x + c32 0x3E75FDF0) a2 ∧ Rne32 (a2 * x + c32 0x3F317218) a1 ∧
    Rne32 (a1 * x) a ∧ Rne32 (t * a + t) y ∧ ratOf v = some (y * (2 : ℚ) ^ (m / 16)) ∧ r.pat = (Fmt.f32.round .rne 0 v).pat ∧
    ((∃ z : Int, q = z ∧ -149 ≤ z) → r.flags = 0 ∧ ratOf (Fmt.f32.value r.pat) = some ((2 : ℚ) ^ (m / 16))) ∧
    ((¬ ∃ z : Int, q = z ∧ -149 ≤ z) → r.flags = flInexact ||| (if r.pat = Fmt.f32.infPat then flOverflow else 0) |||
      (if r.pat < 2 ^ 23 then flUnderflow else 0))

/-- FEXP2 (R66). -/
def Exp2Gives (x : FVal) (r : Res) : Prop :=
  match x with
  | .nan s => r = nanResult s
  | .inf s => r = { pat := if s then 0 else Fmt.f32.infPat, flags := 0 }
  | _ => ∀ q, ratOf x = some q →
    (128 ≤ q → r = { pat := Fmt.f32.infPat, flags := flOverflow ||| flInexact }) ∧
    (q < -151 → r = { pat := 0, flags := flUnderflow ||| flInexact }) ∧ (-151 ≤ q → q < 128 → Exp2Steps q r)

/-- The steps of R67 for a positive number. That LG[j] is log2 of 0.75 + j/32 is said to 16 binary places. -/
def Log2Steps (q : ℚ) (r : Res) : Prop :=
  ∃ (e : Int) (f : ℚ) (j : Nat) (rc t a3 a2 a1 h : ℚ) (v : FVal),
    let lg := c32 (log2Table.getD j 0)
    q = 2 ^ e * f ∧ 3 / 4 ≤ f ∧ f < 3 / 2 ∧ (j : ℚ) - 1 / 2 ≤ 32 * (f - 3 / 4) ∧ 32 * (f - 3 / 4) < (j : ℚ) + 1 / 2 ∧ j ≤ 24 ∧
    (∃ n : Int, |(n : ℚ) - 2 ^ 16 * lg| ≤ 1 / 2 ∧ (2 : ℚ) ^ (n - 1) < ((24 + j : ℚ) / 32) ^ (2 ^ 16 : Nat) ∧
      ((24 + j : ℚ) / 32) ^ (2 ^ 16 : Nat) < (2 : ℚ) ^ (n + 1)) ∧
    Rne32 (32 / (24 + (j : ℚ))) rc ∧ Rne32 (f * rc - 1) t ∧ Rne32 (c32 0xBEB8AA3B * t + c32 0x3EF6384F) a3 ∧
    Rne32 (a3 * t + c32 0xBF38AA3B) a2 ∧ Rne32 (a2 * t + c32 0x3FB8AA3B) a1 ∧ Rne32 ((e : ℚ) + lg) h ∧
    ratOf v = some (a1 * t + h) ∧ (a1 * t + h = 0 → v = .zero false) ∧
    r = { pat := (Fmt.f32.round .rne 0 v).pat, flags := if f = 1 then 0 else flInexact } ∧
    (f = 1 → ratOf (Fmt.f32.value r.pat) = some (e : ℚ))

/-- FLOG2 (R67). -/
def Log2Gives (x : FVal) (r : Res) : Prop :=
  match x with
  | .nan s => r = nanResult s
  | .zero _ => r = { pat := 2 ^ 31 + Fmt.f32.infPat, flags := flDivide }
  | .inf s => r = if s then nanResult true else { pat := Fmt.f32.infPat, flags := 0 }
  | _ => ∀ q, ratOf x = some q → (q < 0 → r = nanResult true) ∧ (0 < q → Log2Steps q r)

/-- A number below the least normal one. -/
def Tiny (q : ℚ) : Prop := |q| < (2 : ℚ) ^ (-126 : Int)

/-- `m` is the multiple of 2^−8 nearest to `x`, the even one of two. -/
def Nearest8 (x m : ℚ) : Prop := ∃ k : Nat, m = (k : ℚ) / 2 ^ 8 ∧ |m - x| ≤ 1 / 2 ^ 9 ∧ (|m - x| = 1 / 2 ^ 9 → k % 2 = 0)

/-- FRCP (R68). -/
def RcpGives (x : FVal) (r : Res) : Prop :=
  match x with
  | .nan s => r = nanResult s
  | .inf s => r = { pat := Fmt.f32.signPat s, flags := 0 }
  | _ => ∀ q, ratOf x = some q →
    (Tiny q → r = { pat := Fmt.f32.signPat x.isNeg + Fmt.f32.infPat, flags := flDivide }) ∧
    (¬ Tiny q → ∃ (e : Int) (i : Nat) (g m : ℚ), |q| = 2 ^ e * (1 + (i : ℚ) / 256 + g) ∧ i ≤ 255 ∧ 0 ≤ g ∧ g < 1 / 256 ∧
      Nearest8 (512 / (256 + (i : ℚ) + 1 / 2)) m ∧ r.flags = 0 ∧
      ratOf (Fmt.f32.value r.pat) = some ((if q < 0 then -1 else 1) * m * 2 ^ (-e - 1)))

/-- FRSQRT (R69): `k` in units of 2^−8 is the multiple nearest to 2/√g of the interval's middle. -/
def RsqrtGives (x : FVal) (r : Res) : Prop :=
  match x with
  | .nan s => r = nanResult s
  | .inf s => r = if s then nanResult true else { pat := 0, flags := 0 }
  | _ => ∀ q, ratOf x = some q →
    (Tiny q → r = { pat := Fmt.f32.signPat x.isNeg + Fmt.f32.infPat, flags := flDivide }) ∧
    (¬ Tiny q → q < 0 → r = nanResult true) ∧
    (¬ Tiny q → 0 < q → ∃ (e : Int) (f : ℚ) (i k : Nat), q = 2 ^ e * f ∧ 1 ≤ f ∧ f < 2 ∧
      (i : ℚ) ≤ 128 * (f - 1) ∧ 128 * (f - 1) < (i : ℚ) + 1 ∧
      (let g := (if e % 2 = 0 then 1 else 2) * (1 + ((i : ℚ) + 1 / 2) / 128)
       let e' := if e % 2 = 0 then e else e - 1
       (((k : ℚ) - 1 / 2) / 2 ^ 8) ^ 2 * g < 4 ∧ 4 < (((k : ℚ) + 1 / 2) / 2 ^ 8) ^ 2 * g ∧ r.flags = 0 ∧
       ratOf (Fmt.f32.value r.pat) = some ((k : ℚ) / 2 ^ 8 * 2 ^ (-(e' / 2) - 1))))

/-- FRCPS and FRSQRTS (R70): (c − a · b) / h rounded once; `fixed` beside a zero or an infinity. -/
def RefineGives (c h : ℚ) (fixed : Nat) (md : Mode) (k : Nat) (x y : FVal) (r : Res) : Prop :=
  if x.isNan = true ∨ y.isNan = true then r = nanResult (x.isSig || y.isSig)
  else if x.isZero = true ∨ y.isZero = true ∨ x.isInf = true ∨ y.isInf = true then r = { pat := fixed, flags := 0 }
  else ∃ a b v, ratOf x = some a ∧ ratOf y = some b ∧ ratOf v = some ((c - a * b) / h) ∧
    (c - a * b = 0 → v = .zero (decide (md = .rdn))) ∧ r = Fmt.f32.round md k v

/-! ## Vectors -/

/-- Element `k` of width `w` (R112). -/
def el (w k : Nat) (v : VWord) : Nat := v.toNat / 2 ^ (w * k) % 2 ^ w

/-- A pattern as an integer, by the signedness of its type. -/
def intEl (t x : Nat) : Int := if isSigned t then (BitVec.ofNat (typeWidth t) x).toInt else x

/-- The pattern of an integer at the width of a type. -/
def patOf (t : Nat) (x : Int) : Nat := (BitVec.ofInt (typeWidth t) x).toNat

/-- The least and the greatest integer of a type. -/
def least (t : Nat) : Int := if isSigned t then -(2 ^ (typeWidth t - 1) : Nat) else 0
def greatest (t : Nat) : Int := if isSigned t then (2 ^ (typeWidth t - 1) : Nat) - 1 else (2 ^ typeWidth t : Nat) - 1

/-- An element of a 6-bit type fills its container with copies of bit 5 (R49); any other is as it stands. -/
def canon (t x : Nat) : Nat := if t = 10 then (BitVec.signExtend 8 (BitVec.ofNat 6 x)).toNat else x

/-- The low bits of the scalar register that a 5-bit field names (R81). -/
def scalarEl (s : State) (w : Nat) (n : BitVec 5) : Nat := (s.sreg (n.zeroExtend 6)).toNat % 2 ^ w

/-- Element `k` of the second operand: of a vector register, or of a scalar used as every element (R119). -/
def operand (s : State) (t : Nat) (c : BitVec 1) (b : BitVec 5) (k : Nat) : Nat :=
  if c = 1 then scalarEl s (typeWidth t) b else el (typeWidth t) k (s.vreg b)

/-- Element `k` of a group of `q` registers (R118). -/
def groupEl (s : State) (q w : Nat) (a : BitVec 5) (k : Nat) : Nat := el w (k / q) (s.vreg (a + BitVec.ofNat 5 (k % q)))

/-- What an element-wise instruction writes: its length in bytes, a group of `q` registers from `d` on, and element `k` of width `w`. -/
structure VecResult where
  len : Nat
  q   : Nat
  w   : Nat
  d   : BitVec 5
  f   : Nat → Nat

/-- An operation on integers of one type, element by element. -/
def onInts (s : State) (len t : Nat) (c : BitVec 1) (d a b : BitVec 5) (g : Int → Int → Int) : Option VecResult :=
  some { len := len, q := 1, w := typeWidth t, d := d,
         f := (fun k => patOf t (g (intEl t (el (typeWidth t) k (s.vreg a))) (intEl t (operand s t c b k)))) }

/-- An operation on patterns of one width, element by element. -/
def onPats (s : State) (len t : Nat) (c : BitVec 1) (d a b : BitVec 5) (g : Nat → Nat → Nat) : Option VecResult :=
  some { len := len, q := 1, w := typeWidth t, d := d, f := (fun k => g (el (typeWidth t) k (s.vreg a)) (operand s t c b k)) }

def clampTo (t : Nat) (x : Int) : Int := Max.max (least t) (Min.min (greatest t) x)
/-- The shift amount in an element: its low log2(w) bits (R123). -/
def amount (t : Nat) (y : Int) : Nat := (y % (typeWidth t : Int)).toNat

/-- The carry-less product of two patterns (R124). -/
def clPat (w x y : Nat) : Nat := (List.range w).foldl (fun acc i => if y.testBit i then acc ^^^ (x <<< i) else acc) 0

/-- Results of the vector integer instructions, of the moves, and of their 16-bit forms (R74, R119, R123, R124, R129 to R131, R136). -/
def vecResult (s : State) : Instr → Option VecResult
  | .vaddInt t c d a b => onInts s 4 t.toNat c d a b fun x y => x + y
  | .vsubInt t c d a b => onInts s 4 t.toNat c d a b fun x y => x - y
  | .vmulInt t c d a b => onInts s 4 t.toNat c d a b fun x y => x * y
  | .vmulh t c d a b => onInts s 4 t.toNat c d a b fun x y => x * y / (2 ^ typeWidth t.toNat : Nat)
  | .vadds t c d a b => onInts s 4 t.toNat c d a b fun x y => clampTo t.toNat (x + y)
  | .vsubs t c d a b => onInts s 4 t.toNat c d a b fun x y => clampTo t.toNat (x - y)
  | .vminInt t c d a b => onInts s 4 t.toNat c d a b fun x y => Min.min x y
  | .vmaxInt t c d a b => onInts s 4 t.toNat c d a b fun x y => Max.max x y
  | .vand t c d a b => onPats s 4 t.toNat c d a b fun x y => x &&& y
  | .vor t c d a b => onPats s 4 t.toNat c d a b fun x y => x ||| y
  | .vxor t c d a b => onPats s 4 t.toNat c d a b fun x y => x ^^^ y
  | .vshl t c d a b => onInts s 4 t.toNat c d a b fun x y => x * (2 ^ amount t.toNat y : Nat)
  | .vshr t c d a b => onInts s 4 t.toNat c d a b fun x y => x / (2 ^ amount t.toNat y : Nat)
  | .vmadd t c d a b => some { len := 4, q := 1, w := typeWidth t.toNat, d := d, f := (fun k =>
      patOf t.toNat (intEl t.toNat (el (typeWidth t.toNat) k (s.vreg a)) * intEl t.toNat (operand s t.toNat c b k) +
        intEl t.toNat (el (typeWidth t.toNat) k (s.vreg d)))) }
  | .vwmul t c d a b => some { len := 4, q := 2, w := 2 * typeWidth t.toNat, d := d, f := (fun k =>
      (BitVec.ofInt (2 * typeWidth t.toNat)
        (intEl t.toNat (el (typeWidth t.toNat) k (s.vreg a)) * intEl t.toNat (operand s t.toNat c b k))).toNat) }
  | .vclmul t c d a b => some { len := 4, q := 2, w := 2 * typeWidth t.toNat, d := d, f := (fun k =>
      clPat (typeWidth t.toNat) (el (typeWidth t.toNat) k (s.vreg a)) (operand s t.toNat c b k)) }
  | .vmov t d a => some { len := 4, q := 1, w := typeWidth t.toNat, d := d, f := (fun k =>
      canon t.toNat (el (typeWidth t.toNat) k (s.vreg a))) }
  | .vbcast t d a => some { len := 4, q := 1, w := typeWidth t.toNat, d := d, f := (fun _ =>
      canon t.toNat (scalarEl s (typeWidth t.toNat) a)) }
  | .vperm t d a b => some { len := 4, q := 1, w := typeWidth t.toNat, d := d, f := (fun k =>
      let w := typeWidth t.toNat
      let y := el w k (s.vreg b)
      canon t.toNat (el w (if w = 8 then k / 256 * 256 + y else y % (4096 / w)) (s.vreg a))) }
  | .vslide t d a b => some { len := 4, q := 1, w := typeWidth t.toNat, d := d, f := (fun k =>
      let w := typeWidth t.toNat
      let j : Int := k + (s.sreg (b.zeroExtend 6)).toInt
      if 0 ≤ j ∧ j < (4096 / w : Nat) then canon t.toNat (el w j.toNat (s.vreg a)) else 0) }
  | .viota t d => some { len := 4, q := 1, w := typeWidth t.toNat, d := d, f := (fun k => k % 2 ^ typeWidth t.toNat) }
  | .vsel t d a _ => some { len := 4, q := 1, w := typeWidth t.toNat, d := d, f := (fun k =>
      canon t.toNat (el (typeWidth t.toNat) k (s.vreg a))) }
  | .vmov16 d b => some { len := 2, q := 1, w := 32, d := d, f := (fun k => el 32 k (s.vreg b)) }
  | .vbcast16 d b => some { len := 2, q := 1, w := 32, d := d, f := (fun _ => scalarEl s 32 b) }
  | .vaddI3216 c d b => onInts s 2 4 c d d b fun x y => x + y
  | .vsubI3216 c d b => onInts s 2 4 c d d b fun x y => x - y
  | .vand16 c d b => onPats s 2 4 c d d b fun x y => x &&& y
  | .vor16 c d b => onPats s 2 4 c d d b fun x y => x ||| y
  | .vxor16 c d b => onPats s 2 4 c d d b fun x y => x ^^^ y
  | .vshlI3216 c d b => onInts s 2 4 c d d b fun x y => x * (2 ^ amount 4 y : Nat)
  | .vshrN3216 c d b => onInts s 2 5 c d d b fun x y => x / (2 ^ amount 5 y : Nat)
  | .vshrI3216 c d b => onInts s 2 4 c d d b fun x y => x / (2 ^ amount 4 y : Nat)
  | .vminI3216 c d b => onInts s 2 4 c d d b fun x y => Min.min x y
  | .vmaxI3216 c d b => onInts s 2 4 c d d b fun x y => Max.max x y
  | _ => none

/-- `vs r` in register `d + r` for each of the `q` registers of a group. -/
def writeRegs (t : State) (q : Nat) (d : BitVec 5) (vs : Nat → VWord) : State :=
  (List.range q).foldl (fun u r => u.setVreg (d + BitVec.ofNat 5 r) (vs r)) t

/-- The registers of a group hold `f k` as their element `k`, of width `w`. -/
def groupHolds (q w : Nat) (vs : Nat → VWord) (f : Nat → Nat) : Prop :=
  ∀ r j, r < q → j < 4096 / w → el w j (vs r) = f (q * j + r)

/-- What an element-wise float instruction does: its length, whether it rounds in the mode, and each result, from the mode and the draw
of its rounding. -/
structure FloatResult where
  len    : Nat
  rounds : Bool
  t      : Nat
  d      : BitVec 5
  f      : Mode → Nat → Nat → Res

/-- Two operands of a float type, element by element. -/
def onFloats (s : State) (len : Nat) (rounds : Bool) (t : Nat) (c : BitVec 1) (d a b : BitVec 5)
    (g : Mode → Nat → Nat → Nat → Res) : Option FloatResult :=
  some { len := len, rounds := rounds, t := t, d := d, f := (fun md n k =>
    g md n (el (typeWidth t) k (s.vreg a)) (operand s t c b k)) }

/-- x + y, x − y and x · y of a format, rounded once. -/
def sumOf (t : Nat) (md : Mode) (n x y : Nat) : Res := (fmtOf t).roundWith md n (addVal md ((fmtOf t).value x) ((fmtOf t).value y))
def differenceOf (t : Nat) (md : Mode) (n x y : Nat) : Res :=
  (fmtOf t).roundWith md n (addVal md ((fmtOf t).value x) ((fmtOf t).value y).neg)
def productOf (t : Nat) (md : Mode) (n x y : Nat) : Res := (fmtOf t).roundWith md n (mulVal ((fmtOf t).value x) ((fmtOf t).value y))

/-- Results of the vector float instructions and their 16-bit forms (R74, R125). -/
def floatResult (s : State) : Instr → Option FloatResult
  | .vaddFloat t c d a b => onFloats s 4 true t.toNat c d a b (sumOf t.toNat)
  | .vsubFloat t c d a b => onFloats s 4 true t.toNat c d a b (differenceOf t.toNat)
  | .vmulFloat t c d a b => onFloats s 4 true t.toNat c d a b (productOf t.toNat)
  | .vfma t c d a b => some { len := 4, rounds := true, t := t.toNat, d := d, f := (fun md n k =>
      let w := typeWidth t.toNat
      let g := fmtOf t.toNat
      g.roundWith md n (fmaVal md (g.value (el w k (s.vreg a))) (g.value (operand s t.toNat c b k)) (g.value (el w k (s.vreg d))))) }
  | .vminFloat t c d a b => onFloats s 4 false t.toNat c d a b fun _ _ x y => (fmtOf t.toNat).minMax false x y
  | .vmaxFloat t c d a b => onFloats s 4 false t.toNat c d a b fun _ _ x y => (fmtOf t.toNat).minMax true x y
  | .vexp2 d a => onFloats s 4 false 6 0 d a a fun _ _ x _ => fexp2 x
  | .vlog2 d a => onFloats s 4 false 6 0 d a a fun _ _ x _ => flog2 x
  | .vrcp d a => onFloats s 4 false 6 0 d a a fun _ _ x _ => frcp x
  | .vrsqrt d a => onFloats s 4 false 6 0 d a a fun _ _ x _ => frsqrt x
  | .vrcps c d a b => onFloats s 4 true 6 c d a b fun md n x y => frcps md n x y
  | .vrsqrts c d a b => onFloats s 4 true 6 c d a b fun md n x y => frsqrts md n x y
  | .vaddF3216 c d b => onFloats s 2 true 6 c d d b (sumOf 6)
  | .vsubF3216 c d b => onFloats s 2 true 6 c d d b (differenceOf 6)
  | .vmulF3216 c d b => onFloats s 2 true 6 c d d b (productOf 6)
  | .vminF3216 c d b => onFloats s 2 false 6 c d d b fun _ _ x y => Fmt.f32.minMax false x y
  | .vmaxF3216 c d b => onFloats s 2 false 6 c d d b fun _ _ x y => Fmt.f32.minMax true x y
  | _ => none

/-- The flags of `n` results, ORed. -/
def orFlags (n : Nat) (f : Nat → Res) : BitVec 5 := (List.range n).foldl (fun a k => a ||| (f k).flags) 0

/-- The mode of an instruction without a rounding field of its own (R55). -/
def modeOf (s : State) : Mode := Mode.ofCode s.f.round.toNat

/-- The draw of rounding `n` of an instruction: a counter draw under STO, none in another mode (R57, R120). -/
def drawOf (s : State) (md : Mode) (n : Nat) : Nat := if md = .sto then s.counterDraw n else 0

/-- The comparison of two elements with its flags (R135): 0 eq, 1 ne, 2 lt, 3 le. -/
def compareOf (t op x y : Nat) : Bool × BitVec 5 :=
  if isIntType t then
    (match op with
     | 0 => decide (intEl t x = intEl t y)
     | 1 => decide (intEl t x ≠ intEl t y)
     | 2 => decide (intEl t x < intEl t y)
     | _ => decide (intEl t x ≤ intEl t y), 0)
  else compareVal op (valueOf t x) (valueOf t y)

/-- Type, operation, destination and operands of a compare. -/
def compareParts : Instr → Option (Nat × Nat × BitVec 5 × BitVec 5 × BitVec 5)
  | .vcmpeq t d a b => some (t.toNat, 0, d, a, b)
  | .vcmpne t d a b => some (t.toNat, 1, d, a, b)
  | .vcmplt t d a b => some (t.toNat, 2, d, a, b)
  | .vcmple t d a b => some (t.toNat, 3, d, a, b)
  | _ => none

/-- Bit `j` of a predicate from one result for each element: the element that byte `j` lies in, or both of the byte (R116). -/
def predBit (w : Nat) (r : Nat → Bool) (j : Nat) : Bool := if w = 4 then r (2 * j) && r (2 * j + 1) else r (j / (w / 8))

/-- Destination and value of predicate logic (R137). -/
def predResult (s : State) : Instr → Option (BitVec 5 × PWord)
  | .kand d a b => some (d, s.kreg (a.truncate 4) &&& s.kreg (b.truncate 4))
  | .kor d a b => some (d, s.kreg (a.truncate 4) ||| s.kreg (b.truncate 4))
  | .kxor d a b => some (d, s.kreg (a.truncate 4) ^^^ s.kreg (b.truncate 4))
  | .kandn d a b => some (d, s.kreg (a.truncate 4) &&& ~~~ s.kreg (b.truncate 4))
  | _ => none

end Sys2Proof.Claims

section

open Sys2Proof Sys2Proof.Machine Sys2Proof.Claims

/-- R106, R107: a branch goes to its target when its condition holds and to the next instruction otherwise, and changes no register; j, jal
and jalr go to their targets; jal and jalr leave the address of the next instruction in sd; an odd target of jalr is fault 0x07 at that
address and leaves sd; and each word of their majors is the instruction that its fields say. -/
def Obligations.BranchAndJumpResults : Prop :=
  (∀ (s : State), Ready s →
    (∀ (i : Instr) (p : Prop) (n : Int), branchOf s i = some (p, n) →
      (p → exec i s = .next (s.retireTo (halfwordsOn s n))) ∧ (¬p → exec i s = .next (retired s s))) ∧
    (∀ (d a : BitVec 6) (i : BitVec 19) (o : BitVec 13),
      let t := BitVec.ofInt 64 ((s.sreg a).toInt + o.toInt)
      exec (.j i) s = .next (s.retireTo (halfwordsOn s i.toInt)) ∧
      exec (.jal d i) s = .next ((s.setSreg d (s.f.pc + 4)).retireTo (halfwordsOn s i.toInt)) ∧
      (t.toNat % 2 = 0 → exec (.jalr d a o) s = .next ((s.setSreg d (s.f.pc + 4)).retireTo t)) ∧
      (t.toNat % 2 = 1 → exec (.jalr d a o) s = .next (s.takeFault 0x07 0 t 0)))) ∧
  (∀ w : BitVec 32,
    (OfMajor w 0x08 → decode32 w =
      coded (branchCodes (w.extractLsb' 10 6) (w.extractLsb' 16 6) (w.extractLsb' 22 10)) (w.extractLsb' 7 3).toNat) ∧
    (OfMajor w 0x09 → decode32 w = .ok (.bz (fieldD w) (w.extractLsb' 13 19))) ∧
    (OfMajor w 0x0A → decode32 w = if fieldD w = 0 then .ok (.j (w.extractLsb' 13 19)) else .error .reservedField) ∧
    (OfMajor w 0x0B → decode32 w = .ok (.jal (fieldD w) (w.extractLsb' 13 19))) ∧
    (OfMajor w 0x0C → decode32 w = .ok (.jalr (fieldD w) (fieldA w) (w.extractLsb' 19 13))))

/-- R70, R108, R109, R111: a scalar float instruction that rounds in ROUND writes its rounded result, ORs its flags and under STO takes one
counter draw; under STO it may not stand in an open region (R151). The refinement steps give 2 − a · b and (3 − a · b) / 2 rounded once, and 2.0
and 1.5 beside a zero or an infinity. fcvt to i64 gives the value rounded in the mode to an integer, and to fx64 to a multiple of 2^−32, each saturated at
the ends of its range, and 0 for a NaN. What a rounding to f32 gives is RoundingToFormats. (That a conversion which saturates raises invalid and not
inexact too is the model's choice, log 22.) -/
def Obligations.ScalarRoundedResults : Prop :=
  (∀ (s : State) (i : Instr) (d : BitVec 6) (r : Res), Ready s →
    roundedResult s (modeOf s) (drawOf s (modeOf s) 0) i = some (d, r) →
    if modeOf s = .sto ∧ s.f.region.isOpen = true then exec i s = .next (s.takeFault 0x0E 0 0 0)
    else exec i s = .next (retired s ((s.setSreg d (BitVec.ofNat 64 r.pat)).rounded (modeOf s) 1 r.flags))) ∧
  (∀ (md : Mode) (k p q : Nat),
    RefineGives 2 1 0x40000000 md k (Fmt.f32.value p) (Fmt.f32.value q) (frcps md k p q) ∧
    RefineGives 3 2 0x3FC00000 md k (Fmt.f32.value p) (Fmt.f32.value q) (frsqrts md k p q)) ∧
  ∀ (md : Mode) (k : Nat) (x : FVal),
    intoRange 64 (-(2 ^ 63)) (2 ^ 63 - 1) md k x (toIntVal md k 64 true x) ∧
    (∃ v, (∀ q, ratOf x = some q → ratOf v = some (q * 2 ^ 32)) ∧ v.isNan = x.isNan ∧ v.isInf = x.isInf ∧ v.isNeg = x.isNeg ∧
      intoRange 64 (-(2 ^ 63)) (2 ^ 63 - 1) md k v (toIntVal md k 64 true (x.scale 32)))

/-- R66 to R69, R109, R110: the scalar float instructions that do not round in the mode write their result, OR their flags and draw nothing. fexp2
and flog2 go through the steps of R66 and R67, frcp and frsqrt give the estimates of R68 and R69, each with its special inputs and flags; fmin and
fmax give the lesser and the greater operand of each format; fclass sets the one bit of its operand's class. feq, flt and fle compare by the values: the two
zeros are equal, a NaN makes each false, feq raises invalid for a signalling NaN alone and flt and fle for any; the same order is that of the vector compares
of every type (VectorCompareResults). -/
def Obligations.ScalarPlainResults : Prop :=
  (∀ (s : State) (i : Instr) (d : BitVec 6) (r : Res), Ready s → plainResult s i = some (d, r) →
    exec i s = .next (retired s ((s.setSreg d (BitVec.ofNat 64 r.pat)).raiseFlags r.flags))) ∧
  (∀ p : Nat, p < 2 ^ 32 →
    Exp2Gives (Fmt.f32.value p) (fexp2 p) ∧ Log2Gives (Fmt.f32.value p) (flog2 p) ∧ RcpGives (Fmt.f32.value p) (frcp p) ∧
    RsqrtGives (Fmt.f32.value p) (frsqrt p) ∧ Fmt.f32.classMask p = 2 ^ classBit (Fmt.f32.value p)) ∧
  (∀ (f : Fmt) (isMax : Bool) (p q : Nat), f ∈ [Fmt.f32, Fmt.bf16, Fmt.f16] → p < 2 ^ f.width → q < 2 ^ f.width →
    MinMaxGives f isMax p q (f.minMax isMax p q)) ∧
  (∀ x y : FVal, IsValue x → IsValue y → CompareGives x y) ∧ ∀ t p : Nat, IsValue (valueOf t p)

/-- R53, R109: sums, products, fused sums and quotients are exact before the one rounding; what they give for NaNs, infinities and zeros, and the
sign of an exact zero sum; and what a square root is before its rounding. -/
def Obligations.ExactBeforeRounding : Prop :=
  (∀ (md : Mode) (x y z : FVal) (a b c : ℚ), ratOf x = some a → ratOf y = some b → ratOf z = some c →
    ratOf (addVal md x y).1 = some (a + b) ∧ ratOf (mulVal x y).1 = some (a * b) ∧
    ratOf (fmaVal md x y z).1 = some (a * b + c) ∧ (b ≠ 0 → ratOf (divVal x y).1 = some (a / b))) ∧
  (∀ (md : Mode) (x y z : FVal), SpecialOperands md x y z) ∧ ∀ x : FVal, RootGives x

/-- R55: rounding to an integer. RNE and RNA give a nearest integer, ties to even and away from zero; RTZ, RUP and RDN give the
neighbour that their name says, of the value with its sign; STO gives the upper neighbour of the value with its sign exactly when the draw lies
below the distance to the lower one, in units of 2^−32 (R57); every mode gives an exact value back. -/
def Obligations.RoundingDirections : Prop :=
  ∀ (num den k : Nat) (neg : Bool), 0 < den →
    let q : ℚ := (num : ℚ) / (den : ℚ)
    |(roundNat .rne k neg num den : ℚ) - q| ≤ 1 / 2 ∧
    (|(roundNat .rne k neg num den : ℚ) - q| = 1 / 2 → roundNat .rne k neg num den % 2 = 0) ∧
    |(roundNat .rna k neg num den : ℚ) - q| ≤ 1 / 2 ∧
    (|(roundNat .rna k neg num den : ℚ) - q| = 1 / 2 → q < (roundNat .rna k neg num den : ℚ)) ∧
    (roundNat .rtz k neg num den : ℚ) ≤ q ∧ q < (roundNat .rtz k neg num den : ℚ) + 1 ∧
    (roundNat .rup k neg num den = if neg then num / den else (num + den - 1) / den) ∧
    (roundNat .rdn k neg num den = if neg then (num + den - 1) / den else num / den) ∧
    (num % den ≠ 0 → roundNat .sto k neg num den =
      if neg then (if (k : ℚ) < ((num / den : Nat) + 1 - q) * 2 ^ 32 then num / den else num / den + 1)
      else (if (k : ℚ) < (q - (num / den : Nat)) * 2 ^ 32 then num / den + 1 else num / den)) ∧
    (∀ md, num % den = 0 → roundNat md k neg num den = num / den)

/-- R119, R123, R124, R129 to R131, R136: without a prefix every element of an integer or move instruction is active, and vd holds its
results; nothing else changes. -/
def Obligations.VectorIntegerResults : Prop :=
  ∀ (s : State) (i : Instr) (v : VecResult), Ready s → i.wellFormed = true → vecResult s i = some v →
    ∃ vs, groupHolds v.q v.w vs v.f ∧
      exec i s = .next ((writeRegs s v.q v.d vs).retireTo (s.f.pc + BitVec.ofNat 64 v.len))

/-- R120, R125: the vector float instructions write each result rounded with the draw of its element, OR their flags, and advance DRAWC
by one for each element under STO, which may not stand in an open region (R151). vmin, vmax, vexp2, vlog2, vrcp, vrsqrt and the refinement steps
give each element what their scalar forms give, as ScalarPlainResults and ScalarRoundedResults state it. -/
def Obligations.VectorFloatResults : Prop :=
  ∀ (s : State) (i : Instr) (v : FloatResult), Ready s → i.wellFormed = true → floatResult s i = some v →
    let n := 4096 / typeWidth v.t
    let md := modeOf s
    let r := fun k => v.f md (if v.rounds then drawOf s md k else 0) k
    if v.rounds = true ∧ md = .sto ∧ s.f.region.isOpen = true then exec i s = .next (s.takeFault 0x0E 0 0 0)
    else ∃ x : VWord, (∀ k, k < n → el (typeWidth v.t) k x = (r k).pat % 2 ^ typeWidth v.t) ∧
      exec i s = .next ((if v.rounds then (s.setVreg v.d x).rounded md n (orFlags n r)
        else (s.setVreg v.d x).raiseFlags (orFlags n r)).retireTo (s.f.pc + BitVec.ofNat 64 v.len))

/-- R116, R135: a compare writes each result to every byte of its element in kd and ORs its flags. What compareVal gives for float and tapered
elements, by the order of their values, ScalarPlainResults states. -/
def Obligations.VectorCompareResults : Prop :=
  ∀ (s : State) (i : Instr) (t op : Nat) (d a b : BitVec 5), Ready s → i.wellFormed = true →
    compareParts i = some (t, op, d, a, b) →
    let w := typeWidth t
    let r := fun k => compareOf t op (el w k (s.vreg a)) (el w k (s.vreg b))
    ∃ p : PWord, (∀ j, j < 512 → p.getLsbD j = predBit w (fun k => (r k).1) j) ∧
      exec i s = .next (retired s ((s.setKreg (d.truncate 4) p).raiseFlags
        ((List.range (4096 / w)).foldl (fun f k => f ||| (r k).2) 0)))

/-- R137: predicate logic, and kpop, which counts the set bits into a scalar; R129: vextract gives one element, its index taken modulo the
number of elements, extended by the signedness of its type. -/
def Obligations.PredicateAndExtractResults : Prop :=
  ∀ (s : State), Ready s →
    (∀ (t : BitVec 4) (d a b : BitVec 5), (Instr.vextract t d a b).wellFormed = true →
      let w := typeWidth t.toNat
      let x := el w ((s.sreg (b.zeroExtend 6)).toNat % (4096 / w)) (s.vreg a)
      exec (.vextract t d a b) s = .next (retired s (s.setSreg (d.zeroExtend 6)
        (BitVec.ofInt 64 (if t = 10 then (x % 64 : Nat) else intEl t.toNat x))))) ∧
    (∀ (i : Instr) (d : BitVec 5) (p : PWord), i.wellFormed = true → predResult s i = some (d, p) →
      exec i s = .next (retired s (s.setKreg (d.truncate 4) p))) ∧
    (∀ (d a : BitVec 5), exec (.kpop d a) s =
      .next (retired s (s.setSreg (d.zeroExtend 6)
        (BitVec.ofNat 64 ((List.range 512).countP fun j => (s.kreg (a.truncate 4)).getLsbD j)))))

end

namespace Sys2Proof.Claims

open Sys2Proof Sys2Proof.Machine

/-! ## Conversions, quantisation, reductions, sampling -/

/-- The conversions as they take one element: destination and source type, and whether the destination is a group (vcvtw). -/
def cvtParts : Instr → Option (Nat × Nat × BitVec 5 × BitVec 5 × Bool)
  | .vcvt t u d a => some (t.toNat, u.toNat, d, a, false)
  | .vcvtw t u d a => some (t.toNat, u.toNat, d, a, true)
  | _ => none

/-- The magnitude of a positive pattern of `n` bits of a tapered format, read from the bits after the sign (R59): the regime is a run of equal
bits, the bit that ends it is consumed, then an exponent bit and a fraction, as far as bits remain. -/
def taperedMagnitude (n p : Nat) : ℚ :=
  let first := p.testBit (n - 2)
  let run := ((List.range (n - 1)).find? fun i => p.testBit (n - 2 - i) != first).getD (n - 1)
  let left := n - 2 - run
  let e : Nat := if 0 < left then p / 2 ^ (left - 1) % 2 else 0
  let f : ℚ := (p % 2 ^ (left - 1) : Nat) / (2 ^ (left - 1) : Nat)
  (2 : ℚ) ^ (2 * (if first then (run : Int) - 1 else -(run : Int)) + (e : Int)) * (1 + f)

/-- Bits of a tapered type: ta8 is type 9, ta6 type 10. -/
def taperedBits (t : Nat) : Nat := if t = 9 then 8 else 6

/-- `v` is the value of pattern `x` of type `u` (R50, R52, R59). -/
def readsAs (u x : Nat) (v : FVal) : Prop :=
  if u = 9 ∨ u = 10 then
    let n := taperedBits u
    let p := x % 2 ^ n
    if p = 0 then v = .zero false
    else if p = 2 ^ (n - 1) then v = .nan false
    else ratOf v = some (if p < 2 ^ (n - 1) then taperedMagnitude n p else -taperedMagnitude n (2 ^ n - p))
  else if isFloatType u then v = (fmtOf u).value x
  else v = FVal.ofRat (intEl u x) 1

/-- `r` is the conversion of a value into a tapered format of `n` bits (R60). -/
def intoTapered (n : Nat) (v : FVal) (r : Res) : Prop :=
  let top := 2 ^ (n - 1) - 1
  match v with
  | .nan s => r = { pat := 2 ^ (n - 1), flags := if s then flInvalid else 0 }
  | .zero _ => r = { pat := 0, flags := 0 }
  | .inf s => r = { pat := if s then 2 ^ n - top else top, flags := flOverflow }
  | .fin a b =>
    let x : ℚ := (a.natAbs : ℚ) / (b : ℚ)
    ∃ m, 1 ≤ m ∧ m ≤ top ∧ r.pat = (if a < 0 then 2 ^ n - m else m) ∧
      (taperedMagnitude n top < x → m = top ∧ r.flags = flOverflow ||| flInexact) ∧
      (x < taperedMagnitude n 1 → m = 1 ∧ r.flags = flUnderflow ||| flInexact) ∧
      (taperedMagnitude n 1 ≤ x → x ≤ taperedMagnitude n top →
        (∀ j, 1 ≤ j → j ≤ top → |taperedMagnitude n m - x| ≤ |taperedMagnitude n j - x| ∧
          (j ≠ m → |taperedMagnitude n j - x| = |taperedMagnitude n m - x| → m % 2 = 0)) ∧
        r.flags = if taperedMagnitude n m = x then 0 else flInexact)

/-- `r` is the conversion of a value into an integer type (R58). -/
def intoInteger (t : Nat) (md : Mode) (k : Nat) (v : FVal) (r : Res) : Prop := intoRange (typeWidth t) (least t) (greatest t) md k v r

/-- Does a conversion from type `u` to type `t` round in the mode (R120)? -/
def roundsInMode (t u : Nat) : Bool := decide (t ≠ u) && (isFloatType t || (isIntType t && !isIntType u))

/-- `r` is the conversion of pattern `x` of type `u` to type `t`, by the rows of R126. -/
def converts (t u : Nat) (md : Mode) (k x : Nat) (r : Res) : Prop :=
  if t = u then r = { pat := canon t x, flags := 0 }
  else if isIntType t = true ∧ isIntType u = true then r = { pat := patOf t (intEl u x), flags := 0 }
  else ∃ v, readsAs u x v ∧
    if t = 9 ∨ t = 10 then ∃ z, intoTapered (taperedBits t) v z ∧ r = { z with pat := canon t z.pat }
    else if isFloatType t then r = (fmtOf t).round md k v
    else intoInteger t md k v r

/-- Node `j` of level `l` of the reduction tree over `n` elements `x`, with the flags met below it; its draw is that of its number (R65, R132). -/
def node (n : Nat) (x : Nat → Nat) (draw : Nat → Nat) (f : Nat → Nat → Nat → Res) : Nat → Nat → Res
  | 0, j => { pat := x j, flags := 0 }
  | l + 1, j =>
    let p := node n x draw f l (2 * j)
    let q := node n x draw f l (2 * j + 1)
    let z := f p.pat q.pat (draw (n - n / 2 ^ l + j))
    { pat := z.pat, flags := z.flags ||| (p.flags ||| q.flags) }

/-- A float reduction in a mode. -/
structure Reduction where
  t      : Nat
  d      : BitVec 5
  a      : BitVec 5
  /-- The mode in which its nodes round, RNE where they round nothing. -/
  mode   : Mode
  /-- What it gives with no element present (R65). -/
  absent : Nat
  f      : Nat → Nat → Nat → Res

def floatReduction (md : Mode) : Instr → Option Reduction
  | .vredsum t d a => some { t := t.toNat, d := d, a := a, mode := md, absent := 0, f := (fun x y k => sumOf t.toNat md k x y) }
  | .vredmax t d a => some { t := t.toNat, d := d, a := a, mode := .rne, absent := (fmtOf t.toNat).nanPat,
                             f := (fun x y _ => (fmtOf t.toNat).minMax true x y) }
  | .vredmin t d a => some { t := t.toNat, d := d, a := a, mode := .rne, absent := (fmtOf t.toNat).nanPat,
                             f := (fun x y _ => (fmtOf t.toNat).minMax false x y) }
  | _ => none

/-- The sum of the first `n` values. -/
def sumTo (n : Nat) (f : Nat → Int) : Int := (List.range n).foldl (fun a k => a + f k) 0

/-- The element that vsample takes among those that `may`: no NaN, of greatest value, and the lowest of equal ones (R133). -/
def isSample (x : Nat → Nat) (may : Nat → Bool) (i : Nat) : Prop :=
  i < 128 ∧ may i = true ∧ (Fmt.f32.value (x i)).isNan = false ∧
  ∀ j, j < 128 → may j = true → (Fmt.f32.value (x j)).isNan = false →
    (Fmt.f32.value (x i)).lt (Fmt.f32.value (x j)) = false ∧ (j < i → (Fmt.f32.value (x j)).lt (Fmt.f32.value (x i)) = true)

/-- The word that vsample gives (R133). -/
def sampleGives (base : Nat) (x : Nat → Nat) (may : Nat → Bool) (r : Word) : Prop :=
  (∃ i, isSample x may i ∧ r = BitVec.ofNat 64 (x i * 2 ^ 32 + (base + i) % 2 ^ 32)) ∨
  ((∀ i, i < 128 → may i = true → (Fmt.f32.value (x i)).isNan = true) ∧ r = 0x7FC00000FFFFFFFF)

/-- A number saturates in a target type of R62: beyond maxpos, or, rounded to the nearest integer with ties to even, outside the integer range. -/
def Saturates (t : Nat) (q : ℚ) : Prop :=
  if t = 9 ∨ t = 10 then taperedMagnitude (taperedBits t) (2 ^ (taperedBits t - 1) - 1) < |q|
  else ∃ z : Int, |q - (z : ℚ)| ≤ 1 / 2 ∧ (|q - (z : ℚ)| = 1 / 2 → z % 2 = 0) ∧ (z < least t ∨ greatest t < z)

/-- No value of a block saturates with a scale byte. -/
def Fits (t : Nat) (xs : List FVal) (b : Nat) : Prop :=
  ∀ x ∈ xs, ∀ q, ratOf x = some q → ¬ Saturates t (q * (2 : ℚ) ^ (127 - (b : Int)))

/-- The scale byte of a block (R62): 0xFF beside a NaN or an infinity, else the least of 0 to 254 with which no element saturates. -/
def ScaleChosen (t : Nat) (xs : List FVal) (b : Nat) : Prop :=
  ((∃ x ∈ xs, x.isFinite = false) → b = 255) ∧
  ((∀ x ∈ xs, IsNumber x) → b ≤ 254 ∧ (∀ c, c < b → ¬ Fits t xs c) ∧ ((∃ c, c ≤ 254 ∧ Fits t xs c) → Fits t xs b))

/-- An element converted with the scale byte of its block (R58, R60, R62). -/
def ScaledElement (t b : Nat) (x : FVal) (r : Res) : Prop :=
  if b = 255 then r = { pat := if t = 9 ∨ t = 10 then 2 ^ (taperedBits t - 1) else 0, flags := 0 }
  else ∃ v, ratOf v = (ratOf x).map (fun q => q * (2 : ℚ) ^ (127 - (b : Int))) ∧
    if t = 9 ∨ t = 10 then intoTapered (taperedBits t) v r else intoInteger t .rne 0 v r

end Sys2Proof.Claims

section

open Sys2Proof Sys2Proof.Machine Sys2Proof.Claims

/-- R58 to R60, R118, R120, R126: vcvt and vcvtw convert each element of the source group by the row of R126 for the two types and write the
destination group; they round in the mode, and draw, only where that row does. That a conversion to an integer which saturates raises invalid and
not inexact too is the model's choice (log 22). -/
def Obligations.ConversionResults : Prop :=
  ∀ (s : State) (i : Instr) (t u : Nat) (d a : BitVec 5) (wide : Bool), Ready s → i.wellFormed = true →
    cvtParts i = some (t, u, d, a, wide) →
    let wd := typeWidth t
    let ws := typeWidth u
    let n := 4096 / (if wide then ws else wd)
    let md := modeOf s
    let rd := roundsInMode t u
    if rd = true ∧ md = .sto ∧ s.f.region.isOpen = true then exec i s = .next (s.takeFault 0x0E 0 0 0)
    else ∃ (r : Nat → Res) (vs : Nat → VWord),
      (∀ k, k < n → converts t u md (if rd then drawOf s md k else 0) (groupEl s (if wide then 1 else ws / wd) ws a k) (r k)) ∧
      groupHolds (if wide then wd / ws else 1) wd vs (fun k => (r k).pat % 2 ^ wd) ∧
      let v := writeRegs s (if wide then wd / ws else 1) d vs
      exec i s = .next (retired s (if rd then v.rounded md n (orFlags n r) else v.raiseFlags (orFlags n r)))

/-- R62, R127: vquant gives each block of 32 elements its scale byte in vb and its converted elements in vd, and takes the sources into AMAX. The
scale byte is the least of 0 to 254 with which no element of the block saturates, or 0xFF beside a NaN or an infinity, no block of finite elements
needs one above 254, and the elements are converted by it. R128: vamax takes a register's elements into AMAX. -/
def Obligations.QuantiseResults : Prop :=
  ∀ (s : State) (t : BitVec 4) (d a b : BitVec 5), Ready s →
    ((Instr.vquant t d a b).wellFormed = true →
      let w := typeWidth t.toNat
      let x := fun k => valueOf (if t = 11 then 7 else 6) (groupEl s 4 (4 * w) a k)
      let scale := fun j => blockScale (quantTarget t.toNat) ((List.range 32).map fun i => x (32 * j + i))
      let r := fun k => blockElem (quantTarget t.toNat) (scale (k / 32)) (x k)
      ∃ v c : VWord, (∀ k, k < 4096 / w → el w k v = canon t.toNat (r k).pat % 2 ^ w) ∧
        (∀ j, j < 512 → el 8 j c = if j < 128 / w then scale j % 256 else 0) ∧
        exec (.vquant t d a b) s = .next (retired s ((((s.setVreg d v).setVreg b c).raiseFlags (orFlags (4096 / w) r)).updateAmax
          s.myLc ((List.range (4096 / w)).map x)))) ∧
    ((Instr.vquant t d a b).wellFormed = true → ∀ xs : List FVal,
      ScaleChosen t.toNat xs (blockScale (quantTarget t.toNat) xs) ∧
      (∀ ps : List Nat, xs = ps.map (valueOf (if t = 11 then 7 else 6)) → (∀ x ∈ xs, x.isFinite = true) → Fits t.toNat xs 254) ∧
      ∀ x c, IsNumber x → c ≤ 255 → ScaledElement t.toNat c x (blockElem (quantTarget t.toNat) c x)) ∧
    ((Instr.vamax t a).wellFormed = true →
      exec (.vamax t a) s = .next (retired s (s.updateAmax s.myLc
        ((List.range (4096 / typeWidth t.toNat)).map fun k => valueOf t.toNat (el (typeWidth t.toNat) k (s.vreg a))))))

/-- R128, R148: AMAX holds the greatest of what it held and of the f32 magnitudes taken in, and remembers a NaN. -/
def Obligations.AmaxBounds : Prop :=
  ∀ (l : List Nat) (m : BitVec 33), (∀ p ∈ l, p < 2 ^ 32) → m.toNat % 2 ^ 32 < 2 ^ 31 →
    let r := (l.map Fmt.f32.value).foldl takeAmax m
    (∀ p ∈ l, (Fmt.f32.value p).isNan = false → p % 2 ^ 31 ≤ r.toNat % 2 ^ 32) ∧
    m.toNat % 2 ^ 32 ≤ r.toNat % 2 ^ 32 ∧
    (r.toNat % 2 ^ 32 = m.toNat % 2 ^ 32 ∨ ∃ p ∈ l, (Fmt.f32.value p).isNan = false ∧ r.toNat % 2 ^ 32 = p % 2 ^ 31) ∧
    (r.getLsbD 32 = true ↔ m.getLsbD 32 = true ∨ ∃ p ∈ l, (Fmt.f32.value p).isNan = true)

/-- R65, R132: an integer reduction leaves the sum modulo 2^w, the greatest or the least element in element 0 and zeros elsewhere; a float
reduction combines its elements in the fixed tree, one rounding and one draw number for each node. -/
def Obligations.ReductionResults : Prop :=
  ∀ (s : State), Ready s →
    (∀ (t : BitVec 4) (d a : BitVec 5), isIntType t.toNat = true → (Instr.vredsum t d a).wellFormed = true →
      let w := typeWidth t.toNat
      let n := 4096 / w
      let x := fun k => intEl t.toNat (el w k (s.vreg a))
      exec (.vredsum t d a) s = .next (retired s (s.setVreg d (BitVec.ofNat 4096 (patOf t.toNat (sumTo n x))))) ∧
      (∃ k, k < n ∧ (∀ j, j < n → x j ≤ x k) ∧
        exec (.vredmax t d a) s = .next (retired s (s.setVreg d (BitVec.ofNat 4096 (el w k (s.vreg a)))))) ∧
      (∃ k, k < n ∧ (∀ j, j < n → x k ≤ x j) ∧
        exec (.vredmin t d a) s = .next (retired s (s.setVreg d (BitVec.ofNat 4096 (el w k (s.vreg a))))))) ∧
    (∀ (i : Instr) (v : Reduction), i.wellFormed = true → isFloatType v.t = true → floatReduction (modeOf s) i = some v →
      let w := typeWidth v.t
      let n := 4096 / w
      let r := node n (fun k => el w k (s.vreg v.a)) (drawOf s v.mode) v.f (Nat.log2 n) 0
      if v.mode = .sto ∧ s.f.region.isOpen = true then exec i s = .next (s.takeFault 0x0E 0 0 0)
      else exec i s = .next (retired s ((s.setVreg v.d (BitVec.ofNat 4096 r.pat)).rounded v.mode (n - 1) r.flags)))

/-- R133, R134: vsample without a grammar tile takes among all 128 elements; with one it takes those whose bit of the ready tile is set,
as an acquire; a tile that is a slot or undefined is fault 0x0C; on one that is not ready the firing waits, or in an open region takes fault
0x0E; and one that is ready and poisoned is fault 0x0A. That readiness is tested before the poison is the model's choice (log 15). -/
def Obligations.SampleResults : Prop :=
  ∀ (s : State) (d a b : BitVec 5), Ready s →
    let q := s.sreg (b.zeroExtend 6)
    let x := fun k => el 32 k (s.vreg a)
    let fl : BitVec 5 := if (List.range 128).any fun k => (Fmt.f32.value (x k)).isSig then flInvalid else 0
    let tile := s.me.tile (fld q 25 20)
    let bits := leNat (s.readHome false (s.me.sharePA tile.base) tile.size)
    (q.getLsbD 26 = false → ∃ r, sampleGives (fld q 63 32) x (fun _ => true) r ∧
      exec (.vsample d a b) s = .next (retired s ((s.setSreg (d.zeroExtend 6) r).raiseFlags fl))) ∧
    (q.getLsbD 26 = true → (tile.kind = 0 ∨ tile.kind = 2) → exec (.vsample d a b) s = .next (s.takeFault 0x0C 0 0 0)) ∧
    (q.getLsbD 26 = true → tile.kind ≠ 0 → tile.kind ≠ 2 → tile.state ≠ 2 →
      exec (.vsample d a b) s = .next (if s.f.region.isOpen then s.takeFault 0x0E 0 0 0 else s.waitFor (.need (.tileReady (fld q 25 20))))) ∧
    (q.getLsbD 26 = true → tile.kind ≠ 0 → tile.kind ≠ 2 → tile.state = 2 → tile.poison = true →
      exec (.vsample d a b) s = .next (s.takeFault 0x0A 0 0 0)) ∧
    (q.getLsbD 26 = true → tile.kind ≠ 0 → tile.kind ≠ 2 → tile.state = 2 → tile.poison = false →
      ∃ r, sampleGives (fld q 63 32) x (fun k => bits.testBit (fld q 19 0 + k)) r ∧
        exec (.vsample d a b) s = .next (retired s (((s.emptyL1 s.me.pcore).setSreg (d.zeroExtend 6) r).raiseFlags fl)))

/-- R150, R151: draw gives a value made of the next counter draw or two and advances DRAWC by as many; in an open region it is fault 0x0E. -/
def Obligations.DrawResults : Prop :=
  ∀ (s : State) (d b : BitVec 6), Ready s →
    let k := s.counterDraw 0
    (s.f.region.isOpen = true → exec (.draw d b) s = .next (s.takeFault 0x0E 0 0 0)) ∧
    (s.f.region.isOpen = false → ∃ v : Word,
      (match (s.sreg b).toNat % 4 with
       | 0 => v = BitVec.ofNat 64 k
       | 1 => ratOf (Fmt.f32.value v.toNat) = some ((k / 256 : Nat) / (2 ^ 24 : ℚ)) ∧ v.toNat < 2 ^ 32
       | 2 => ratOf (Fmt.f32.value v.toNat) = some ((2 * (k / 512) + 1 : Nat) / (2 ^ 24 : ℚ)) ∧ v.toNat < 2 ^ 32
       | _ => v = BitVec.ofNat 64 (s.counterDraw 1 * 2 ^ 32 + k)) ∧
      exec (.draw d b) s =
        .next (retired s ((s.setSreg d v).advanceDraws (if (s.sreg b).toNat % 4 = 3 then 2 else 1))))

end

namespace Sys2Proof.Claims

open Sys2Proof Sys2Proof.Machine

/-! ## Memory -/

/-- What an instruction that retired left of the firing's own registers: the pc is `len` further, YLEFT one lower, sd holds `v`, and no other
register, flag, mode, exception register or accumulator changed. -/
structure OnlyReg (s u : State) (len : Nat) (d : BitVec 6) (v : Word) : Prop where
  pc     : u.f.pc = s.f.pc + BitVec.ofNat 64 len
  yleft  : u.f.yleft = s.f.yleft - 1
  regs   : u.f.regs = (s.f.setSreg d v).regs
  vregs  : u.f.vregs = s.f.vregs
  kregs  : u.f.kregs = s.f.kregs
  flags  : u.f.flags = s.f.flags
  round  : u.f.round = s.f.round
  poly   : u.f.poly = s.f.poly
  guards : u.f.guards = s.f.guards
  gstat  : u.f.gstat = s.f.gstat
  cause  : u.f.cause = s.f.cause
  epc    : u.f.epc = s.f.epc
  faddr  : u.f.faddr = s.f.faddr
  drawc  : u.f.drawc = s.f.drawc
  regseq : u.f.regseq = s.f.regseq
  regstat : u.f.regstat = s.f.regstat
  mode   : u.f.service = s.f.service

/-- No register changed. -/
def NoReg (s u : State) (len : Nat) : Prop := OnlyReg s u len 0 0

/-- Destination, base, offset in bytes, size, and whether the value is sign-extended, of the plain scalar loads (R165). -/
def loadForm : Instr → Option (BitVec 6 × BitVec 6 × Int × Nat × Bool)
  | .ldI8 d b o => some (d, b, o.toInt, 1, true)
  | .ldN8 d b o => some (d, b, o.toInt, 1, false)
  | .ldI16 d b o => some (d, b, 2 * o.toInt, 2, true)
  | .ldN16 d b o => some (d, b, 2 * o.toInt, 2, false)
  | .ldI32 d b o => some (d, b, 4 * o.toInt, 4, true)
  | .ldN32 d b o => some (d, b, 4 * o.toInt, 4, false)
  | .ld d b o => some (d, b, 8 * o.toInt, 8, false)
  | _ => none

/-- Source, base, offset in bytes and size of the plain scalar stores (R165). -/
def storeForm : Instr → Option (BitVec 6 × BitVec 6 × Int × Nat)
  | .st8 d b o => some (d, b, o.toInt, 1)
  | .st16 d b o => some (d, b, 2 * o.toInt, 2)
  | .st32 d b o => some (d, b, 4 * o.toInt, 4)
  | .st d b o => some (d, b, 8 * o.toInt, 8)
  | _ => none

/-- Destination, base, offset in bytes, size and scope of the acquire loads (R166). -/
def acquireForm : Instr → Option (BitVec 6 × BitVec 6 × Int × Nat × BitVec 3)
  | .ldAcqN32 d b c o => some (d, b, 4 * o.toInt, 4, c)
  | .ldAcq d b c o => some (d, b, 8 * o.toInt, 8, c)
  | _ => none

/-- Source, base, offset in bytes, size, scope, and whether it is non-temporal, of the stores of R166. -/
def releaseForm : Instr → Option (BitVec 6 × BitVec 6 × Int × Nat × BitVec 3 × Bool)
  | .stRel32 d b c o => some (d, b, 4 * o.toInt, 4, c, false)
  | .stRel d b c o => some (d, b, 8 * o.toInt, 8, c, false)
  | .stnt32 d b o => some (d, b, 4 * o.toInt, 4, 0, true)
  | .stnt d b o => some (d, b, 8 * o.toInt, 8, 0, true)
  | _ => none

/-- The effective address (R164). -/
def ea (s : State) (b : BitVec 6) (o : Int) : Word := BitVec.ofInt 64 ((s.sreg b).toInt + o)

/-- Little-endian bytes as a register: sign- or zero-extended (R165). -/
def asReg (signed : Bool) (bs : List Byte) : Word :=
  if signed then BitVec.ofInt 64 (BitVec.ofNat (8 * bs.length) (leNat bs)).toInt else BitVec.ofNat 64 (leNat bs)

/-- Every byte at its home outside `[pa, pa + bs.length)` is as before, and those hold `bs`. -/
def Stored (m m' : List Host.Cell) (pa : Nat) (bs : List Byte) : Prop :=
  ∀ x, Mem.get m' x = if pa ≤ x ∧ x < pa + bs.length then bs.getD (x - pa) 0 else Mem.get m x

/-- What an increment leaves of a counter word (R294, R295). -/
def plusOne (w : Word) : Word := BitVec.ofNat 64 ((w.toNat % 2 ^ 63 + 1) % 2 ^ 63 + (if w.getLsbD 63 then 2 ^ 63 else 0))

/-- The counter at an address has risen by one, and no other byte changed. -/
def Raised (m m' : List Host.Cell) (c : Nat) : Prop :=
  Stored m m' c (leBytes 8 (plusOne (BitVec.ofNat 64 (leNat (Mem.read m c 8)))).toNat)

/-- The parts of a put have been written one after the other. -/
inductive PartsStored : List PutPart → List Host.Cell → List Host.Cell → Prop where
  | done (m m' : List Host.Cell) : (∀ x, Mem.get m' x = Mem.get m x) → PartsStored [] m m'
  | part (g : PutPart) (r : List PutPart) (m m1 m' : List Host.Cell) :
      Stored m m1 g.pa g.data → PartsStored r m1 m' → PartsStored (g :: r) m m'

/-- Puts have been performed one after the other, each with its data and then the increment of its counter (R169, R189). -/
inductive PutsDone : List PendingPut → List Host.Cell → List Host.Cell → Prop where
  | done (m m' : List Host.Cell) : (∀ x, Mem.get m' x = Mem.get m x) → PutsDone [] m m'
  | plain (x : PendingPut) (r : List PendingPut) (m m1 m' : List Host.Cell) :
      x.ctr = none → PartsStored x.parts m m1 → PutsDone r m1 m' → PutsDone (x :: r) m m'
  | counted (x : PendingPut) (r : List PendingPut) (m m1 m2 m' : List Host.Cell) (c : Nat) (sc : Bool) :
      x.ctr = some (c, sc) → PartsStored x.parts m m1 → Raised m1 m2 c → PutsDone r m2 m' → PutsDone (x :: r) m m'

/-- The word at a physical address. -/
def wordAt (s : State) (pa : Nat) : Word := BitVec.ofNat 64 (leNat (Mem.read s.mem.home pa 8))

/-- The puts of the issuing firing that are still in flight, and those of the other firings. -/
def ownPuts (s : State) : List PendingPut := s.net.puts.filter fun x => x.fk = s.f.key
def otherPuts (s : State) : List PendingPut := s.net.puts.filter fun x => x.fk ≠ s.f.key

/-- No channel entry of a firing is on its way to its ring (R268). -/
abbrev NoEntries (s : State) (fk : Nat) : Prop := ∀ e ∈ s.net.entries, e.fk ≠ some fk

/-- No put is on its way, and no channel entry of the issuing firing: nothing is left for its release to perform. -/
abbrev NothingSent (s : State) : Prop := s.net.puts = [] ∧ NoEntries s s.f.key

/-- A put writes memory of the package and counts in an aligned word of it. -/
structure PlainPut (x : PendingPut) : Prop where
  parts   : ∀ g ∈ x.parts, g.host = false ∧ isDeviceReg g.pa = false
  counter : ∀ c sc, x.ctr = some (c, sc) → c % 8 = 0 ∧ isDeviceReg c = false

/-- A put writes no device register, whose write might end the launch of the firing itself. -/
def OffRegisters (x : PendingPut) : Prop :=
  (∀ g ∈ x.parts, g.host = true ∨ isDeviceReg g.pa = false) ∧ ∀ c sc, x.ctr = some (c, sc) → isDeviceReg c = false

/-- The firing's puts in flight write memory of the package, none of it poisoned, and no channel entry of its own is on its way. -/
structure PlainPuts (s : State) : Prop where
  entries : NoEntries s s.f.key
  poison : s.mem.poison = []
  plain  : ∀ x ∈ ownPuts s, PlainPut x

/-- One piece of an access lies in a granule of HBM that is not poisoned, and no put and no channel entry of the firing is on its way. -/
structure PlainSpot (s : State) (p : Spot) : Prop where
  win    : p.win = none
  host   : p.attr.host = false
  hbm    : isHbm p.pa = true
  clean  : s.poisoned p.pa = false
  sent   : NothingSent s

/-- Operands, scope, width, sign extension of the old value, and the new value of each atomic from the old one (R168). -/
def atomicForm (s : State) : Instr → Option (BitVec 6 × BitVec 6 × BitVec 3 × Nat × Bool × (Nat → Nat))
  | .amoswap d a b c => some (d, a, c, 8, false, fun _ => (s.sreg b).toNat)
  | .amoaddI64 d a b c => some (d, a, c, 8, false, fun m => m + (s.sreg b).toNat)
  | .amoand d a b c => some (d, a, c, 8, false, fun m => m &&& (s.sreg b).toNat)
  | .amoor d a b c => some (d, a, c, 8, false, fun m => m ||| (s.sreg b).toNat)
  | .amoxor d a b c => some (d, a, c, 8, false, fun m => m ^^^ (s.sreg b).toNat)
  | .amomaxI64 d a b c => some (d, a, c, 8, false, fun m =>
      (BitVec.ofInt 64 (Max.max (BitVec.ofNat 64 m).toInt (s.sreg b).toInt)).toNat)
  | .amominI64 d a b c => some (d, a, c, 8, false, fun m =>
      (BitVec.ofInt 64 (Min.min (BitVec.ofNat 64 m).toInt (s.sreg b).toInt)).toNat)
  | .amomaxN64 d a b c => some (d, a, c, 8, false, fun m => Max.max m (s.sreg b).toNat)
  | .amominN64 d a b c => some (d, a, c, 8, false, fun m => Min.min m (s.sreg b).toNat)
  | .amocas d a b c => some (d, a, c, 8, false, fun m => if m = (s.sreg d).toNat then (s.sreg b).toNat else m)
  | .amoaddI32 d a b c => some (d, a, c, 4, true, fun m => m + (s.sreg b).toNat % 2 ^ 32)
  | .amoswap32 d a b c => some (d, a, c, 4, false, fun _ => (s.sreg b).toNat % 2 ^ 32)
  | .amoaddFx64 d a b c => some (d, a, c, 8, false, fun m => m + (s.sreg b).toNat)
  | .amoaddF32 d a b c => some (d, a, c, 4, false, fun m => (roundPair .rne 0 (addVal .rne (Fmt.f32.value m) (f32 s b))).pat)
  | .amocas32 d a b c => some (d, a, c, 4, false, fun m =>
      if m = (s.sreg d).toNat % 2 ^ 32 then (s.sreg b).toNat % 2 ^ 32 else m)
  | _ => none

/-- `va` is the address of a granule that a range of bytes meets. -/
def rangeMeets (base n va : Nat) : Prop := va % 64 = 0 ∧ 0 < n ∧ va < base + n ∧ base < va + 64

/-- The byte that the write-hold buffer of a region holds at offset `o` of a line (R202). -/
def heldAt (r : Region) (line o : Nat) : Option Byte :=
  (r.hold.find? fun h => h.line = line).bind fun h => if h.mask.getLsbD o then some (h.data.extractLsb' (8 * o) 8) else none

/-- R205: what a read of one piece of HBM does in an open region. A line whose stamp is not the recorded one is a conflict, a 65th line fault 0x0E;
otherwise the line stands in the read set with the stamp that it has at home, and the bytes are those of the home with the held ones over them. -/
def RegionReads : Prop :=
  ∀ (s : State) (va n : Nat) (plain : Bool) (p : Spot) (ts : List Trans), s.f.region.isOpen = true → va < 0x400000000000 →
    s.locate s.asker .load [(va, n)] = .ok ([p], ts) → PlainSpot s p →
    let line := p.pa / 64
    let rg := s.f.region
    let stamped := rg.reads.find? fun x => x.1 = line
    (p.attr.sc = true → s.readPieces [(va, n)] plain = .stop (.fault 0x0E 0 0)) ∧
    (p.attr.sc = false →
      (∀ x e, stamped = some x → s.l2Line line = some e → e.stamp ≠ x.2 → s.readPieces [(va, n)] plain = .stop .conflict) ∧
      (∀ x, stamped = some x → s.l2Line line = none → Tbl.get 0 s.mem.stamps (s.sliceOf (64 * line)) + 1 ≠ x.2 →
        s.readPieces [(va, n)] plain = .stop .conflict) ∧
      (stamped = none → 64 ≤ rg.reads.length → s.readPieces [(va, n)] plain = .stop (.fault 0x0E 0 0)) ∧
      (((∃ x e, stamped = some x ∧ s.l2Line line = some e ∧ e.stamp = x.2) ∨ (stamped = none ∧ rg.reads.length < 64)) →
        ∃ bs t, s.readPieces [(va, n)] plain = .ok bs t ∧ bs.length = p.n ∧
          (∀ k, k < p.n → bs.getD k 0 = (heldAt rg line (p.pa % 64 + k)).getD (Mem.get s.mem.home (p.pa + k))) ∧
          t.mem.home = s.mem.home ∧ t.mem.host = s.mem.host ∧ t.f.regs = s.f.regs ∧ t.f.region.hold = rg.hold ∧
          (stamped ≠ none → t.f.region.reads = rg.reads) ∧
          (stamped = none → ∃ e, t.l2Line line = some e ∧ t.f.region.reads = rg.reads ++ [(line, e.stamp)])))

/-- R205: what a write of one piece of HBM does in an open region. A 17th line is fault 0x0E; otherwise the bytes stand in the write-hold buffer, a
new line with the stamp that it has at home, and no byte of memory changes. -/
def RegionWrites : Prop :=
  ∀ (s : State) (va : Nat) (bs : List Byte) (p : Spot) (ts : List Trans), s.f.region.isOpen = true → va < 0x400000000000 →
    s.locate s.asker .store [(va, bs.length)] = .ok ([p], ts) → PlainSpot s p → p.n = bs.length → p.pa % 64 + bs.length ≤ 64 →
    let line := p.pa / 64
    let rg := s.f.region
    let held := rg.hold.any fun h => h.line = line
    (p.attr.sc = true → s.writePieces [(va, bs.length)] bs = .stop (.fault 0x0E 0 0)) ∧
    (p.attr.sc = false → held = false → 16 ≤ rg.hold.length → s.writePieces [(va, bs.length)] bs = .stop (.fault 0x0E 0 0)) ∧
    (p.attr.sc = false → (held = true ∨ rg.hold.length < 16) →
      ∃ t, s.writePieces [(va, bs.length)] bs = .ok t ∧ t.mem.home = s.mem.home ∧ t.mem.host = s.mem.host ∧ t.f.regs = s.f.regs ∧
        t.f.region.reads = rg.reads ∧
        (∀ l o, o < 64 → heldAt t.f.region l o =
          if l = line ∧ p.pa % 64 ≤ o ∧ o < p.pa % 64 + bs.length then some (bs.getD (o - p.pa % 64) 0) else heldAt rg l o) ∧
        (held = false → ∃ h e, t.f.region.hold = rg.hold ++ [h] ∧ t.l2Line line = some e ∧ h.stamp = e.stamp))

/-- The bytes of an f32, integer or pointer element `k` of width `w`, at its address (R171). -/
def elementAddr (s : State) (w : Nat) (a b : BitVec 5) (k : Nat) : Nat :=
  (BitVec.ofInt 64 ((s.sreg (b.zeroExtend 6)).toInt + (BitVec.ofNat w (el w k (s.vreg a))).toInt * (w / 8 : Nat))).toNat

end Sys2Proof.Claims

section

open Sys2Proof Sys2Proof.Machine Sys2Proof.Claims

/-- R164, R165: a load whose bytes can be read retires with their value in sd; a misaligned one is fault 0x07 that names its address. -/
def Obligations.LoadResults : Prop :=
  ∀ (s : State) (i : Instr) (d b : BitVec 6) (o : Int) (n : Nat) (g : Bool), Ready s → loadForm i = some (d, b, o, n, g) →
    ((ea s b o).toNat % n ≠ 0 → exec i s = .next (s.takeFault 0x07 0 (ea s b o) 1)) ∧
    (∀ bs t, (ea s b o).toNat % n = 0 → s.readPieces (pieces (ea s b o).toNat n) true = .ok bs t → bs.length = n →
      exec i s = .next (retired s (t.setSreg d (asReg g bs))))

/-- R164, R165: a store whose bytes can be written retires with them written and no register changed; a misaligned one is fault 0x07. -/
def Obligations.StoreResults : Prop :=
  ∀ (s : State) (i : Instr) (d b : BitVec 6) (o : Int) (n : Nat), Ready s → storeForm i = some (d, b, o, n) →
    ((ea s b o).toNat % n ≠ 0 → exec i s = .next (s.takeFault 0x07 0 (ea s b o) 2)) ∧
    (∀ t, (ea s b o).toNat % n = 0 →
      s.writePieces (pieces (ea s b o).toNat n) (leBytes n (s.sreg d).toNat) = .ok t →
      exec i s = .next (retired s t))

/-- R155, R156, R164, R188, R205: outside a region a read of one piece of HBM gives the bytes at their home, or those of the line that the core's
L1 holds, and a read of a scratchpad gives its bytes; neither changes a byte at home, a register, or anything but caches and translations.
A store to one piece of HBM or of a scratchpad puts its bytes at their home and changes no other byte there, no byte of host memory, and no
register of the firing; that the bytes of a plain store stand at their home at the end of its own step is the model's choice (log 3). In an open
region they go through its read set and its write-hold buffer, and an access that begins in a peer window is fault 0x0E. -/
def Obligations.ReadsAndWritesOfMemory : Prop :=
  (∀ (s : State) (va n : Nat) (plain : Bool) (p : Spot) (ts : List Trans), s.f.region.isOpen = false →
    s.locate s.asker .load [(va, n)] = .ok ([p], ts) →
    (PlainSpot s p → ∃ t,
      s.readPieces [(va, n)] plain = .ok
        (match (if plain && !p.attr.sc then (s.noteAll s.asker ts).l1Line s.asker.pcore false (p.pa / 64) else none) with
         | some l => sliceBytes (leBytes 64 l.data.toNat) (p.pa % 64) p.n
         | none => Mem.read s.mem.home p.pa p.n) t ∧
      t.mem.home = s.mem.home ∧ t.mem.host = s.mem.host ∧ t.mem.poison = s.mem.poison ∧
      t = { s with mem := t.mem, pcores := t.pcores, tcache := t.tcache }) ∧
    (p.win = some 0 → s.poisoned p.pa = false → NothingSent s →
      s.readPieces [(va, n)] plain = .ok (Mem.read s.mem.home p.pa p.n) (s.noteAll s.asker ts))) ∧
  (∀ (s : State) (va : Nat) (bs : List Byte) (p : Spot) (ts : List Trans), s.f.region.isOpen = false → s.f.st = .running →
    s.locate s.asker .store [(va, bs.length)] = .ok ([p], ts) → p.n = bs.length → bs ≠ [] →
    PlainSpot s p ∨ (p.win = some 0 ∧ p.attr.host = false ∧ isHbm p.pa = false ∧ s.poisoned p.pa = false ∧ NothingSent s) →
    ∃ t, s.writePieces [(va, bs.length)] bs = .ok t ∧ Stored s.mem.home t.mem.home p.pa bs ∧ t.mem.host = s.mem.host ∧
      t.f.regs = s.f.regs ∧ t.f.vregs = s.f.vregs ∧ t.f.kregs = s.f.kregs ∧ t.f.flags = s.f.flags ∧ t.f.poly = s.f.poly) ∧
  RegionReads ∧ RegionWrites ∧
  (∀ (s : State) (va n : Nat) (plain : Bool) (bs : List Byte), s.f.region.isOpen = true → 0x400000000000 ≤ va → va < 0x410000000000 →
    s.readPieces [(va, n)] plain = .stop (.fault 0x0E 0 0) ∧ s.writePieces [(va, bs.length)] bs = .stop (.fault 0x0E 0 0))

/-- R156, R166: an acquire load takes its bytes as a plain load of the same pieces does, by which a line of the core's own L1 may answer it, and at
cluster scope or wider it empties that L1 afterwards; in an open region it is fault 0x0E. -/
def Obligations.AcquireLoads : Prop :=
  ∀ (s : State) (i : Instr) (d b : BitVec 6) (o : Int) (n : Nat) (c : BitVec 3), Ready s → acquireForm i = some (d, b, o, n, c) →
    (s.f.region.isOpen = true → exec i s = .next (s.takeFault 0x0E 0 0 0)) ∧
    (∀ bs t, s.f.region.isOpen = false → (ea s b o).toNat % n = 0 →
      s.readPieces (pieces (ea s b o).toNat n) true = .ok bs t →
      exec i s = .next (retired s
        ((if c = 0 then t else t.modPCore t.me.pcore fun p => { p with l1 := [] }).setSreg d (asReg false bs))))

/-- R162, R166, R169: a release or non-temporal store of one piece of HBM leaves its bytes at their home and no other byte changed there; a
release store at system scope and a non-temporal store have them in the memory-side cache as well. A release store performs the puts of its firing
that are in flight first, in the order of their issue, each with its increment, and leaves the puts of other firings in flight. -/
def Obligations.ReleaseStores : Prop :=
  (∀ (s : State) (i : Instr) (d b : BitVec 6) (o : Int) (n : Nat) (c : BitVec 3) (p : Spot) (ts : List Trans),
    Ready s → releaseForm i = some (d, b, o, n, c, false) → s.f.region.isOpen = false → (ea s b o).toNat % n = 0 →
    s.locate s.asker .store (pieces (ea s b o).toNat n) = .ok ([p], ts) → p.win = none → p.attr.host = false → isHbm p.pa = true →
    p.n = n → p.pa % 64 + n ≤ 64 → PlainPuts s →
    ∃ t m, exec i s = .next t ∧ NoReg s t 4 ∧ t.net.puts = otherPuts s ∧ PutsDone (ownPuts s) s.mem.home m ∧
      Stored m t.mem.home p.pa (leBytes n (s.sreg d).toNat) ∧ t.mem.host = s.mem.host) ∧
  ∀ (s : State) (i : Instr) (d b : BitVec 6) (o : Int) (n : Nat) (c : BitVec 3) (nt : Bool) (p : Spot) (ts : List Trans),
    Ready s → releaseForm i = some (d, b, o, n, c, nt) → s.f.region.isOpen = false → (ea s b o).toNat % n = 0 →
    s.locate s.asker (if nt then .stnt else .store) (pieces (ea s b o).toNat n) = .ok ([p], ts) → PlainSpot s p →
    p.n = n → p.pa % 64 + n ≤ 64 →
    ∃ t, exec i s = .next t ∧ NoReg s t 4 ∧ Stored s.mem.home t.mem.home p.pa (leBytes n (s.sreg d).toNat) ∧
      t.mem.host = s.mem.host ∧
      ((nt = true ∨ c = 4) → Mem.read t.mem.side p.pa n = leBytes n (s.sreg d).toNat)

/-- R162, R167, R169, R186, R189, R268: fence, ntdrain, mflush and cinv change no register but the length that mflush gives; in an open region they are fault
0x0E. A fence and mflush complete; they perform the puts of the firing that are in flight, in the order of their issue, each with its increment, and,
where none of them writes a device register, change no other byte at home; a channel entry that the firing has sent reaches its ring with them; ntdrain and cinv change none. fence system has every dirty line of the L2 in the memory-side cache, as it stands at home; mflush has
each granule of its range in the array as the memory-side cache holds it, which then holds it clean, and a granule that was dirty in the L2 has its
bytes of the home there; cinv drops from the core's L1 the lines of its range and no other, or from 32,768 bytes on every line. That fence system
cleans every dirty line, those of other harts too, is the model's choice (log 3): R167 asks for the firing's earlier stores. That the channel entry of a
chput reaches its ring with the next release of its firing is deduced from R37, R169 and R189 (log 3, DEDUCED). -/
def Obligations.FencesAndFlushes : Prop :=
  ∀ (s : State) (c : BitVec 3) (d a b : BitVec 6), Ready s → s.mem.l2.Pairwise (fun x y => x.line ≠ y.line) →
    (s.f.region.isOpen = true → ∀ i ∈ [Instr.fence c, .ntdrain, .mflush d a b, .cinv a b],
      exec i s = .next (s.takeFault 0x0E 0 0 0)) ∧
    (s.f.region.isOpen = false → (∃ t, exec (.fence c) s = .next t) ∧ ∃ t, exec (.mflush d a b) s = .next t) ∧
    (s.f.region.isOpen = false → (∀ x ∈ ownPuts s, OffRegisters x) →
      (∃ t, exec (.fence c) s = .next t ∧ NoReg s t 4 ∧ t.net.puts = otherPuts s ∧
        (PlainPuts s → PutsDone (ownPuts s) s.mem.home t.mem.home ∧ t.mem.host = s.mem.host)) ∧
      (∃ t, exec (.mflush d a b) s = .next t ∧ OnlyReg s t 4 d (BitVec.ofNat 64 (Min.min (s.sreg b).toNat 0x100000)) ∧
        t.net.puts = otherPuts s ∧ (PlainPuts s → PutsDone (ownPuts s) s.mem.home t.mem.home ∧ t.mem.host = s.mem.host))) ∧
    (s.f.region.isOpen = false → ownPuts s = [] → s.mem.poison = [] → ∀ pre e post x, s.net.entries = pre ++ e :: post →
      e.fk = some s.f.key → (∀ y ∈ pre ++ post, y.fk ≠ some s.f.key ∧ ¬ (y.lc = e.lc ∧ y.inEnd = e.inEnd)) →
      Tbl.find (s.lc e.lc).ends e.inEnd = some x →
      let ring := (s.lc e.lc).sharePA (x.ring + 64 * (e.index % 2 ^ x.logCap))
      let mirror := (s.lc e.lc).counterPA (496 + e.inEnd)
      ring + 64 ≤ mirror → ∃ t, exec (.fence c) s = .next t ∧ NoReg s t 4 ∧ t.net.entries = pre ++ post ∧
        Tbl.find (t.lc e.lc).ends e.inEnd = some { x with moved := x.moved + 1 } ∧
        Mem.read t.mem.home ring 64 = leBytes 64 e.data.toNat ∧ wordAt t mirror = BitVec.ofNat 64 (x.moved + 1)) ∧
    (s.f.region.isOpen = false → ownPuts s = [] → NoEntries s s.f.key →
      (∃ t, exec (.fence c) s = .next t ∧ NoReg s t 4 ∧ t.mem.home = s.mem.home ∧ t.mem.host = s.mem.host ∧
        (c ≠ 0 → (t.pcore s.me.pcore).l1 = []) ∧
        (c = 4 → (∀ e ∈ t.mem.l2, e.dirty = false) ∧
          ∀ e ∈ s.mem.l2, e.dirty = true → Mem.read t.mem.side (64 * e.line) 64 = Mem.read s.mem.home (64 * e.line) 64)) ∧
      (∃ t, exec (.mflush d a b) s = .next t ∧ OnlyReg s t 4 d (BitVec.ofNat 64 (Min.min (s.sreg b).toNat 0x100000)) ∧
        t.mem.home = s.mem.home ∧ t.mem.host = s.mem.host ∧
        ∀ va pa, rangeMeets (s.sreg a).toNat (Min.min (s.sreg b).toNat 0x100000) va → t.granulePA va = some pa →
          Mem.read t.mem.array (pa / 64 * 64) 64 = Mem.read t.mem.side (pa / 64 * 64) 64 ∧
          (∀ e ∈ t.mem.msc, e.line = pa / 2048 → e.dirty.getLsbD (pa / 64 % 32) = false) ∧
          ((∃ e ∈ s.mem.l2, e.line = pa / 64 ∧ e.dirty = true) →
            Mem.read t.mem.array (pa / 64 * 64) 64 = Mem.read s.mem.home (pa / 64 * 64) 64))) ∧
    (s.f.region.isOpen = false →
      exec .ntdrain s = .next (retired s s) ∧
      (∃ t, exec (.cinv a b) s = .next t ∧ NoReg s t 4 ∧ t.mem = s.mem ∧
        (32768 ≤ (s.sreg b).toNat → (t.pcore s.me.pcore).l1 = []) ∧
        ((s.sreg b).toNat < 32768 → ∀ l, l ∈ (t.pcore s.me.pcore).l1 ↔ l ∈ (s.pcore s.me.pcore).l1 ∧
          ∀ va pa, rangeMeets (s.sreg a).toNat (s.sreg b).toNat va → s.granuleAt va = some (l.host, pa) → l.line ≠ pa / 64)))

/-- R168: an atomic on one piece of HBM puts its new value at the word's home, gives the old value in sd and changes no other byte
there; a misaligned one is fault 0x07, a word that is poisoned once the firing's own puts before it are performed fault 0x0A, and in an open region every one is fault 0x0E. -/
def Obligations.AtomicResults : Prop :=
  ∀ (s : State) (i : Instr) (d a : BitVec 6) (c : BitVec 3) (n : Nat) (g : Bool) (f : Nat → Nat), Ready s →
    atomicForm s i = some (d, a, c, n, g, f) →
    (s.f.region.isOpen = true → exec i s = .next (s.takeFault 0x0E 0 0 0)) ∧
    (s.f.region.isOpen = false → (s.sreg a).toNat % n ≠ 0 → exec i s = .next (s.takeFault 0x07 0 (s.sreg a) 2)) ∧
    (∀ p ts, s.f.region.isOpen = false → (s.sreg a).toNat % n = 0 →
      s.locate s.asker (.atomic n) (pieces (s.sreg a).toNat n) = .ok ([p], ts) →
      ((s.reach s.asker [p] ts).poisoned p.pa = true → exec i s = .next (s.takeFault 0x0A 0 (s.sreg a) 2)) ∧
      (PlainSpot s p → p.n = n →
        let old := Mem.read s.mem.home p.pa n
        ∃ t, exec i s = .next t ∧ OnlyReg s t 4 d (asReg g old) ∧
          Stored s.mem.home t.mem.home p.pa (leBytes n (f (leNat old))) ∧ t.mem.host = s.mem.host))

/-- R169: a put whose destination and counter can be written takes its source at issue and retires with the write on its way: no byte of memory and
no register changes, and the one put more in flight holds the bytes and the counter. -/
def Obligations.PutIssues : Prop :=
  ∀ (s : State) (a b c : BitVec 6) (vec : Bool) (sp cp : List Spot) (ts us : List Trans), Ready s → s.f.region.isOpen = false →
    let n := if vec then 512 else 8
    let i := if vec then Instr.putV a b c else .put a b c
    let data := if vec then leBytes 512 (s.vreg (c.truncate 5)).toNat else leBytes 8 (s.sreg c).toNat
    (s.sreg a).toNat % (if vec then 64 else 8) = 0 →
    s.locate s.asker .put (pieces (s.sreg a).toNat n) = .ok (sp, ts) →
    (b ≠ 0 → (s.sreg b).toNat % 8 = 0 ∧ s.locate s.asker .increment (pieces (s.sreg b).toNat 8) = .ok (cp, us)) →
    ∃ t p, exec i s = .next t ∧ NoReg s t 4 ∧ t.mem = s.mem ∧ t.net.puts = s.net.puts ++ [p] ∧
      p.fk = s.f.key ∧ p.ctr = (if b = 0 then none else cp.head?.map fun q => (q.pa, q.attr.sc)) ∧ p.far = sp.any Spot.host ∧
      p.parts.map (fun g => (g.pa, g.host)) = sp.map (fun q => (q.pa, q.attr.host)) ∧
      p.parts.map (fun g => g.data) = (dealBytes sp data).map (fun e => e.2)

/-- R170: without a prefix vld and vld.ta6 read 512 or 384 bytes into vd, and vst and vst.ta6 write them, packed for the ta6 forms; a
misaligned address is fault 0x07. -/
def Obligations.VectorMemoryResults : Prop :=
  ∀ (s t : State) (d : BitVec 5) (b : BitVec 6) (o : BitVec 10) (bs : List Byte), Ready s →
    let a := ea s b (64 * o.toInt)
    (a.toNat % 64 ≠ 0 →
      exec (.vld d b o) s = .next (s.takeFault 0x07 0 a 1) ∧ exec (.vldTa6 d b o) s = .next (s.takeFault 0x07 0 a 1) ∧
      exec (.vst d b o) s = .next (s.takeFault 0x07 0 a 2) ∧ exec (.vstTa6 d b o) s = .next (s.takeFault 0x07 0 a 2)) ∧
    (a.toNat % 64 = 0 →
      (s.readPieces (pieces a.toNat 512) true = .ok bs t → bs.length = 512 → ∃ v : VWord,
        (∀ k, k < 512 → el 8 k v = (bs.getD k 0).toNat) ∧ exec (.vld d b o) s = .next (retired s (t.setVreg d v))) ∧
      (s.readPieces (pieces a.toNat 384) true = .ok bs t → bs.length = 384 → ∃ v : VWord,
        (∀ k, k < 512 → el 8 k v = canon 10 (leNat bs / 2 ^ (6 * k) % 64)) ∧
        exec (.vldTa6 d b o) s = .next (retired s (t.setVreg d v))) ∧
      (s.writePieces (pieces a.toNat 512) ((List.range 512).map fun k => BitVec.ofNat 8 (el 8 k (s.vreg d))) = .ok t →
        exec (.vst d b o) s = .next (retired s t)) ∧
      (∀ x, (∀ k, k < 512 → x / 2 ^ (6 * k) % 64 = el 8 k (s.vreg d) % 64) → x < 2 ^ 3072 →
        s.writePieces (pieces a.toNat 384) (leBytes 384 x) = .ok t → exec (.vstTa6 d b o) s = .next (retired s t)))

/-- R171: without a prefix vgather reads each element from its address into vd, and vscatter writes the elements in ascending index order, once the checks of all of
them have passed; in an open region both are fault 0x0E, and a check that fails is the fault of the instruction. -/
def Obligations.GatherScatterResults : Prop :=
  ∀ (s : State) (t : BitVec 4) (d a b : BitVec 5), Ready s → (Instr.vgather t d a b).wellFormed = true →
    let w := typeWidth t.toNat
    let n := 4096 / w
    let addrs := (List.range n).map (elementAddr s w a b)
    (s.f.region.isOpen = true → exec (.vgather t d a b) s = .next (s.takeFault 0x0E 0 0 0) ∧
      exec (.vscatter t d a b) s = .next (s.takeFault 0x0E 0 0 0)) ∧
    (s.f.region.isOpen = false →
      (∀ e, s.checkElems .load (w / 8) addrs = .error e → exec (.vgather t d a b) s = .next (s.takeFlt e)) ∧
      (∀ e, s.checkElems .store (w / 8) addrs = .error e → exec (.vscatter t d a b) s = .next (s.takeFlt e)) ∧
      (∀ sp x bs u, s.checkElems .load (w / 8) addrs = .ok (sp, x) →
        x.loadSpots x.asker true sp = (bs, u) → bs.length = 512 → ∃ v : VWord,
        (∀ k, k < n → el w k v = leNat ((bs.drop (k * (w / 8))).take (w / 8))) ∧
        exec (.vgather t d a b) s = .next (retired s (u.setVreg d v))) ∧
      (∀ sp x, s.checkElems .store (w / 8) addrs = .ok (sp, x) →
        exec (.vscatter t d a b) s = .next (retired s (x.storeSpots x.asker
          (dealBytes sp ((List.range n).flatMap fun k => leBytes (w / 8) (el w k (s.vreg d))))).settle)))

end

namespace Sys2Proof.Claims

open Sys2Proof Sys2Proof.Machine

/-! ## Instructions under a prefix (R77, R78, R117, R120, R122) -/

/-- A prefix `p` stands at the pc of `s`, and behind it, read into `u`, an instruction that it may modify and that nothing else holds back. -/
structure Prefixed (s u : State) (p : Pfx) (i : Instr) : Prop where
  running : s.f.st = .running
  pair    : s.fetchPair p p.bad = (.ok i, u)
  ready   : Ready u
  formed  : i.wellFormed = true

/-- Is element `k` of width `w` active (R116, R117)? -/
def active (u : State) (p : Pfx) (w k : Nat) : Bool := !p.masked || (u.kreg p.mask).getLsbD (k * w / 8)

/-- The active elements before element `k`. -/
def activeBelow (act : Nat → Bool) (k : Nat) : Nat := (List.range k).countP act

/-- What stands in an element: its result, or under R117 the old value or zero. -/
def kept (p : Pfx) (act : Bool) (new old : Nat) : Nat := if act then new else if p.zeroing then 0 else old

/-- The mode of the rounding field (R55). -/
def fieldMode (u : State) (p : Pfx) : Mode := if p.round = 7 then modeOf u else Mode.ofCode p.round.toNat

/-- Element `k` of the fourth operand (R78). -/
def fourthEl (u : State) (p : Pfx) (t k : Nat) : Nat :=
  if p.scalar then scalarEl u (typeWidth t) p.fourth else el (typeWidth t) k (u.vreg p.fourth)

/-- The flags of the active ones of `n` results, ORed. -/
def orActive (n : Nat) (act : Nat → Bool) (f : Nat → Res) : BitVec 5 :=
  (List.range n).foldl (fun a k => if act k then a ||| (f k).flags else a) 0

/-- The pair has retired as one instruction of eight bytes. -/
def pairRetired (u t : State) : Outcome := .next (t.retireTo (u.f.pc + 8))

/-- Results of integers and moves under a prefix: vmadd takes the fourth operand as its addend. -/
def prefixedVec (u : State) (p : Pfx) : Instr → Option VecResult
  | .vmadd t c d a b => some { len := 4, q := 1, w := typeWidth t.toNat, d := d, f := (fun k =>
      patOf t.toNat (intEl t.toNat (el (typeWidth t.toNat) k (u.vreg a)) * intEl t.toNat (operand u t.toNat c b k) +
        intEl t.toNat (fourthEl u p t.toNat k))) }
  | .vsel _ _ _ _ => none
  | i => (vecResult u i).filter fun v => v.len = 4

def PrefixedIntegers : Prop :=
  ∀ (s u : State) (c m z : BitVec 1) (o : BitVec 5) (r : BitVec 3) (k : BitVec 4) (i : Instr) (v : VecResult),
    let p := Pfx.ofFields c m o r z k
    Prefixed s u p i → prefixedVec u p i = some v →
    ∃ vs, groupHolds v.q v.w vs (fun j => kept p (active u p (v.w / v.q) j) (v.f j) (groupEl u v.q v.w v.d j)) ∧
      exec (.pfx c m o r z k) s = pairRetired u (writeRegs u v.q v.d vs)

/-- vsel takes va where an element is active and vb elsewhere (R136). -/
def PrefixedSelect : Prop :=
  ∀ (s u : State) (c m z : BitVec 1) (o : BitVec 5) (r : BitVec 3) (k : BitVec 4) (t : BitVec 4) (d a b : BitVec 5),
    let p := Pfx.ofFields c m o r z k
    Prefixed s u p (.vsel t d a b) →
    let w := typeWidth t.toNat
    ∃ x : VWord, (∀ j, j < 4096 / w → el w j x = canon t.toNat (el w j (u.vreg (if active u p w j then a else b)))) ∧
      exec (.pfx c m o r z k) s = pairRetired u (u.setVreg d x)

/-- Results of floats under a prefix: vfma takes the fourth operand as its addend. -/
def prefixedFloat (u : State) (p : Pfx) : Instr → Option FloatResult
  | .vfma t c d a b => some { len := 4, rounds := true, t := t.toNat, d := d, f := (fun md n k =>
      let w := typeWidth t.toNat
      let g := fmtOf t.toNat
      g.roundWith md n (fmaVal md (g.value (el w k (u.vreg a))) (g.value (operand u t.toNat c b k)) (g.value (fourthEl u p t.toNat k)))) }
  | i => (floatResult u i).filter fun v => v.len = 4

/-- Only active elements round, raise flags and draw, in ascending order (R117, R120). -/
def PrefixedFloats : Prop :=
  ∀ (s u : State) (c m z : BitVec 1) (o : BitVec 5) (r : BitVec 3) (k : BitVec 4) (i : Instr) (v : FloatResult),
    let p := Pfx.ofFields c m o r z k
    Prefixed s u p i → prefixedFloat u p i = some v →
    let w := typeWidth v.t
    let n := 4096 / w
    let md := fieldMode u p
    let act := active u p w
    let y := fun j => v.f md (if v.rounds then drawOf u md (activeBelow act j) else 0) j
    if v.rounds = true ∧ md = .sto ∧ u.f.region.isOpen = true then exec (.pfx c m o r z k) s = .next (u.takeFault 0x0E 0 0 0)
    else ∃ x : VWord, (∀ j, j < n → el w j x = kept p (act j) ((y j).pat % 2 ^ w) (el w j (u.vreg v.d))) ∧
      exec (.pfx c m o r z k) s = pairRetired u
        (if v.rounds then (u.setVreg v.d x).rounded md (activeBelow act n) (orActive n act y)
         else (u.setVreg v.d x).raiseFlags (orActive n act y))

def PrefixedConversions : Prop :=
  ∀ (s u : State) (c m z : BitVec 1) (o : BitVec 5) (r : BitVec 3) (k : BitVec 4) (i : Instr) (t v : Nat) (d a : BitVec 5) (wide : Bool),
    let p := Pfx.ofFields c m o r z k
    Prefixed s u p i → cvtParts i = some (t, v, d, a, wide) →
    let wd := typeWidth t
    let ws := typeWidth v
    let q := if wide then wd / ws else 1
    let n := 4096 / (if wide then ws else wd)
    let md := fieldMode u p
    let rd := roundsInMode t v
    let act := active u p (if wide then ws else wd)
    if rd = true ∧ md = .sto ∧ u.f.region.isOpen = true then exec (.pfx c m o r z k) s = .next (u.takeFault 0x0E 0 0 0)
    else ∃ (y : Nat → Res) (vs : Nat → VWord),
      (∀ j, j < n → act j = true →
        converts t v md (if rd then drawOf u md (activeBelow act j) else 0) (groupEl u (if wide then 1 else ws / wd) ws a j) (y j)) ∧
      groupHolds q wd vs (fun j => kept p (act j) ((y j).pat % 2 ^ wd) (groupEl u q wd d j)) ∧
      let x := writeRegs u q d vs
      exec (.pfx c m o r z k) s =
        pairRetired u (if rd then x.rounded md (activeBelow act n) (orActive n act y) else x.raiseFlags (orActive n act y))

/-- An inactive element keeps its bits of kd, or clears them (R135). -/
def PrefixedCompares : Prop :=
  ∀ (s u : State) (c m z : BitVec 1) (o : BitVec 5) (r : BitVec 3) (k : BitVec 4) (i : Instr) (t op : Nat) (d a b : BitVec 5),
    let p := Pfx.ofFields c m o r z k
    Prefixed s u p i → compareParts i = some (t, op, d, a, b) →
    let w := typeWidth t
    let act := active u p w
    let y := fun j => compareOf t op (el w j (u.vreg a)) (el w j (u.vreg b))
    ∃ x : PWord,
      (∀ j, j < 512 → x.getLsbD j =
        if act (j * 8 / w) then predBit w (fun e => (y e).1) j else if p.zeroing then false else (u.kreg (d.truncate 4)).getLsbD j) ∧
      exec (.pfx c m o r z k) s = pairRetired u ((u.setKreg (d.truncate 4) x).raiseFlags
        ((List.range (4096 / w)).foldl (fun f e => if act e then f ||| (y e).2 else f) 0))

/-- Is an input below node `j` of level `l` present (R65)? -/
def present (act : Nat → Bool) (l j : Nat) : Bool := (List.range (2 ^ l)).any fun i => act (j * 2 ^ l + i)

/-- Does node `j` of level `l + 1` combine two inputs? -/
def combines (act : Nat → Bool) (l j : Nat) : Bool := present act l (2 * j) && present act l (2 * j + 1)

/-- The nodes of levels 1 to `l` of a tree over `n` elements that combine two inputs. -/
def combinedBelow (act : Nat → Bool) (n l : Nat) : Nat :=
  (List.range l).foldl (fun a i => a + (List.range (n / 2 ^ (i + 1))).countP (combines act i)) 0

/-- Node `j` of level `l` of the tree with absent inputs; draws go to the nodes that combine, level by level (R65, R120, R132). -/
def maskedNode (n : Nat) (x : Nat → Nat) (act : Nat → Bool) (draw : Nat → Nat) (f : Nat → Nat → Nat → Res) : Nat → Nat → Res
  | 0, j => { pat := x j, flags := 0 }
  | l + 1, j =>
    let p := maskedNode n x act draw f l (2 * j)
    let q := maskedNode n x act draw f l (2 * j + 1)
    if combines act l j then
      let z := f p.pat q.pat (draw (combinedBelow act n l + (List.range j).countP (combines act l)))
      { pat := z.pat, flags := z.flags ||| (p.flags ||| q.flags) }
    else if present act l (2 * j) then p else q

def PrefixedReductions : Prop :=
  ∀ (s u : State) (c m z : BitVec 1) (o : BitVec 5) (r : BitVec 3) (k : BitVec 4),
    let p := Pfx.ofFields c m o r z k
    (∀ (t : BitVec 4) (d a : BitVec 5), isIntType t.toNat = true →
      let w := typeWidth t.toNat
      let n := 4096 / w
      let act := active u p w
      let x := fun j => intEl t.toNat (el w j (u.vreg a))
      let gives := fun v : Nat => exec (.pfx c m o r z k) s = pairRetired u (u.setVreg d (BitVec.ofNat 4096 v))
      (Prefixed s u p (.vredsum t d a) → gives (patOf t.toNat (sumTo n fun j => if act j then x j else 0))) ∧
      (Prefixed s u p (.vredmax t d a) → (∀ j, j < n → act j = false) → gives 0) ∧
      (Prefixed s u p (.vredmin t d a) → (∀ j, j < n → act j = false) → gives 0) ∧
      (Prefixed s u p (.vredmax t d a) → (∃ j, j < n ∧ act j = true) →
        ∃ j, j < n ∧ act j = true ∧ (∀ e, e < n → act e = true → x e ≤ x j) ∧ gives (el w j (u.vreg a))) ∧
      (Prefixed s u p (.vredmin t d a) → (∃ j, j < n ∧ act j = true) →
        ∃ j, j < n ∧ act j = true ∧ (∀ e, e < n → act e = true → x j ≤ x e) ∧ gives (el w j (u.vreg a)))) ∧
    (∀ (i : Instr) (v : Reduction), Prefixed s u p i → isFloatType v.t = true → floatReduction (fieldMode u p) i = some v →
      let w := typeWidth v.t
      let n := 4096 / w
      let act := active u p w
      let y := maskedNode n (fun j => el w j (u.vreg v.a)) act (drawOf u v.mode) v.f (Nat.log2 n) 0
      if v.mode = .sto ∧ u.f.region.isOpen = true then exec (.pfx c m o r z k) s = .next (u.takeFault 0x0E 0 0 0)
      else exec (.pfx c m o r z k) s = pairRetired u
        ((u.setVreg v.d (BitVec.ofNat 4096 (if present act (Nat.log2 n) 0 then y.pat else v.absent))).rounded v.mode
          (combinedBelow act n (Nat.log2 n)) y.flags))

/-- Scales come from the active elements; an inactive one is kept or zeroed, and takes no part in AMAX (R127, R128). -/
def PrefixedQuantise : Prop :=
  ∀ (s u : State) (c m z : BitVec 1) (o : BitVec 5) (r : BitVec 3) (k : BitVec 4) (t : BitVec 4) (d a b : BitVec 5),
    let p := Pfx.ofFields c m o r z k
    let w := typeWidth t.toNat
    let n := 4096 / w
    let act := active u p w
    (Prefixed s u p (.vquant t d a b) →
      let x := fun j => valueOf (if t = 11 then 7 else 6) (groupEl u 4 (4 * w) a j)
      let scale := fun j => blockScale (quantTarget t.toNat) (((List.range 32).filter fun i => act (32 * j + i)).map fun i => x (32 * j + i))
      let y := fun j => blockElem (quantTarget t.toNat) (scale (j / 32)) (x j)
      ∃ v e : VWord, (∀ j, j < n → el w j v = kept p (act j) (canon t.toNat (y j).pat % 2 ^ w) (el w j (u.vreg d))) ∧
        (∀ j, j < 512 → el 8 j e = if j < 128 / w then scale j % 256 else 0) ∧
        exec (.pfx c m o r z k) s = pairRetired u ((((u.setVreg d v).setVreg b e).raiseFlags (orActive n act y)).updateAmax u.myLc
          (((List.range n).filter act).map x))) ∧
    (Prefixed s u p (.vamax t a) →
      exec (.pfx c m o r z k) s = pairRetired u (u.updateAmax u.myLc
        (((List.range n).filter act).map fun j => valueOf t.toNat (el w j (u.vreg a)))))

/-- Only active elements are candidates, and only they raise invalid (R133). -/
def PrefixedSample : Prop :=
  ∀ (s u : State) (c m z : BitVec 1) (o : BitVec 5) (r : BitVec 3) (k : BitVec 4) (d a b : BitVec 5),
    let p := Pfx.ofFields c m o r z k
    Prefixed s u p (.vsample d a b) →
    let q := u.sreg (b.zeroExtend 6)
    let act := active u p 32
    let x := fun j => el 32 j (u.vreg a)
    let fl : BitVec 5 := if (List.range 128).any fun j => act j && (Fmt.f32.value (x j)).isSig then flInvalid else 0
    let tile := u.me.tile (fld q 25 20)
    let bits := leNat (u.readHome false (u.me.sharePA tile.base) tile.size)
    (q.getLsbD 26 = false → ∃ v, sampleGives (fld q 63 32) x act v ∧
      exec (.pfx c m o r z k) s = pairRetired u ((u.setSreg (d.zeroExtend 6) v).raiseFlags fl)) ∧
    (q.getLsbD 26 = true → (tile.kind = 0 ∨ tile.kind = 2) → exec (.pfx c m o r z k) s = .next (u.takeFault 0x0C 0 0 0)) ∧
    (q.getLsbD 26 = true → tile.kind ≠ 0 → tile.kind ≠ 2 → tile.state ≠ 2 → exec (.pfx c m o r z k) s =
      .next (if u.f.region.isOpen then u.takeFault 0x0E 0 0 0 else u.waitFor (.need (.tileReady (fld q 25 20))))) ∧
    (q.getLsbD 26 = true → tile.kind ≠ 0 → tile.kind ≠ 2 → tile.state = 2 → tile.poison = true →
      exec (.pfx c m o r z k) s = .next (u.takeFault 0x0A 0 0 0)) ∧
    (q.getLsbD 26 = true → tile.kind ≠ 0 → tile.kind ≠ 2 → tile.state = 2 → tile.poison = false →
      ∃ v, sampleGives (fld q 63 32) x (fun j => act j && bits.testBit (fld q 19 0 + j)) v ∧
        exec (.pfx c m o r z k) s = pairRetired u (((u.emptyL1 u.me.pcore).setSreg (d.zeroExtend 6) v).raiseFlags fl))

/-- Does byte `j` of a packed ta6 vector hold a bit of an active element (R170)? -/
def needsByte (act : Nat → Bool) (j : Nat) : Bool := act (8 * j / 6) || act ((8 * j + 7) / 6)

/-- Masked loads and stores touch the active bytes only, in pieces that hold exactly those (R170). -/
def PrefixedLoadsAndStores : Prop :=
  (∀ (base : Nat) (l : List Bool), (activePieces base l).flatMap (fun e => (List.range e.2).map fun n => e.1 + n) =
    ((List.range l.length).filter fun j => l.getD j false).map fun j => base + j) ∧
  ∀ (s u t : State) (c m z : BitVec 1) (o : BitVec 5) (r : BitVec 3) (k : BitVec 4) (d : BitVec 5) (b : BitVec 6) (off : BitVec 10)
      (bs : List Byte),
    let p := Pfx.ofFields c m o r z k
    let act := active u p 8
    let need := needsByte act
    let va := ea u b (64 * off.toInt)
    (∀ i ∈ [Instr.vld d b off, .vldTa6 d b off, .vst d b off, .vstTa6 d b off], Prefixed s u p i → va.toNat % 64 ≠ 0 →
      exec (.pfx c m o r z k) s = .next (u.takeFault 0x07 0 va (if i = .vld d b off ∨ i = .vldTa6 d b off then 1 else 2))) ∧
    (va.toNat % 64 = 0 →
      (Prefixed s u p (.vld d b off) → u.readPieces (activePieces va.toNat ((List.range 512).map act)) true = .ok bs t →
        bs.length = activeBelow act 512 → ∃ v : VWord,
        (∀ j, j < 512 → el 8 j v = kept p (act j) (bs.getD (activeBelow act j) 0).toNat (el 8 j (u.vreg d))) ∧
        exec (.pfx c m o r z k) s = pairRetired u (t.setVreg d v)) ∧
      (Prefixed s u p (.vldTa6 d b off) → u.readPieces (activePieces va.toNat ((List.range 384).map need)) true = .ok bs t →
        bs.length = activeBelow need 384 → ∃ v : VWord,
        (∀ j, j < 512 → el 8 j v = kept p (act j)
          (canon 10 (((bs.getD (activeBelow need (6 * j / 8)) 0).toNat +
            256 * (bs.getD (activeBelow need (6 * j / 8 + 1)) 0).toNat) / 2 ^ (6 * j % 8) % 64)) (el 8 j (u.vreg d))) ∧
        exec (.pfx c m o r z k) s = pairRetired u (t.setVreg d v)) ∧
      (Prefixed s u p (.vst d b off) → u.writePieces (activePieces va.toNat ((List.range 512).map act))
          (((List.range 512).filter act).map fun j => BitVec.ofNat 8 (el 8 j (u.vreg d))) = .ok t →
        exec (.pfx c m o r z k) s = pairRetired u t) ∧
      (Prefixed s u p (.vstTa6 d b off) → ∀ x, (∀ j, j < 512 → x / 2 ^ (6 * j) % 64 = el 8 j (u.vreg d) % 64) → x < 2 ^ 3072 →
        u.writePieces (pieces va.toNat 384) (leBytes 384 x) = .ok t → exec (.pfx c m o r z k) s = pairRetired u t))

/-- Masked gathers and scatters check and touch the active elements only (R171). -/
def PrefixedGathers : Prop :=
  ∀ (s u : State) (c m z : BitVec 1) (o : BitVec 5) (r : BitVec 3) (k : BitVec 4) (t : BitVec 4) (d a b : BitVec 5),
    let p := Pfx.ofFields c m o r z k
    let w := typeWidth t.toNat
    let n := 4096 / w
    let act := active u p w
    let addrs := ((List.range n).filter act).map (elementAddr u w a b)
    (∀ i ∈ [Instr.vgather t d a b, .vscatter t d a b], Prefixed s u p i → u.f.region.isOpen = true →
      exec (.pfx c m o r z k) s = .next (u.takeFault 0x0E 0 0 0)) ∧
    (u.f.region.isOpen = false → Prefixed s u p (.vgather t d a b) →
      (∀ e, u.checkElems .load (w / 8) addrs = .error e → exec (.pfx c m o r z k) s = .next (u.takeFlt e)) ∧
      (∀ sp x bs y, u.checkElems .load (w / 8) addrs = .ok (sp, x) → x.loadSpots x.asker true sp = (bs, y) →
        bs.length = activeBelow act n * (w / 8) → ∃ v : VWord,
        (∀ j, j < n → el w j v =
          kept p (act j) (leNat ((bs.drop (activeBelow act j * (w / 8))).take (w / 8))) (el w j (u.vreg d))) ∧
        exec (.pfx c m o r z k) s = pairRetired u (y.setVreg d v))) ∧
    (u.f.region.isOpen = false → Prefixed s u p (.vscatter t d a b) →
      (∀ e, u.checkElems .store (w / 8) addrs = .error e → exec (.pfx c m o r z k) s = .next (u.takeFlt e)) ∧
      (∀ sp x, u.checkElems .store (w / 8) addrs = .ok (sp, x) →
        exec (.pfx c m o r z k) s = pairRetired u (x.storeSpots x.asker
          (dealBytes sp (((List.range n).filter act).flatMap fun j => leBytes (w / 8) (el w j (u.vreg d))))).settle))

end Sys2Proof.Claims

section

open Sys2Proof Sys2Proof.Machine Sys2Proof.Claims

/-- R77, R78, R117, R120, R122: under a prefix a vector instruction of every form works on its active elements alone, in the mode of the rounding
field, with the fourth operand as the addend of vmadd and vfma; an inactive element keeps its old value or, with the zeroing bit, becomes zero;
and the pair retires as one instruction of eight bytes. That a conversion to an integer which saturates raises invalid and not inexact too is the
model's choice (log 22). -/
def Obligations.PrefixedInstructions : Prop :=
  PrefixedIntegers ∧ PrefixedSelect ∧ PrefixedFloats ∧ PrefixedConversions ∧ PrefixedCompares ∧ PrefixedReductions ∧ PrefixedQuantise ∧
  PrefixedSample ∧ PrefixedLoadsAndStores ∧ PrefixedGathers

/-- R52 to R57: the IEEE formats. A pattern has the value of its fields. A value of a format rounds to its own pattern in every mode, whatever the draw, and
raises no flag; a NaN gives the default NaN. Any other number rounds to one of its two neighbours in the format, subnormals included, as the mode says, by one
draw under STO; one that overflows to an infinity or to the largest finite value, as the mode says; inexact, underflow and overflow are raised as R54 has
them, the last two judged from the rounding with an unbounded exponent. -/
def Obligations.RoundingToFormats : Prop :=
  ∀ (f : Fmt) (md : Mode) (k : Nat), f ∈ [Fmt.f32, Fmt.bf16, Fmt.f16] →
    (f.emin = (if f.ew = 8 then -126 else -14) ∧ f.emax = (if f.ew = 8 then 127 else 15)) ∧
    (∀ p, p < 2 ^ f.width → FieldsRead f p ∧ ((f.value p).isNan = false → f.round md k (f.value p) = { pat := p, flags := 0 })) ∧
    (∀ s, f.round md k (.nan s) =
      { pat := (2 ^ f.ew - 1) * 2 ^ f.mw + 2 ^ (f.mw - 1), flags := if s then flInvalid else 0 }) ∧
    ∀ v q, ratOf v = some q → q ≠ 0 → RoundsInto f md k q (f.round md k v)

end

namespace Sys2Proof.Claims

open Sys2Proof Sys2Proof.Machine

/-! ## Polynomial accumulator, regions, system registers -/

/-- What a polynomial step leaves (R141): the new accumulator and its flags, or the fault of the step. -/
def polyOutcome (s t : State) (r : PolyStep) : Outcome :=
  match r with
  | .ok (p, fl) => .next (retired s (({ t with f := { t.f with poly := p } } : State).raiseFlags fl))
  | .error c => .next (s.takeFault c 0 0 0)

/-- Coefficient `k` of the product of two polynomials. -/
def productCoeff (xs ys : List Int) (k : Nat) : Int := sumTo (k + 1) fun i => xs.getD i 0 * ys.getD (k - i) 0

/-- The value of an f32 pattern, 0 where it is no number; coefficient `k` of an accumulator, 0 above its degree (R138). -/
def f32Number (c : BitVec 32) : ℚ := (ratOf (Fmt.f32.value c.toNat)).getD 0
def coeffOf (p : Poly) (k : Nat) : ℚ := if k ≤ p.degree.toNat then f32Number (p.coeff.toList.getD k 0) else 0

/-- Is an f32 pattern a number; are the coefficients from `i` to `j`? -/
def finitePat (c : BitVec 32) : Prop := (Fmt.f32.value c.toNat).isFinite = true
def finiteFrom (p : Poly) (i j : Nat) : Prop := ∀ k, i ≤ k → k ≤ j → finitePat (p.coeff.toList.getD k 0)

/-- R141: candidates `y` 0 to `d` are rescaled and stored. `more` says that a rounding before was inexact; the flags T and N are those of `w`, and I is
that of `w` unless a rounding was inexact. A scale out of range is fault 0x0F. -/
def Rescaled (w : Poly) (e : Int) (d : Nat) (y : Nat → ℚ) (more : Bool) (r : PolyStep) : Prop :=
  ∃ (m : ℚ) (s : Int), (∃ j, j ≤ d ∧ m = |y j|) ∧ (∀ j, j ≤ d → |y j| ≤ m) ∧
    (if m = 0 ∨ ((2 : ℚ) ^ (-32 : Int) ≤ m ∧ m < (2 : ℚ) ^ (32 : Int)) then s = 0 else (2 : ℚ) ^ s ≤ m ∧ m < (2 : ℚ) ^ (s + 1)) ∧
    if e + s < -(2 ^ 31) ∨ 2 ^ 31 - 1 < e + s then r = .error 0x0F
    else ∃ (q : Poly) (z : Nat → Res),
      (∀ j, j ≤ d → ∃ v, ratOf v = some (y j * (2 : ℚ) ^ (-s)) ∧ z j = Fmt.f32.round .rne 0 v) ∧
      r = .ok (q, orFlags (d + 1) z ||| (if more then flInexact else 0)) ∧
      (∀ j, j < 64 → q.coeff.toList.getD j 0 =
        if j ≤ d ∧ (z j).pat % 2 ^ 31 ≠ 0 then BitVec.ofNat 32 (z j).pat else 0) ∧
      q.degree.toNat = d ∧ q.scale.toInt = e + s ∧ q.truncated = w.truncated ∧ q.nonfinite = w.nonfinite ∧
      q.inexact = (w.inexact || more || (orFlags (d + 1) z).getLsbD 0)

/-- R141: a nonfinite value has entered. -/
def NanFilled (w : Poly) (d : Nat) (r : PolyStep) : Prop :=
  ∃ q : Poly, r = .ok (q, flInvalid) ∧ (∀ j, j < 64 → q.coeff.toList.getD j 0 = if j ≤ d then 0x7FC00000 else 0) ∧ q.degree.toNat = d ∧
    q.scale = w.scale ∧ q.truncated = w.truncated ∧ q.inexact = w.inexact ∧ q.nonfinite = true

/-- `y` is `x` rounded to 24 significant bits, ties to even, with an unbounded exponent (R144). -/
def Near24 (x y : ℚ) : Prop :=
  if x = 0 then y = 0
  else ∃ e m : Int, (2 : ℚ) ^ e ≤ |x| ∧ |x| < (2 : ℚ) ^ (e + 1) ∧ y = (m : ℚ) * (2 : ℚ) ^ (e - 23) ∧ |x - y| ≤ (2 : ℚ) ^ (e - 24) ∧
    (|x - y| = (2 : ℚ) ^ (e - 24) → m % 2 = 0)

/-- What a division takes the quotient coefficient `j` of, forward or backward, before it is rounded (R144). -/
def quotientBefore (p : Poly) (x0 x1 : ℚ) (y : Nat → ℚ) (j : Nat) : ℚ :=
  if |x1| ≤ |x0| then (coeffOf p j - x1 * (if j = 0 then 0 else y (j - 1))) / x0
  else (coeffOf p (j + 1) - x0 * (if j + 1 = p.degree.toNat then 0 else y (j + 1))) / x1

/-- R143: the accumulator after a factor. -/
def FactorGives (p : Poly) (a0 a1 : BitVec 32) (r : PolyStep) : Prop :=
  let d := p.degree.toNat
  let w := { p with truncated := p.truncated || decide (d = 63) }
  (finitePat a0 ∧ finitePat a1 ∧ finiteFrom p 0 d →
    Rescaled w p.scale.toInt (Min.min (d + 1) 63)
      (fun j => coeffOf p j * f32Number a0 + (if j = 0 then 0 else coeffOf p (j - 1) * f32Number a1)) false r) ∧
  (¬ (finitePat a0 ∧ finitePat a1 ∧ finiteFrom p 0 d) → NanFilled w (Min.min (d + 1) 63) r)

/-- R145: the accumulator after a product with another. -/
def ProductGives (p q : Poly) (r : PolyStep) : Prop :=
  let n := p.degree.toNat + q.degree.toNat
  let e := p.scale.toInt + q.scale.toInt
  let w := { p with truncated := p.truncated || q.truncated || decide (63 < n), inexact := p.inexact || q.inexact,
                    nonfinite := p.nonfinite || q.nonfinite }
  let finite := finiteFrom p 0 p.degree.toNat ∧ finiteFrom q 0 q.degree.toNat
  (¬ finite → NanFilled w (Min.min n 63) r) ∧
  (finite → (e < -(2 ^ 31) ∨ 2 ^ 31 - 1 < e) → r = .error 0x0F) ∧
  (finite → -(2 ^ 31) ≤ e → e ≤ 2 ^ 31 - 1 →
    Rescaled w e (Min.min n 63) (fun k => ((List.range (k + 1)).map fun i => coeffOf p i * coeffOf q (k - i)).sum) false r)

/-- R144: the accumulator after a division by a factor. -/
def QuotientGives (p : Poly) (a0 a1 : BitVec 32) (r : PolyStep) : Prop :=
  let d := p.degree.toNat
  let zeros := (Fmt.f32.value a0.toNat).isZero = true ∧ (Fmt.f32.value a1.toNat).isZero = true
  let reads := if |f32Number a1| ≤ |f32Number a0| then finiteFrom p 0 (d - 1) else finiteFrom p 1 d
  let finite := finitePat a0 ∧ finitePat a1 ∧ reads
  (p.truncated = true ∨ d = 0 ∨ zeros → r = .error 0x0F) ∧
  (p.truncated = false → d ≠ 0 → ¬ zeros → ¬ finite → NanFilled p (d - 1) r) ∧
  (p.truncated = false → d ≠ 0 → ¬ zeros → finite →
    ∃ (y : Nat → ℚ) (more : Bool),
      (∀ j, j < d → Near24 (quotientBefore p (f32Number a0) (f32Number a1) y j) (y j)) ∧
      (more = true ↔ ∃ j, j < d ∧ y j ≠ quotientBefore p (f32Number a0) (f32Number a1) y j) ∧
      Rescaled p p.scale.toInt (d - 1) y more r)

/-- The instructions that R141, R151, R164, R167 to R169, R171 and R206 forbid in an open region, whatever their operands. -/
def forbiddenInRegion : Instr → Prop
  | .pclr | .pfac _ _ | .pfacv _ _ _ | .pdiv _ _ | .pconv _ | .pld _ | .pst _ | .draw _ _ | .rbegin => True
  | .trap _ | .bkpt | .eret | .halt | .waiti | .done | .yield _ | .spawn _ _ _ | .spawnj _ _ _ => True
  | .garm _ | .gset _ _ | .send _ _ _ | .sendr _ _ _ | .bind _ _ | .unbind _ | .chput _ _ | .wclose _ _ => True
  | .tset _ _ _ | .tmark _ _ | .twait _ _ | .tstat _ _ | .tclr _ => True
  | .cwait _ _ _ | .ctrig _ _ _ | .evset _ _ | .evclr _ _ | .evwait _ _ | .rinit _ _ _ | .rnext _ _ => True
  | .tjoin _ _ | .tleave _ | .tbar _ | .launch _ _ | .digest _ _ _ | .combineMaxi _ _ _ | .combineAddfx _ _ _ => True
  | .oclaim _ _ | .orelease _ | .ofill _ _ _ _ | .mma _ _ _ _ | .mmask _ _ | .adrain _ _ _ | .azero _ _ => True
  | .cpy _ _ _ _ | .cpyt _ _ _ _ | .halo _ _ _ _ | .tkn _ _ _ _ | .dtkn _ _ _ _ => True
  | .ldAcq _ _ _ _ | .ldAcqN32 _ _ _ _ | .stRel _ _ _ _ | .stRel32 _ _ _ _ | .stnt _ _ _ | .stnt32 _ _ _ | .ntdrain => True
  | .amoswap _ _ _ _ | .amoaddI64 _ _ _ _ | .amoand _ _ _ _ | .amoor _ _ _ _ | .amoxor _ _ _ _ | .amomaxI64 _ _ _ _ => True
  | .amominI64 _ _ _ _ | .amomaxN64 _ _ _ _ | .amominN64 _ _ _ _ | .amocas _ _ _ _ | .amoaddI32 _ _ _ _ => True
  | .amoswap32 _ _ _ _ | .amoaddFx64 _ _ _ _ | .amoaddF32 _ _ _ _ | .amocas32 _ _ _ _ => True
  | .fence _ | .mflush _ _ _ | .cinv _ _ | .put _ _ _ | .putV _ _ _ | .vgather _ _ _ _ | .vscatter _ _ _ _ => True
  | _ => False

/-- The byte that a held line has at offset `o`, if its mask bit is set (R202). -/
def heldByte (h : HoldLine) (o : Nat) : Option Byte := if h.mask.getLsbD o then some (h.data.extractLsb' (8 * o) 8) else none

/-- The value of a plain system register (R94 to R101); CYCLE and PCORE are recorded reads and stand apart. -/
def plainRegister (s : State) (n : Nat) : Option Word :=
  match n with
  | 0x001 => some (s.f.cause.zeroExtend 64)
  | 0x002 => some (s.f.epc.zeroExtend 64)
  | 0x003 => some s.f.faddr
  | 0x004 => some (s.f.flags.zeroExtend 64)
  | 0x005 => some (s.f.round.zeroExtend 64)
  | 0x010 => some (BitVec.ofNat 64 (s.me.index % 2 ^ 16))
  | 0x011 => some (BitVec.ofNat 64 (s.job.gridX * s.job.gridY % 2 ^ 17))
  | 0x013 => some (BitVec.ofNat 64 (s.job.gridX % 2 ^ 17))
  | 0x014 => some (BitVec.ofNat 64 (s.job.gridY % 2 ^ 17))
  | 0x015 => some (BitVec.ofNat 64 (s.job.ctx % 2 ^ 6))
  | 0x016 => some (s.job.launchId.zeroExtend 64)
  | 0x021 => some (s.f.yleft.zeroExtend 64)
  | 0x030 => some s.me.seed
  | 0x031 => some s.f.drawc
  | 0x032 => some s.f.regseq
  | 0x033 => some s.f.regstat
  | 0x034 => some (s.me.amax.zeroExtend 64)
  | _ => none

/-- Bit `k` of STATUS (R97). -/
def statusBit (s : State) (k : Nat) : Bool :=
  match k with
  | 0 => s.f.service
  | 2 => s.f.region.isOpen
  | 3 => s.job.det
  | 4 => s.job.replay
  | 5 => s.f.pinned
  | 6 => decide (s.f.key % 2 = 1)
  | 7 => s.f.prio.getLsbD 0
  | 8 => s.f.prio.getLsbD 1
  | _ => false

/-- Numbers that R94 does not assign. -/
def unassigned (n : Nat) : Prop :=
  ¬(n ≤ 0x005 ∨ (0x010 ≤ n ∧ n ≤ 0x016) ∨ n = 0x020 ∨ n = 0x021 ∨ (0x030 ≤ n ∧ n ≤ 0x035) ∨ n = 0x040)

/-- Entry `i` of the almanac of the issuing firing's context lies at this address (R314). -/
def almanacVA (s : State) (i : Nat) : Nat := ((s.context s.ctxId).almBase.toNat + 16 * i) % 2 ^ 64

/-- An almanac entry is of the issuing logical core and firing sequence (R314, R315). -/
def entryIsOurs (s : State) (b : List Byte) : Prop := fld (recWord b 0) 15 0 = s.me.index ∧ fld (recWord b 0) 47 16 = s.f.seqno.toNat

/-- Entry `i` is the first that the issuing firing of a replay run has not consumed and that is its own; `b` are its bytes. -/
def nextEntry (s : State) (i : Nat) (b : List Byte) : Prop :=
  let c := s.context s.ctxId
  i < Min.min c.almIndex.toNat c.almCap.toNat ∧ i ∉ c.consumed ∧ (∃ t, s.fetchBytes s.asker (almanacVA s i) 16 = .ok (b, t)) ∧ entryIsOurs s b ∧
  ∀ j, j < i → j ∉ c.consumed → ∃ e t, s.fetchBytes s.asker (almanacVA s j) 16 = .ok (e, t) ∧ ¬ entryIsOurs s e

/-- A recorded read of a kind, whose true value is `v`, gives `w` and leaves `t` (R100, R315): outside a deterministic launch and in a record run
the true value, which the latter appends at the write index; in a replay run the value of the firing's next entry, which is consumed. -/
def Recorded (s : State) (kind : Nat) (v w : Word) (t : State) : Prop :=
  let c := s.context s.ctxId
  if s.job.det = false then w = v ∧ t = s
  else if s.job.replay = false then
    w = v ∧ ∃ u, s.depositBytes s.asker (almanacVA s c.almIndex.toNat)
        (leBytes 8 (kind * 2 ^ 48 + s.f.seqno.toNat * 2 ^ 16 + s.me.index) ++ leBytes 8 v.toNat) = .ok u ∧
      t = u.modContext u.ctxId fun x => { x with almIndex := x.almIndex + 1 }
  else ∃ i b, nextEntry s i b ∧ fld (recWord b 0) 63 48 = kind ∧ w = recWord b 8 ∧
    t = s.modContext s.ctxId fun x => { x with consumed := i :: x.consumed }

/-- A record run has no room for `n` entries; a replay run has an entry of another kind next, or none (R315). -/
def almanacFull (s : State) (n : Nat) : Prop :=
  s.job.det = true ∧ s.job.replay = false ∧ (s.context s.ctxId).almCap.toNat < (s.context s.ctxId).almIndex.toNat + n
def almanacAstray (s : State) (kind : Nat) : Prop :=
  s.job.det = true ∧ s.job.replay = true ∧
  ((∃ i b, nextEntry s i b ∧ fld (recWord b 0) 63 48 ≠ kind) ∨
   ∀ j, j < Min.min (s.context s.ctxId).almIndex.toNat (s.context s.ctxId).almCap.toNat → j ∉ (s.context s.ctxId).consumed →
     ∃ e t, s.fetchBytes s.asker (almanacVA s j) 16 = .ok (e, t) ∧ ¬ entryIsOurs s e)

/-- A firing has a region open or pending (R216). -/
def hasRegion (g : Firing) : Prop := g.st ≠ .free ∧ (g.region.isOpen = true ∨ fld g.regstat 2 0 = 2)

/-- The frontier of every other logical core of the launch exceeds the key of the issuing firing's region (R216). -/
def commitIsNext (s : State) : Prop :=
  ∀ k ∈ s.coresOf (launchOfLc s.myLc), k ≠ s.myLc → ∀ q i, s.frontier k = some (q, i) →
    s.f.regseq.toNat < q ∨ (s.f.regseq.toNat = q ∧ s.me.index < i)

/-- Every line that a region read or holds bytes for is in its home slice with the stamp that was recorded (R204, R205). -/
def StampsHold (s : State) (r : Region) : Prop :=
  (∀ x ∈ r.reads, ∃ e, s.l2Line x.1 = some e ∧ e.stamp = x.2) ∧ (∀ h ∈ r.hold, ∃ e, s.l2Line h.line = some e ∧ e.stamp = h.stamp)

end Sys2Proof.Claims

section

open Sys2Proof Sys2Proof.Machine Sys2Proof.Claims

/-- R138 to R147: PSTATE has the layout of R140; pget and pstat read the accumulator, in an open region too; outside an open region pclr leaves the
polynomial 1, pst writes its image, and pfac, pfacv, pdiv, pconv and pld replace it by what their step gives, or raise the step's fault; an image that
R146 refuses is fault 0x0F at its address. -/
def Obligations.PolynomialResults : Prop :=
  (∀ (s : State) (d a : BitVec 6), Ready s →
    exec (.pget d a) s = .next (retired s (s.setSreg d ((s.f.poly.coeff.toList.getD ((s.sreg a).toNat % 64) 0).zeroExtend 64))) ∧
    exec (.pstat d) s = .next (retired s (s.setSreg d s.f.poly.state))) ∧
  (∀ p : Poly, fld p.state 63 32 = p.scale.toNat ∧ fld p.state 31 11 = 0 ∧ p.state.getLsbD 10 = p.nonfinite ∧ p.state.getLsbD 9 = p.inexact ∧
    p.state.getLsbD 8 = p.truncated ∧ fld p.state 7 6 = 0 ∧ fld p.state 5 0 = p.degree.toNat) ∧
  (Poly.one.degree = 0 ∧ Poly.one.scale = 0 ∧ Poly.one.truncated = false ∧ Poly.one.inexact = false ∧ Poly.one.nonfinite = false ∧
    ∀ k, k < 64 → Poly.one.coeff.toList.getD k 0 = if k = 0 then 0x3F800000 else 0) ∧
  ∀ (s : State) (d a b : BitVec 6), Ready s → s.f.region.isOpen = false →
    exec .pclr s = .next (retired s { s with f := { s.f with poly := Poly.one } }) ∧
    exec (.pfac a b) s = polyOutcome s s (s.f.poly.factor ((s.sreg a).truncate 32) ((s.sreg b).truncate 32)) ∧
    exec (.pdiv a b) s = polyOutcome s s (s.f.poly.divide ((s.sreg a).truncate 32) ((s.sreg b).truncate 32)) ∧
    exec (.pfacv d a b) s = polyOutcome s s
      (if 128 < (s.sreg d).toNat then .error 0x0F
       else s.f.poly.factors 0 ((List.range (s.sreg d).toNat).map fun k =>
         (BitVec.ofNat 32 (el 32 k (s.vreg (a.truncate 5))), BitVec.ofNat 32 (el 32 k (s.vreg (b.truncate 5)))))) ∧
    (∀ bs t, s.loadAt (s.sreg a) 512 64 true = .ok bs t →
      (∀ q, Poly.ofImage bs = some q →
        exec (.pld a) s = polyOutcome s t (.ok (q, 0)) ∧ exec (.pconv a) s = polyOutcome s t (t.f.poly.convolve q)) ∧
      (Poly.ofImage bs = none → exec (.pld a) s = .next (s.takeFault 0x0F 0 (s.sreg a) 0) ∧
        exec (.pconv a) s = .next (s.takeFault 0x0F 0 (s.sreg a) 0))) ∧
    (∀ t, s.storeAt (s.sreg a) 64 s.f.poly.image = .ok t → exec (.pst a) s = .next (retired s t))

/-- R141, R143 to R145: what Poly.factor, Poly.convolve and Poly.divide, by which PolynomialResults states pfac, pfacv, pconv and pdiv, give. The
candidates of a factor are the exact coefficients of the product by a0 + a1 z, those of pconv the exact coefficients of the product of two polynomials,
those of pdiv the quotient coefficients of R144, each rounded to 24 bits; they are rescaled and rounded once as R141 says, a nonfinite input makes
every coefficient the default NaN, and the preconditions of pdiv and a scale out of range are fault 0x0F. pfacv applies its factors in order and
combines their flags. The lists of integers that hold the candidates are exact products. -/
def Obligations.PolynomialProducts : Prop :=
  (∀ (p : Poly) (a0 a1 : BitVec 32), FactorGives p a0 a1 (p.factor a0 a1) ∧ QuotientGives p a0 a1 (p.divide a0 a1)) ∧
  (∀ p q : Poly, ProductGives p q (p.convolve q)) ∧
  (∀ (p : Poly) (fl : BitVec 5) (a0 a1 : BitVec 32) (r : List (BitVec 32 × BitVec 32)), p.factors fl [] = .ok (p, fl) ∧
    (∀ c, p.factor a0 a1 = .error c → p.factors fl ((a0, a1) :: r) = .error c) ∧
    (∀ q f, p.factor a0 a1 = .ok (q, f) → p.factors fl ((a0, a1) :: r) = q.factors (fl ||| f) r)) ∧
  (∀ (a0 a1 : Int) (cs : List Int) (k : Nat), k ≤ cs.length →
    (factorTerms a0 a1 0 cs).getD k 0 = cs.getD k 0 * a0 + (if k = 0 then 0 else cs.getD (k - 1) 0 * a1)) ∧
  (∀ (xs ys : List Int) (k : Nat), (polyMul xs ys).getD k 0 = productCoeff xs ys k)

/-- R138, R146: an image of 512 bytes is refused for a degree above 63 or a nonzero reserved bit or byte, and else gives the degree, the scale, the
flags and the coefficients within the degree bit for bit, but that each −0 is held as +0, as are those above it. An accumulator whose coefficients
above its degree are +0 and none of whose coefficients is −0 is what the image that pst writes of it is read back as. -/
def Obligations.ImageRoundTrip : Prop :=
  (∀ b : List Byte, b.length = 512 →
    let d := (b.getD 260 0).toNat
    (Poly.ofImage b = none ↔ 63 < d ∨ 7 < (b.getD 261 0).toNat ∨ ∃ i, 262 ≤ i ∧ i < 512 ∧ b.getD i 0 ≠ 0) ∧
    ∀ q, Poly.ofImage b = some q → q.degree.toNat = d ∧ q.scale = BitVec.ofNat 32 (leNat (sliceBytes b 256 4)) ∧
      q.truncated = (b.getD 261 0).getLsbD 0 ∧ q.inexact = (b.getD 261 0).getLsbD 1 ∧ q.nonfinite = (b.getD 261 0).getLsbD 2 ∧
      ∀ k, k < 64 → q.coeff.toList.getD k 0 =
        let c := BitVec.ofNat 32 (leNat (sliceBytes b (4 * k) 4))
        if k ≤ d ∧ c ≠ 0x80000000 then c else 0) ∧
  ∀ (p : Poly), (∀ k, p.degree.toNat < k → p.coeff.toList.getD k 0 = 0) → (∀ k, p.coeff.toList.getD k 0 ≠ 0x80000000) →
    Poly.ofImage p.image = some p ∧ p.image.length = 512

/-- R209, R210, R216: rbegin opens an instance with a snapshot of the scalar registers, both sets empty and REGSEQ the next of the logical core;
rabort discards an attempt with outcome 5 and no byte published; rstat reads REGSTAT; without the launch's uses-regions flag rbegin is fault 0x01, and
in an open region fault 0x0E. In a deterministic launch rbegin is fault 0x0E too on a retired logical core or beside a sibling with a region open or
pending, and rabort outside a region retires the logical core. -/
def Obligations.RegionBeginAndAbort : Prop :=
  ∀ (s : State) (d : BitVec 6), Ready s →
    exec (.rstat d) s = .next (retired s (s.setSreg d s.f.regstat)) ∧
    (s.job.regions = false → exec .rbegin s = .next (s.takeFault 0x01 0 0 0)) ∧
    (s.job.regions = true → s.f.region.isOpen = true → exec .rbegin s = .next (s.takeFault 0x0E 0 0 0)) ∧
    (s.job.regions = true → s.f.region.isOpen = false → s.job.det = true →
      (s.me.retired = true ∨ hasRegion (s.firing (firingKey s.myLc (1 - s.f.key % 2)))) →
      exec .rbegin s = .next (s.takeFault 0x0E 0 0 0)) ∧
    (s.job.regions = true → s.f.region.isOpen = false →
      (s.job.det = true → s.me.retired = false ∧ ¬ hasRegion (s.firing (firingKey s.myLc (1 - s.f.key % 2)))) →
      ∃ t, exec .rbegin s = .next t ∧ t.f.region.isOpen = true ∧ t.f.region.snap = s.f.regs ∧ t.f.region.hold = [] ∧
        t.f.region.reads = [] ∧ t.f.regseq = s.me.regionCtr + 1 ∧ t.me.regionCtr = s.me.regionCtr + 1 ∧
        fld t.f.regstat 2 0 = 1 ∧ fld t.f.regstat 31 16 = 1 ∧ t.f.pc = s.f.pc + 4 ∧ t.f.yleft = s.f.yleft - 1 ∧
        t.f.regs = s.f.regs ∧ t.f.vregs = s.f.vregs ∧ t.f.kregs = s.f.kregs ∧ t.f.flags = s.f.flags ∧ t.mem = s.mem) ∧
    (s.job.det = true → s.me.retired = true → s.f.region.isOpen = true → exec .rabort s = .next (s.takeFault 0x0E 0 0 0)) ∧
    (s.job.det = true → s.f.region.isOpen = false →
      ∃ t, exec .rabort s = .next t ∧ NoReg s t 4 ∧ (t.lc s.myLc).retired = true ∧ t.mem = s.mem) ∧
    ((s.job.det = true → s.me.retired = false) → s.f.region.isOpen = true →
      ∃ t, exec .rabort s = .next t ∧ t.f.region.isOpen = false ∧ t.f.region.hold = [] ∧ fld t.f.regstat 2 0 = 5 ∧
        t.f.pc = s.f.pc + 4 ∧ t.f.regs = s.f.regs ∧ t.f.vregs = s.f.vregs ∧ t.f.kregs = s.f.kregs ∧ t.f.flags = s.f.flags ∧
        t.mem = s.mem) ∧
    (s.job.det = false → s.f.region.isOpen = false → exec .rabort s = .next (retired s s))

/-- R189, R208 to R211, R214 to R216, R219, R315: outside a region rcommit is fault 0x0E. In a deterministic launch it waits in its slot until its key is the least,
and in a record run without room it is fault 0x13. Of an attempt whose lines have changed it restarts the region from its snapshot, charged to
YLEFT, with no byte published and no draw; of one that validates it draws k from SEED, the logical core and REGSEQ, a recorded read, and accepts
when k · 2^−32 lies below the ratio: the puts of the firing that are in flight are performed, and then every held byte, and no other, is written at its
home, also where the recording of the draw has ended the launch; a rejected attempt writes none. -/
def Obligations.RegionCommit : Prop :=
  ∀ (s : State) (d a : BitVec 6), Ready s →
    (s.f.region.isOpen = false → exec (.rcommit d a) s = .next (s.takeFault 0x0E 0 0 0)) ∧
    (s.f.region.isOpen = true → s.job.det = true → ¬ commitIsNext s →
      ∃ t, exec (.rcommit d a) s = .next t ∧ t.f.st = .waiting ∧ t.f.wait = .need .commitOrder ∧ t.f.slot = s.f.slot ∧
        t = { s with f := t.f } ∧ t.f.regs = s.f.regs ∧ t.f.pc = s.f.pc ∧ t.f.yleft = s.f.yleft ∧ t.f.region = s.f.region) ∧
    (s.f.region.isOpen = true → (s.job.det = true → commitIsNext s) →
      (almanacFull s 1 → exec (.rcommit d a) s = .next (s.takeFault 0x13 0 0 0)) ∧
      (¬ almanacFull s 1 → ¬ StampsHold s s.f.region →
        exec (.rcommit d a) s = .next { s with f := { s.f.restart with yleft := s.f.yleft - 1 } } ∧
        s.f.restart.regs = s.f.region.snap ∧ s.f.restart.pc = s.f.region.resume) ∧
      (¬ almanacFull s 1 → StampsHold s s.f.region → almanacAstray s 5 → exec (.rcommit d a) s = .next (s.takeFault 0x13 0 0 0)) ∧
      (¬ almanacFull s 1 → StampsHold s s.f.region → ∀ (w : Word) (u : State),
        Recorded s 5 (BitVec.ofNat 64 (drawFn (commitKey s.me.seed s.me.index s.f.regseq))) w u →
        NothingSent u ∨ PlainPuts u → (∀ h ∈ s.f.region.hold, h.line < 2 ^ 33 ∧ u.poisoned (64 * h.line) = false) →
        s.f.region.hold.Pairwise (fun g h => g.line ≠ h.line) →
        let k := w.toNat % 2 ^ 32
        let r := f32 s a
        let acc := drawBelow k r
        (∀ q, ratOf r = some q → (acc = true ↔ (k : ℚ) / (2 ^ 32 : ℚ) < q)) ∧
        ∃ t m, exec (.rcommit d a) s = .next t ∧ PutsDone (ownPuts u) u.mem.home m ∧ t.f.region.isOpen = false ∧
          t.f.regs = (s.f.setSreg d (if acc then 1 else 0)).regs ∧ fld t.f.regstat 63 32 = k ∧
          fld t.f.regstat 2 0 = (if acc then 3 else 4) ∧ t.f.regstat.getLsbD 3 = r.isNan ∧ t.f.pc = s.f.pc + 4 ∧
          t.f.yleft = s.f.yleft - 1 ∧
          (acc = false → ∀ x, Mem.get t.mem.home x = Mem.get m x) ∧
          (acc = true →
            (∀ h ∈ s.f.region.hold, ∀ o, o < 64 → Mem.get t.mem.home (64 * h.line + o) =
              (heldByte h o).getD (Mem.get m (64 * h.line + o))) ∧
            (∀ x, (∀ h ∈ s.f.region.hold, x / 64 ≠ h.line) → Mem.get t.mem.home x = Mem.get m x))))

/-- R94 to R101, R315: srr of an assigned number gives the register, its reserved bits zero; an unassigned number is fault 0x01. CYCLE is the count of the core,
and it and PCORE are recorded reads in a deterministic launch: fault 0x0E in an open region, and fault 0x13 where the almanac has no room or not the
entry that is due. -/
def Obligations.SystemRegisterReads : Prop :=
  ∀ (s : State) (d : BitVec 6) (n : BitVec 12), Ready s →
    (unassigned n.toNat → exec (.srr d n) s = .next (s.takeFault 0x01 0 0 0)) ∧
    (∀ v, plainRegister s n.toNat = some v → exec (.srr d n) s = .next (retired s (s.setSreg d v))) ∧
    (n = 0 → ∃ v : Word, (∀ k, k < 64 → v.getLsbD k = statusBit s k) ∧ exec (.srr d n) s = .next (retired s (s.setSreg d v))) ∧
    (n = 0x035 → exec (.srr d n) s = .next (retired s (s.setSreg d s.f.poly.state))) ∧
    (n = 0x040 → exec (.srr d n) s = .next (retired s (s.setSreg d (s.gstatOf s.f)))) ∧
    (∀ (kind : Nat) (v : Word), (n = 0x020 ∧ kind = 1 ∧ v = s.cycle + (s.pcore s.me.pcore).skew) ∨
        (n = 0x012 ∧ kind = 2 ∧ v = BitVec.ofNat 64 (s.me.pcore % 2 ^ 12)) →
      (s.f.region.isOpen = true → s.job.det = true → exec (.srr d n) s = .next (s.takeFault 0x0E 0 0 0)) ∧
      (s.f.region.isOpen = false ∨ s.job.det = false →
        (almanacFull s 1 ∨ almanacAstray s kind → exec (.srr d n) s = .next (s.takeFault 0x13 0 0 0)) ∧
        (¬ almanacFull s 1 → ∀ w t, Recorded s kind v w t → exec (.srr d n) s = .next (retired s (t.setSreg d w)))))

/-- R94, R95: srw writes the writable registers, CAUSE, EPC and FADDR only in service mode; a read-only or privileged one is fault 0x05, an
unassigned number fault 0x01, and any but FLAGS in an open region fault 0x0E. -/
def Obligations.SystemRegisterWrites : Prop :=
  ∀ (s : State) (d : BitVec 6) (n : BitVec 12), Ready s →
    let v := s.sreg d
    (unassigned n.toNat → exec (.srw d n) s = .next (s.takeFault 0x01 0 0 0)) ∧
    (n.toNat ∈ [0x000, 0x010, 0x011, 0x012, 0x013, 0x014, 0x015, 0x016, 0x020, 0x021, 0x032, 0x033, 0x035] →
      exec (.srw d n) s = .next (s.takeFault 0x05 0 0 0)) ∧
    (n.toNat ∈ [0x001, 0x002, 0x003] → s.f.service = false → exec (.srw d n) s = .next (s.takeFault 0x05 0 0 0)) ∧
    (s.f.region.isOpen = true → n.toNat ∈ [0x005, 0x030, 0x031, 0x034, 0x040] →
      exec (.srw d n) s = .next (s.takeFault 0x0E 0 0 0)) ∧
    (n = 0x004 → exec (.srw d n) s = .next (retired s { s with f := { s.f with flags := v.truncate 5 } })) ∧
    (s.f.region.isOpen = false →
      (n = 0x005 → exec (.srw d n) s =
        .next (retired s (if v.toNat % 8 < 6 then { s with f := { s.f with round := v.truncate 3 } } else s))) ∧
      (n = 0x030 → exec (.srw d n) s = .next (retired s (s.modLc s.myLc fun c => { c with seed := v }))) ∧
      (n = 0x031 → exec (.srw d n) s = .next (retired s { s with f := { s.f with drawc := v } })) ∧
      (n = 0x034 → ∃ m : BitVec 33, (∀ k, k < 33 → m.getLsbD k = (v.getLsbD k && decide (k ≠ 31))) ∧
        exec (.srw d n) s = .next (retired s (s.modLc s.myLc fun c => { c with amax := m }))) ∧
      (n = 0x040 → ∃ m : BitVec 24, (∀ k, k < 24 → m.getLsbD k = (v.getLsbD k && (decide (1 ≤ k ∧ k ≤ 7) || decide (16 ≤ k)))) ∧
        exec (.srw d n) s = .next (retired s { s with f := { s.f with gstat := m } })) ∧
      (s.f.service = true →
        (n = 0x001 → ∃ m : BitVec 20, (∀ k, k < 20 → m.getLsbD k = (v.getLsbD k && decide (k ≠ 6 ∧ k ≠ 7))) ∧
          exec (.srw d n) s = .next (retired s { s with f := { s.f with cause := m } })) ∧
        (n = 0x002 → exec (.srw d n) s = .next (retired s { s with f := { s.f with epc := v.truncate 48 } })) ∧
        (n = 0x003 → exec (.srw d n) s = .next (retired s { s with f := { s.f with faddr := v } }))))

/-- R341: with a service set, trap and bkpt outside service mode write the context to its trap record and start the service firing, which finds the
record's address in s1 and the argument in s2; without one they end the launch with their code. -/
def Obligations.TrapEntry : Prop :=
  ∀ (s : State) (n : BitVec 12), Ready s → s.f.region.isOpen = false →
    ∀ (i : Instr) (code : Code) (m : BitVec 12), (i, code, m) ∈ [(Instr.trap n, (0x15 : Code), n), (.bkpt, 0x14, 0)] →
    let c := s.context s.ctxId
    ((s.f.service = true ∨ c.service = 0) → exec i s = .next (s.takeFault code m 0 0)) ∧
    (s.f.service = false → c.service ≠ 0 → ∀ u,
      let t : State := { s with f := (s.f.noteFault code m 0).retireTo (s.f.pc + 4) }
      let va := (c.trapArea.toNat + 20480 * (2 * s.me.index + s.f.key % 2)) % 2 ^ 64
      t.releaseDevice.depositBytes t.asker va (t.record t.f t.f.pc) = .ok u → u.settle.f.st ≠ .free →
      ∃ x, exec i s = .next x ∧ x.f.pc = (u.settle.context u.settle.ctxId).service ∧ x.f.service = true ∧ x.f.st = .running ∧
        fld (x.f.cause.zeroExtend 64) 5 0 = code.toNat ∧ fld (x.f.cause.zeroExtend 64) 19 8 = m.toNat ∧
        x.f.epc = s.f.pc.truncate 48 ∧ x.f.faddr = 0 ∧ x.sreg 1 = BitVec.ofNat 64 va ∧
        x.sreg 2 = (u.settle.context u.settle.ctxId).svcArg ∧ x.mem = u.mem)

/-- R341: outside service mode eret and halt are fault 0x05; in it eret takes the context from its trap record and goes on at EPC + 4 with an empty L1, and halt stops
the core; waiti consumes the wake bit, or waits and gives up its slot. -/
def Obligations.TrapReturnHaltWait : Prop :=
  ∀ (s : State), Ready s →
    (s.f.service = false → exec .eret s = .next (s.takeFault 0x05 0 0 0) ∧ exec .halt s = .next (s.takeFault 0x05 0 0 0)) ∧
    (s.f.region.isOpen = false →
      (s.f.service = true →
        (∃ t, exec .halt s = .next t ∧ NoReg s t 4 ∧ (t.pcore s.me.pcore).halted = true ∧ t.mem = s.mem) ∧
        (∀ b t, s.fetchBytes s.asker (((s.context s.ctxId).trapArea.toNat + 20480 * (2 * s.me.index + s.f.key % 2)) % 2 ^ 64) 20480 =
            .ok (b, t) →
          ∃ x, exec .eret s = .next x ∧ x.f.pc = t.f.epc.zeroExtend 64 + 4 ∧ x.f.service = false ∧
            x.f.regs = (t.f.ofRecord b).regs ∧ x.f.vregs = (t.f.ofRecord b).vregs ∧ x.f.kregs = (t.f.ofRecord b).kregs ∧
            x.f.guards = (t.f.ofRecord b).guards ∧ x.f.poly = (t.f.ofRecord b).poly ∧ x.f.flags = (t.f.ofRecord b).flags ∧
            x.f.round = (t.f.ofRecord b).round ∧ x.f.drawc = (t.f.ofRecord b).drawc ∧ x.f.yleft = (t.f.ofRecord b).yleft ∧
            (x.pcore t.me.pcore).l1 = [] ∧ x.mem = t.mem)) ∧
      (s.me.wake = true → exec .waiti s = .next (retired s (s.modLc s.myLc fun c => { c with wake := false }))) ∧
      (s.me.wake = false → ∃ t, exec .waiti s = .next t ∧ t.f.st = .waiting ∧ t.f.slot = none ∧ t.f.pc = s.f.pc ∧
        t.f.regs = s.f.regs ∧ t.mem = s.mem))

/-- R340, R341: a save record restored to any firing gives it every register, flag, guard and the polynomial accumulator of the context that the
record was made from, and the rest of that firing stands. -/
def Obligations.SaveRecordRoundTrip : Prop :=
  ∀ (s : State) (g h : Firing) (pc : Word), g.regs[0] = 0 → g.kregs[0] = BitVec.allOnes 512 → g.guards[0] = .isTrue →
    g.cause &&& 0xFFF3F = g.cause → g.round.toNat < 6 → g.gstat &&& 0xFF00FE = g.gstat → g.regstat &&& 0xFFF0 = 0 → g.poly.canon = g.poly →
    (s.record g pc).length = 20480 ∧
    h.ofRecord (s.record g pc) =
      { h with regs := g.regs, vregs := g.vregs, kregs := g.kregs, guards := g.guards, poly := g.poly, flags := g.flags, round := g.round,
               yleft := g.yleft, pc := pc, cause := g.cause, epc := g.epc, faddr := g.faddr, drawc := g.drawc, regseq := g.regseq,
               regstat := g.regstat, gstat := g.gstat, prio := g.prio, pinned := g.pinned, service := g.service }

end

namespace Sys2Proof.Claims

open Sys2Proof Sys2Proof.Machine

/-! ## Firings, tiles, counters, teams, messages -/

/-- No trigger is armed and no actor is declared, so that no firing becomes live by itself. -/
def Quiet (s : State) : Prop := ∀ e ∈ s.lcores, e.2.trigs = [] ∧ e.2.actors = []

/-- The issuing firing of `t` waits for `w` without a slot, its registers and pc as in `s`, and no byte has changed at home (R26). -/
structure Waits (s t : State) (w : Wait) : Prop where
  st    : t.f.st = .waiting
  slot  : t.f.slot = none
  wait  : t.f.wait = w
  pc    : t.f.pc = s.f.pc
  yleft : t.f.yleft = s.f.yleft
  regs  : t.f.regs = s.f.regs
  vregs : t.f.vregs = s.f.vregs
  kregs : t.f.kregs = s.f.kregs
  flags : t.f.flags = s.f.flags
  home  : t.mem.home = s.mem.home

/-- A pip that R258 accepts, its join bit apart. -/
structure LegalPip (p : Pip) (ncore : Nat) : Prop where
  zero   : fld p.w0 59 48 = 0
  target : p.w0.getLsbD 61 = false → fld p.w3 63 48 = 0
  even   : p.w0.getLsbD 0 = false
  here   : p.w0.getLsbD 61 = true → fld p.w3 63 48 < ncore
  cell   : p.w0.getLsbD 60 = false → fld p.w3 47 0 = 0

/-- `o` is the pip of the issuing firing as an item: bound for the named core if it is pinned, for the issuing one in a deterministic launch, or
else for the cluster (R44, R257). -/
def isItem (s : State) (p : Pip) (o : Out) : Prop :=
  ∃ q : QPip, q.pip = p ∧ q.prio = fld p.w0 63 62 ∧ q.launch = s.myLaunch ∧
    o = .pip q
      (if p.w0.getLsbD 61 then some (s.myLaunch * 65536 + fld p.w3 63 48) else if s.job.det then some s.myLc else none)
      (if p.w0.getLsbD 61 || s.job.det then 0 else s.me.pcore / 256)

/-- The pip has entered the outbound buffer of the issuing logical core. -/
def InOutbound (s t : State) (p : Pip) : Prop :=
  ∃ o, isItem s p o ∧ (t.lc s.myLc).outbound = s.me.outbound ++ [{ num := s.me.outNext, what := o, full := false, decided := false }]

/-- A pip of the issuing firing has entered its outbound buffer and counts as live (R257, R258). -/
def Placed (s t : State) (p : Pip) : Prop := InOutbound s t p ∧ t.job.live = s.job.live + 1

/-- A firing may retire by done, its source and its join cell apart. -/
structure MayEnd (s : State) : Prop where
  running : s.f.st = .running
  closed  : s.f.region.isOpen = false
  sent    : NothingSent s
  service : s.f.service = false
  guards  : ∀ g ∈ s.f.guards.toList, g ≠ .unresolved

/-- The pip of a join cell (R296). -/
def cellPipAt (s : State) (pa : Nat) : Pip :=
  let w := fun i => BitVec.ofNat 64 (leNat (Mem.read s.mem.home (pa + i) 8))
  { w0 := w 32, w1 := w 40, w2 := w 48, w3 := w 56 }

/-- One piece that is memory at its home: HBM, or a word of a counters page; not poisoned, and no put and no channel entry of the firing is on its way. -/
def CounterSpot (s : State) (p : Spot) : Prop := p.n = 8 ∧ s.poisoned p.pa = false ∧ NothingSent s ∧
  ((p.win = none ∧ p.attr.host = false ∧ isHbm p.pa = true) ∨ p.win = some 5)

/-- A counter has come to hold `v` (R26, R299, R300): a firing that waits on it becomes runnable if the count has reached its target, with the word, or
with a report that it does not expect, and waits on if it has not; an armed trigger that it has reached is gone, its pip is in the fired-pip queue,
and the wake bit of its logical core is set. -/
def Answered (s t : State) (pa : Nat) (v : Word) : Prop :=
  (s.firings.Pairwise (fun x y => x.1 < y.1) → ∀ k va target dst, (s.firing k).st = .waiting →
    (s.firing k).wait = .counter pa va target dst →
    (target.toNat % 2 ^ 63 ≤ v.toNat % 2 ^ 63 → (t.firing k).st = .runnable ∧
      (t.firing k).wait = if v.getLsbD 63 = true ∧ target.getLsbD 63 = false then .metPoison va else .met v dst) ∧
    (v.toNat % 2 ^ 63 < target.toNat % 2 ^ 63 → (t.firing k).st = .waiting)) ∧
  (∀ lk, ∀ x ∈ (s.lc lk).trigs, x.pa = pa → x.threshold.toNat % 2 ^ 63 ≤ v.toNat % 2 ^ 63 →
    x ∉ (t.lc lk).trigs ∧ (∃ y ∈ (t.lc lk).fired, y.pip = x.pip ∧ y.source = .trigger) ∧ (t.lc lk).wake = true)

/-- A message that the issuing firing has made (R264). -/
structure IsMessage (s : State) (m : Msg) (w : Word) (data : List Byte) (status : Option (Nat × Bool)) : Prop where
  launch : m.launch = s.myLaunch
  target : m.target = fld w 31 16
  tag    : m.tag.toNat = fld w 15 8
  dev    : m.dev = s.pkg.device
  sender : m.sender = BitVec.ofNat 16 s.me.index
  ticket : m.ticket = s.me.ticket
  epoch  : m.epoch = if s.job.det then s.me.epoch else 0
  first  : m.first = s.me.epochTicket
  data   : m.data = data
  status : m.status = status

/-- A message whose ticket comes before `n`, an item that holds one, and a firing that has issued one and waits for room for it (R257, R264). -/
def Earlier (n : BitVec 32) (m : Msg) : Prop := m.ticket ≠ n ∧ (n - m.ticket).toNat < 2 ^ 31
def HoldsEarlier (n : BitVec 32) : Out → Prop
  | .msg m | .far m _ => Earlier n m
  | .pip _ _ _ => False
def HasIssuedEarlier (n : BitVec 32) (g : Firing) : Prop :=
  g.st ≠ .free ∧ ∃ o, (g.wait = .item o ∨ g.wait = .metItem o) ∧ HoldsEarlier n o

/-- Every message that the issuing logical core sent before now has left: those in its outbound buffer, and those for which its other firing waits
(R270). -/
def SendsAccepted (s : State) : Prop :=
  (∀ o ∈ s.me.outbound, ¬ HoldsEarlier s.me.ticket o.what) ∧
  ¬ HasIssuedEarlier s.me.ticket (s.firing (2 * s.myLc + (1 - s.f.key % 2)))

/-- The number of the tile that a command fills, as the copy commands name it. -/
def tileEntry (t : State) (s : State) (a : BitVec 6) : Tile := (t.lc s.myLc).tile a.toNat

/-- The post of a step that a context has made under its set word and that is still to be decided (R348). -/
def postOf (x : Context) (step : Word) : Option Post := x.posts.find? fun p => p.set == x.repSet && p.step == step && !p.decided

/-- The members of a team whose arrival is awaited. -/
def awaitedOf (t : Team) : Nat := (t.members.filter fun m => m.awaited).length

end Sys2Proof.Claims

section

open Sys2Proof Sys2Proof.Machine Sys2Proof.Claims

/-- R21, R257 to R260, R262, R267, R297: spawn and spawnj place a legal pip in the outbound buffer and count it live, spawnj after an increment of the join
cell; the join bit must be as the instruction wants it, and without it the cell zero, else fault 0x02. done frees the context and lowers the live
count; before, it decrements the join cell, whose pip goes out when that leaves zero, frees the mailbox entry of a handler, or has an actor consume its
inputs and tell their producers; yield gives up the slot, sets YLEFT to the bound and queues the firing behind the pinned pips. (The model's readings,
log 16: a join's pip waits beside a full outbound buffer, DEDUCED, and a cell is decremented whatever its reserved bytes hold, DESIGN CHOICE.) -/
def Obligations.TaskInstructions : Prop :=
  (∀ (s : State) (a b c : BitVec 6), Ready s → s.f.region.isOpen = false → s.f.wait = .none → s.me.outbound.length < 8 →
    NothingSent s → Quiet s →
    let p : Pip := { w0 := s.sreg a, w1 := s.sreg b, w2 := s.sreg c, w3 := s.sreg (c + 1) }
    (p.w0.getLsbD 60 = false → fld p.w3 47 0 ≠ 0 → exec (.spawn a b c) s = .next (s.takeFault 0x02 0 0 0)) ∧
    (LegalPip p s.job.ncore →
    (p.w0.getLsbD 60 = true → exec (.spawn a b c) s = .next (s.takeFault 0x02 0 0 0)) ∧
    (p.w0.getLsbD 60 = false → exec (.spawnj a b c) s = .next (s.takeFault 0x02 0 0 0)) ∧
    (p.w0.getLsbD 60 = false → ∃ t, exec (.spawn a b c) s = .next t ∧ NoReg s t 4 ∧ t.mem = s.mem ∧ Placed s t p) ∧
    (∀ pa u, p.w0.getLsbD 60 = true → s.locateCell (fld p.w3 47 0) = .ok (pa, u) → isHbm pa = true → pa % 64 = 0 →
      ∃ t, exec (.spawnj a b c) s = .next t ∧ NoReg s t 4 ∧ Placed s t p ∧
        Stored s.mem.home t.mem.home pa (leBytes 8 (leNat (Mem.read s.mem.home pa 8) + 1))))) ∧
  (∀ (s : State), MayEnd s → Quiet s → s.f.source ∈ [Source.pinned, .entry, .trigger, .free] →
    (s.f.pip.w0.getLsbD 60 = false →
      ∃ t, exec .done s = .next t ∧ t.f.st = .free ∧ t.f.slot = none ∧ t.job.live = s.job.live - 1 ∧ t.mem = s.mem) ∧
    (∀ pa u, s.f.pip.w0.getLsbD 60 = true → s.locateCell (fld s.f.pip.w3 47 0) = .ok (pa, u) → isHbm pa = true → pa % 64 = 0 →
      let count := BitVec.ofNat 64 (leNat (Mem.read s.mem.home pa 8))
      let q := cellPipAt s pa
      (count = 1 → q.faulty s.job.ncore = true → exec .done s = .next (s.takeFault 0x02 0 0 0)) ∧
      ((count = 1 → q.faulty s.job.ncore = false) →
        ∃ t, exec .done s = .next t ∧ t.f.st = .free ∧ t.f.slot = none ∧
          Stored s.mem.home t.mem.home pa (leBytes 8 (count - 1).toNat) ∧
          (count ≠ 1 → t.job.live = s.job.live - 1 ∧ (t.lc s.myLc).outbound = s.me.outbound) ∧
          (count = 1 → t.job.live = s.job.live ∧ (s.me.joins = [] → s.me.outbound.length < 8 → InOutbound s t q) ∧
            (8 ≤ s.me.outbound.length → ∃ o, isItem s q o ∧ (t.lc s.myLc).joins = s.me.joins ++ [o]))))) ∧
  (∀ (s : State) (n : Nat), MayEnd s → Quiet s → s.f.source = .message n → s.f.pip.w0.getLsbD 60 = false → s.me.park = [] → s.me.heldMsgs = [] →
    ∃ t, exec .done s = .next t ∧ t.f.st = .free ∧ t.f.slot = none ∧ t.job.live = s.job.live - 1 ∧ t.mem = s.mem ∧
      Tbl.find (t.lc s.myLc).mbox n = none ∧ ∀ k, k ≠ n → Tbl.find (t.lc s.myLc).mbox k = Tbl.find s.me.mbox k) ∧
  (∀ (s : State) (n : Nat) (a : Actor), MayEnd s → s.f.source = .actor n → s.f.pip.w0.getLsbD 60 = false → Tbl.find s.me.actors n = some a →
    (a.specs.map fun x => x.2.1).Nodup →
    ∃ t, exec .done s = .next t ∧ t.f.st = .free ∧ t.f.slot = none ∧ t.mem = s.mem ∧
      (∃ b, Tbl.find (t.lc s.myLc).actors n = some b ∧ b.alive = false) ∧
      (∀ x ∈ a.specs, ∀ e, Tbl.find s.me.ends x.2.1 = some e →
        Tbl.find (t.lc s.myLc).ends x.2.1 = some (if x.1 then e else { e with freed := e.freed + x.2.2 })) ∧
      t.net.spaces = s.net.spaces ++ a.specs.filterMap fun x =>
        if x.1 then none else (Tbl.find s.me.ends x.2.1).map fun e => (s.myLaunch * 65536 + e.peer, e.peerEnd, e.freed + x.2.2)) ∧
  (∀ (s : State) (a : BitVec 6), s.f.st = .running → s.f.region.isOpen = false →
    let n := (s.sreg a).toNat
    ∃ t, exec (.yield a) s = .next t ∧ t.f.st = .yielded ∧ t.f.slot = none ∧ t.f.pc = s.f.pc + 4 ∧
      t.f.yleft = (if n = 0 then s.job.bound else BitVec.ofNat 21 (Nat.min n 1048576)) ∧
      (∃ q : QPip, q.source = .yielded (s.f.key % 2) ∧ q.prio = s.f.prio.toNat ∧
        (t.lc s.myLc).pinned = s.me.pinned ++ [q]) ∧
      t.f.regs = s.f.regs ∧ t.f.vregs = s.f.vregs ∧ t.f.kregs = s.f.kregs ∧ t.f.flags = s.f.flags ∧ t.f.poly = s.f.poly ∧ t.mem = s.mem)

/-- R274 to R281: tset and tclr go on where the entry is undefined, empty, or ready with use count 0, and wait otherwise. That an empty one lets them go on
whatever its use count is deduced from the row of R276 for that state, against R231, which has them wait for use count 0 (log 15, DEDUCED). tset makes an empty
scratchpad or slot entry that keeps its phase and use count; tmark counts bytes in and
makes the tile ready at the expected count, where the phase flips; twait goes on at a ready tile of the phase it asks for, faults on a poisoned
one, or waits; tstat reads the entry and tclr makes it undefined, phase and use count kept. -/
def Obligations.TileInstructions : Prop :=
  ∀ (s : State) (a b c : BitVec 6), Ready s → s.f.region.isOpen = false → s.f.wait = .none → NothingSent s →
    let x := s.me.tile a.toNat
    let w := s.sreg b
    let n := fld (s.sreg c) 23 0
    let free := x.kind = 0 ∨ x.state = 0 ∨ (x.state = 2 ∧ x.uses = 0)
    (fld (s.sreg c) 63 24 = 0 → fld w 63 56 = 0 → fld w 38 38 = 0 → fld w 55 54 = 1 → x.kind ≠ 2 → fld w 17 0 % 64 = 0 →
      fld w 37 18 ≠ 0 → fld w 53 49 ≤ 15 → fld w 47 39 = 0 → w.getLsbD 48 = false → fld w 17 0 + fld w 37 18 ≤ s.me.shareSize →
      n ≤ fld w 37 18 →
      (free → ∃ t, exec (.tset a b c) s = .next t ∧ NoReg s t 4 ∧ t.mem = s.mem ∧ tileEntry t s a =
        { kind := 1, state := if n = 0 then 2 else 0, phase := if n = 0 then !x.phase else x.phase, poison := false, discard := false,
          scaled := false, fmt := fld w 53 49, arrived := 0, expected := n, base := fld w 17 0, size := fld w 37 18, k := 0,
          uses := x.uses }) ∧
      (¬ free → ∃ t, exec (.tset a b c) s = .next t ∧ Waits s t (.need (.tileFree a.toNat)))) ∧
    (fld (s.sreg c) 63 24 = 0 → fld w 63 56 = 0 → fld w 38 38 = 0 → fld w 55 54 = 2 → x.kind = 2 → fld w 17 0 = 0 →
      fld w 37 18 = 0 → slotAllows (fld w 53 49) (fld w 47 39) (w.getLsbD 48) = true → n ≤ 8704 → free →
      ∃ t, exec (.tset a b c) s = .next t ∧ NoReg s t 4 ∧ t.mem = s.mem ∧ tileEntry t s a =
        { kind := 2, state := if n = 0 then 2 else 0, phase := if n = 0 then !x.phase else x.phase, poison := false, discard := false,
          scaled := w.getLsbD 48, fmt := fld w 53 49, arrived := 0, expected := n, base := x.base, size := 8704, k := fld w 47 39,
          uses := x.uses }) ∧
    (fld w 63 24 = 0 → x.kind ≠ 0 → x.kind ≠ 2 →
      (fld w 23 0 = 0 → ∃ t, exec (.tmark a b) s = .next t ∧ NoReg s t 4 ∧ t.mem = s.mem ∧ tileEntry t s a = x) ∧
      (fld w 23 0 ≠ 0 → x.state = 0 ∨ x.state = 1 →
        let m := x.arrived + fld w 23 0
        (x.expected < m → exec (.tmark a b) s = .next (s.takeFault 0x0C 0 0 0)) ∧
        (m ≤ x.expected → ∃ t, exec (.tmark a b) s = .next t ∧ NoReg s t 4 ∧ t.mem = s.mem ∧ tileEntry t s a =
          (if m = x.expected then { x with state := 2, phase := !x.phase, arrived := m } else { x with state := 1, arrived := m })))) ∧
    (fld w 63 2 = 0 → x.kind ≠ 0 →
      let asked := x.state = 2 ∧ (w.getLsbD 1 = false ∨ w.getLsbD 0 = x.phase)
      (asked → x.poison = false → exec (.twait a b) s = .next (retired s (s.emptyL1 s.me.pcore))) ∧
      (asked → x.poison = true → exec (.twait a b) s = .next (s.takeFault 0x0A 0 0 0)) ∧
      (¬ asked → ∃ t, exec (.twait a b) s = .next t ∧
        Waits s t (.tile a.toNat (if w.getLsbD 1 then some (w.getLsbD 0) else none)))) ∧
    (x.kind < 4 → x.state < 4 → x.fmt < 32 → x.arrived < 2 ^ 24 → x.expected < 2 ^ 24 →
      ∃ v : Word, exec (.tstat a b) s = .next (retired s (s.setSreg b v)) ∧
        (x.kind = 0 → v = 0) ∧
        (x.kind ≠ 0 → fld v 2 0 = 0 ∧ fld v 4 3 = x.kind ∧ fld v 6 5 = x.state ∧ v.getLsbD 7 = x.phase ∧ v.getLsbD 8 = x.poison ∧
          v.getLsbD 9 = x.discard ∧ v.getLsbD 10 = x.scaled ∧ fld v 15 11 = x.fmt ∧ fld v 39 16 = x.arrived ∧
          fld v 63 40 = x.expected)) ∧
    (x.kind = 2 → exec (.tclr a) s = .next (s.takeFault 0x0D 0 0 0)) ∧
    (x.kind = 0 → exec (.tclr a) s = .next (retired s s)) ∧
    (x.kind ≠ 2 → x.kind ≠ 0 → free → ∃ t, exec (.tclr a) s = .next t ∧ NoReg s t 4 ∧ t.mem = s.mem ∧
      tileEntry t s a = { Tile.undefined with phase := x.phase, uses := x.uses }) ∧
    (x.kind ≠ 2 → ¬ free → ∃ t, exec (.tclr a) s = .next t ∧ Waits s t (.need (.tileFree a.toNat)))

/-- R26, R298 to R303: cwait goes on when the count has reached its target, gives the word, and faults on a report that it does not expect, or waits;
ctrig binds a trigger, which fires at once at a count already reached, or decrements a join cell; evset, evclr and evwait set, clear and test bits
of the event vector of the context. A store to a counter ends the waits and fires the triggers that its word reaches. (That a join cell is looked at
no further than its count and its pip is the model's choice, log 16.) -/
def Obligations.CounterAndEventInstructions : Prop :=
  ∀ (s : State) (a b c : BitVec 6), Ready s → s.f.region.isOpen = false → s.f.wait = .none → NothingSent s →
    ((s.sreg a).toNat % 8 ≠ 0 → exec (.cwait a b c) s = .next (s.takeFault 0x07 0 (s.sreg a) 1)) ∧
    (∀ p u, s.locateCounter (s.sreg a) = .ok ([p], u) → CounterSpot s p →
      let v := wordAt s p.pa
      let met := (s.sreg b).toNat % 2 ^ 63 ≤ v.toNat % 2 ^ 63
      let report := v.getLsbD 63 = true ∧ (s.sreg b).getLsbD 63 = false
      (met → report → exec (.cwait a b c) s = .next (s.takeFault 0x0A 0 (s.sreg a) 1)) ∧
      (met → ¬ report → ∃ t, exec (.cwait a b c) s = .next t ∧ OnlyReg s t 4 c v ∧ t.mem.home = s.mem.home ∧
        (t.pcore s.me.pcore).l1 = []) ∧
      (¬ met → ∃ t, exec (.cwait a b c) s = .next t ∧ Waits s t (.counter p.pa (s.sreg a) (s.sreg b) c)) ∧
      (∀ bs x, b ≠ 0 → c ≠ 0 → Quiet s → (s.sreg b).getLsbD 63 = false → (s.sreg c).toNat % 32 = 0 → s.me.trigs.length < 16 →
        u.readPieces (pieces (s.sreg c).toNat 32) true = .ok bs x → bs.length = 32 →
        let q : Pip := { w0 := recWord bs 0, w1 := recWord bs 8, w2 := recWord bs 16, w3 := recWord bs 24 }
        fld q.w0 61 48 = 0 → q.w3 = 0 → q.w0.getLsbD 0 = false →
        ∃ t, exec (.ctrig a b c) s = .next t ∧ NoReg s t 4 ∧ t.mem.home = s.mem.home ∧
          (met → (t.lc s.myLc).trigs = [] ∧ t.job.live = s.job.live + 1 ∧
            ∃ y : QPip, y.pip = q ∧ y.source = .trigger ∧ (t.lc s.myLc).fired = s.me.fired ++ [y]) ∧
          (¬ met → (t.lc s.myLc).trigs = [{ pa := p.pa, threshold := s.sreg b, pip := q }] ∧
            (t.lc s.myLc).fired = s.me.fired))) ∧
    (b = 0 → c ≠ 0 → exec (.ctrig a b c) s = .next (s.takeFault 0x02 0 0 0)) ∧
    (b ≠ 0 → c = 0 → exec (.ctrig a b c) s = .next (s.takeFault 0x02 0 0 0)) ∧
    (∀ pa u, b = 0 → c = 0 → Quiet s → s.locateCell (s.sreg a).toNat = .ok (pa, u) → isHbm pa = true → pa % 64 = 0 →
      let q := cellPipAt s pa
      (wordAt s pa = 1 → q.faulty s.job.ncore = true → exec (.ctrig a b c) s = .next (s.takeFault 0x02 0 0 0)) ∧
      ((wordAt s pa = 1 → q.faulty s.job.ncore = false) →
        ∃ t, exec (.ctrig a b c) s = .next t ∧ NoReg s t 4 ∧
          Stored s.mem.home t.mem.home pa (leBytes 8 (wordAt s pa - 1).toNat) ∧
          (wordAt s pa = 1 → Placed s t q) ∧ (wordAt s pa ≠ 1 → (t.lc s.myLc).outbound = s.me.outbound))) ∧
    (let i := (s.sreg a).toNat
     let e := s.context s.ctxId
     (3 < i → ∀ k ∈ [Instr.evset a b, .evclr a b, .evwait a b], exec k s = .next (s.takeFault 0x02 0 0 0)) ∧
     (i ≤ 3 →
       (∃ t, exec (.evset a b) s = .next t ∧ NoReg s t 4 ∧ t.mem.home = s.mem.home ∧ ∀ k, k < 256 →
         (t.context s.ctxId).events.getLsbD k =
           (e.events.getLsbD k || (decide (64 * i ≤ k) && decide (k < 64 * i + 64) && (s.sreg b).getLsbD (k - 64 * i)))) ∧
       (∃ t, exec (.evclr a b) s = .next t ∧ NoReg s t 4 ∧ t.mem = s.mem ∧ ∀ k, k < 256 →
         (t.context s.ctxId).events.getLsbD k =
           (e.events.getLsbD k && !(decide (64 * i ≤ k) && decide (k < 64 * i + 64) && (s.sreg b).getLsbD (k - 64 * i)))) ∧
       let all := ∀ k, k < 64 → (s.sreg b).getLsbD k = true → e.events.getLsbD (64 * i + k) = true
       (all → exec (.evwait a b) s = .next (retired s (s.emptyL1 s.me.pcore))) ∧
       (¬ all → ∃ t, exec (.evwait a b) s = .next t ∧ Waits s t (.event i (s.sreg b))))) ∧
    (∀ (o : BitVec 10) p ts, (ea s b (8 * o.toInt)).toNat % 8 = 0 →
      s.locate s.asker .store (pieces (ea s b (8 * o.toInt)).toNat 8) = .ok ([p], ts) → CounterSpot s p →
      ∃ t, exec (.st a b o) s = .next t ∧ Answered s t p.pa (s.sreg a))

/-- R305, R306, R311, R315: in a deterministic launch the start and size that rnext takes and the outcome of launch are recorded reads. A replay run takes its
chunk from the almanac and leaves the range unit; an outcome of 1 there moves the queue's tail, which must have room. -/
def RecordedInstructions : Prop :=
  ∀ (s : State) (a b : BitVec 6), Ready s → s.f.region.isOpen = false → s.job.det = true →
    (let n := (s.sreg b).toNat
     let u := (s.context s.ctxId).unit n
     let size := Min.min u.remain (Max.max u.chunk ((u.remain + u.divisor - 1) / u.divisor))
     a ≠ 0 → n ≤ 63 →
     (almanacFull s 2 → exec (.rnext a b) s = .next (s.takeFault 0x13 0 0 0)) ∧
     (¬ almanacFull s 2 → ∀ v w t x, Recorded s 3 (BitVec.ofNat 64 u.next) v t → Recorded t 4 (BitVec.ofNat 64 size) w x →
       ∃ y : State, exec (.rnext a b) s = .next (retired s ((y.setSreg a v).setSreg (a + 1) w)) ∧ y.f = x.f ∧ y.mem = x.mem ∧
         (s.job.replay = true → y = x) ∧
         (s.job.replay = false →
           (y.context x.ctxId).unit n = { u with next := (u.next + size) % 2 ^ 40, remain := u.remain - size }))) ∧
    (let n := (s.sreg b).toNat
     let q := (s.context s.ctxId).queue n
     let fits := ((q.tail + 1) - q.head).toNat ≤ 2 ^ q.size
     n ≤ 15 → NothingSent s →
     (almanacFull s 1 ∨ almanacAstray s 6 → exec (.launch a b) s = .next (s.takeFault 0x13 0 0 0)) ∧
     (¬ almanacFull s 1 → ∀ w t, Recorded s 6 (if fits then 1 else 0) w t →
       (s.job.replay = true → w = 1 → ¬ fits → exec (.launch a b) s = .next (s.takeFault 0x13 0 0 0)) ∧
       ((s.job.replay = true → w = 1 → fits) →
         ∃ x, exec (.launch a b) s = .next x ∧ x.f.pc = s.f.pc + 4 ∧ x.f.regs = (s.f.setSreg a w).regs ∧ x.mem.home = t.mem.home ∧
           ((x.context s.ctxId).queue n).tail = if (if s.job.replay then w = 1 else fits) then q.tail + 1 else q.tail)))

/-- R304 to R312, R315, R348: rinit sets a range unit and rnext takes the next chunk from it; tjoin and tleave change the members of a team; tbar waits until the
last awaited member arrives, which completes the generation and goes on; launch moves a queue's tail or sets overrun; digest folds the bytes of a
range into a word, and with a step posts it: under a set in force the post holds the launch unit until its step is decided, and the posts of other steps stand
(that it takes the place of an undecided post of its own step is the model's choice, log 17). In a deterministic launch what rnext and launch give is recorded. -/
def Obligations.RangeTeamAndLaunchInstructions : Prop :=
  RecordedInstructions ∧
  ∀ (s : State) (a b c : BitVec 6), Ready s → s.f.region.isOpen = false → s.f.wait = .none → NothingSent s → s.job.det = false →
    ((s.sreg a).toNat ≤ 63 → fld (s.sreg b) 63 40 = 0 → fld (s.sreg c) 63 48 = 0 → fld (s.sreg c) 31 0 ≠ 0 → fld (s.sreg c) 47 32 ≠ 0 →
      ∃ t, exec (.rinit a b c) s = .next t ∧ NoReg s t 4 ∧ t.mem = s.mem ∧
        (t.context s.ctxId).unit (s.sreg a).toNat =
          { next := 0, remain := (s.sreg b).toNat, chunk := fld (s.sreg c) 31 0, divisor := fld (s.sreg c) 47 32 }) ∧
    (let n := (s.sreg b).toNat
     let u := (s.context s.ctxId).unit n
     let size := Min.min u.remain (Max.max u.chunk ((u.remain + u.divisor - 1) / u.divisor))
     a ≠ 0 → n ≤ 63 →
     ∃ t : State, exec (.rnext a b) s =
         .next (retired s ((t.setSreg a (BitVec.ofNat 64 u.next)).setSreg (a + 1) (BitVec.ofNat 64 size))) ∧
       t.f = s.f ∧ t.mem = s.mem ∧
       (t.context s.ctxId).unit n = { u with next := (u.next + size) % 2 ^ 40, remain := u.remain - size }) ∧
    (let n := (s.sreg a).toNat
     let tm := (s.context s.ctxId).team n
     let w := s.sreg b
     let after := fun (t : State) => (t.context s.ctxId).team n
     n ≤ 255 →
     ((∀ m ∈ tm.members, m.lc ≠ s.myLc) → exec (.tleave a) s = .next (s.takeFault 0x12 0 0 0) ∧
       exec (.tbar a) s = .next (s.takeFault 0x12 0 0 0)) ∧
     ((∀ m ∈ tm.members, m.lc ≠ s.myLc) → (tm.members = [] ∨ tm.grid = none) → w = 0 →
       ∃ t, exec (.tjoin a b) s = .next t ∧ NoReg s t 4 ∧ t.mem = s.mem ∧ (after t).members =
         tm.members ++ [{ lc := s.myLc, x := 0, y := 0, awaited := decide (tm.arrived = 0), arrived := false }]) ∧
     (w ≠ 0 → (∀ m ∈ tm.members, m.lc ≠ s.myLc ∧ ¬ (m.x = fld w 15 0 ∧ m.y = fld w 31 16)) →
       (tm.members = [] ∨ tm.grid = some (fld w 46 32, fld w 62 48, w.getLsbD 47, w.getLsbD 63)) →
       fld w 15 0 < fld w 46 32 → fld w 31 16 < fld w 62 48 →
       ∃ t, exec (.tjoin a b) s = .next t ∧ NoReg s t 4 ∧ t.mem = s.mem ∧ (after t).members =
         tm.members ++
           [{ lc := s.myLc, x := fld w 15 0, y := fld w 31 16, awaited := decide (tm.arrived = 0), arrived := false }]) ∧
     ((∃ m ∈ tm.members, m.lc = s.myLc) → exec (.tjoin a b) s = .next (s.takeFault 0x12 0 0 0) ∧
       ∃ t, exec (.tleave a) s = .next t ∧ NoReg s t 4 ∧ t.mem = s.mem ∧ ∀ m ∈ (after t).members, m.lc ≠ s.myLc) ∧
     (∀ m, tm.members.find? (fun k => k.lc = s.myLc) = some m → tm.span = false →
       (m.arrived = true → exec (.tbar a) s = .next (s.takeFault 0x12 0 0 0)) ∧
       (m.arrived = false → m.awaited = false → ∃ t, exec (.tbar a) s = .next t ∧ Waits s t (.barrier n tm.gen.toNat) ∧
         after t = tm) ∧
       (m.arrived = false → m.awaited = true → tm.arrived + 1 ≠ awaitedOf tm →
         ∃ t, exec (.tbar a) s = .next t ∧ Waits s t (.barrier n tm.gen.toNat) ∧ (after t).arrived = tm.arrived + 1 ∧
           (after t).gen = tm.gen) ∧
       (m.arrived = false → m.awaited = true → tm.arrived + 1 = awaitedOf tm →
         ∃ t, exec (.tbar a) s = .next t ∧ NoReg s t 4 ∧ t.mem = s.mem ∧ (after t).gen = tm.gen + 1 ∧ (after t).arrived = 0 ∧
           (∀ k ∈ (after t).members, k.awaited = true ∧ k.arrived = false)))) ∧
    (let n := (s.sreg b).toNat
     let q := (s.context s.ctxId).queue n
     let fits := ((q.tail + 1) - q.head).toNat ≤ 2 ^ q.size
     (15 < n → exec (.launch a b) s = .next (s.takeFault 0x02 0 0 0)) ∧
     (n ≤ 15 → ∃ t, exec (.launch a b) s = .next t ∧ OnlyReg s t 4 a (if fits then 1 else 0) ∧ t.mem.home = s.mem.home ∧
       (t.context s.ctxId).queue n = if fits then { q with tail := q.tail + 1 } else { q with overrun := true })) ∧
    (∀ sp ts bs u, (s.sreg b).toNat % 64 = 0 → (s.sreg c).toNat % 64 = 0 → (s.sreg c).toNat ≠ 0 → (s.sreg c).toNat ≤ 0x100000 →
      s.locate s.asker .load (pieces (s.sreg b).toNat (s.sreg c).toNat) = .ok (sp, ts) →
      (∀ p ∈ sp, p.attr.host = false → (s.reach s.asker sp ts).poisoned p.pa = false) →
      (s.reach s.asker sp ts).loadSpots s.asker true sp = (bs, u) →
      let v := (List.range ((s.sreg c).toNat / 8)).foldl
        (fun (h : Word) k => drawRound (h ^^^ BitVec.ofNat 64 (leNat ((bs.drop (8 * k)).take 8)))) (s.sreg a)
      (s.sreg (c + 1) = 0 → exec (.digest a b c) s = .next (retired s (u.setSreg a v).settle)) ∧
      (s.sreg (c + 1) ≠ 0 → exec (.digest a b c) s = .next (retired s ((u.setSreg a v).postDigest (s.sreg (c + 1)) v).settle))) ∧
    ∀ (x : Context) (step v : Word), let y := x.post step v
      y.repStep = step ∧ y.repDigest = v ∧ y.held = x.held ∧
      (setInForce x.repSet = true → postOf y step = some { set := x.repSet, step := step, digest := v, holds := true, decided := false }) ∧
      (setInForce x.repSet = false → y.posts = x.posts) ∧ ∀ k, k ≠ step → postOf y k = postOf x k

/-- R264, R265, R268, R270, R271: send and sendr put a message with the next ticket into the outbound buffer; bind and unbind change a binding; chput sends an
entry and counts it, or waits for space; wclose sends markers to the members in a deterministic launch, once every message sent before it, and no
later one, has been accepted; a combine sends a contribution with count 1 to the router beside its core, where it takes one of 64 entries if one is free
(log 20: which router that is). -/
def Obligations.MessageInstructions : Prop :=
  ∀ (s : State) (a b c : BitVec 6), Ready s → s.f.region.isOpen = false → s.f.wait = .none → NothingSent s →
    (let w := s.sreg a
     let n := fld w 7 0
     let here := fld w 49 32 = 0x3FFFF ∨ fld w 49 32 = s.pkg.device.toNat
     s.me.outbound.length < 8 →
     (fld w 63 50 = 0 → n = 0 ∨ 64 < n → c.toNat ≤ 31 → exec (.send a b c) s = .next (s.takeFault 0x0B 0 0 0)) ∧
     (fld w 63 50 ≠ 0 → exec (.send a b c) s = .next (s.takeFault 0x02 0 0 0) ∧ exec (.sendr a b c) s = .next (s.takeFault 0x02 0 0 0)) ∧
     (∀ st u, s.sendChecks w b = .ok (st, u) → here →
       (c.toNat ≤ 31 → ∃ t m, exec (.send a b c) s = .next t ∧ NoReg s t 4 ∧ t.mem = s.mem ∧
         IsMessage s m w (leBytes n (s.vreg (c.truncate 5)).toNat) st ∧ (t.lc s.myLc).ticket = s.me.ticket + 1 ∧
         (t.lc s.myLc).outbound = s.me.outbound ++ [{ num := s.me.outNext, what := .msg m, full := false, decided := false }]) ∧
       (∀ data x, u.readPieces (pieces (s.sreg c).toNat n) true = .ok data x →
         ∃ t m, exec (.sendr a b c) s = .next t ∧ NoReg s t 4 ∧ t.mem.home = s.mem.home ∧
           IsMessage s m w data st ∧ (t.lc s.myLc).ticket = s.me.ticket + 1 ∧
           (t.lc s.myLc).outbound = s.me.outbound ++ [{ num := s.me.outNext, what := .msg m, full := false, decided := false }]))) ∧
    (let w := s.sreg b
     fld w 63 25 = 0 → fld w 10 8 = 0 → (s.sreg a).getLsbD 0 = false → s.me.park = [] → s.me.heldMsgs = [] →
     ∃ t, exec (.bind a b) s = .next t ∧ NoReg s t 4 ∧ t.mem = s.mem ∧
       (∀ k, Tbl.find (t.lc s.myLc).binds k = if k = fld w 7 0 then some (s.sreg a) else Tbl.find s.me.binds k) ∧
       (t.lc s.myLc).depths = (if w.getLsbD 11 then s.me.depths.set (fld w 7 0 / 64) (fld w 15 12 + 1) else s.me.depths) ∧
       (t.lc s.myLc).team = (if w.getLsbD 24 then some (fld w 23 16) else s.me.team)) ∧
    (fld (s.sreg b) 63 8 = 0 → ∃ t, exec (.unbind b) s = .next t ∧ NoReg s t 4 ∧ t.mem = s.mem ∧
      ∀ k, Tbl.find (t.lc s.myLc).binds k = if k = fld (s.sreg b) 7 0 then none else Tbl.find s.me.binds k) ∧
    (∀ e, b.toNat ≤ 15 → a.toNat ≤ 31 → Tbl.find s.me.ends b.toNat = some e →
      (e.isIn = true ∨ e.held = true → exec (.chput a b) s = .next (s.takeFault 0x16 0 0 0)) ∧
      (e.isIn = false → e.held = false → 2 ^ e.logCap ≤ e.moved - e.freed →
        ∃ t, exec (.chput a b) s = .next t ∧ Waits s t (.need (.channelSpace b.toNat))) ∧
      (e.isIn = false → e.held = false → e.moved - e.freed < 2 ^ e.logCap →
        ∃ t, exec (.chput a b) s = .next t ∧ NoReg s t 4 ∧ t.mem = s.mem ∧
          Tbl.find (t.lc s.myLc).ends b.toNat = some { e with moved := e.moved + 1 } ∧
          t.net.entries = s.net.entries ++
            [{ fk := some s.f.key, lc := s.myLaunch * 65536 + e.peer, inEnd := e.peerEnd, index := e.moved, data := (s.vreg (a.truncate 5)).truncate 512 }])) ∧
    (let n := (s.sreg a).toNat
     let tm := (s.context s.ctxId).team n
     n ≤ 255 → fld (s.sreg b) 63 1 = 0 →
     ((∀ m ∈ tm.members, m.lc ≠ s.myLc) → exec (.wclose a b) s = .next (s.takeFault 0x12 0 0 0)) ∧
     ((∃ m ∈ tm.members, m.lc = s.myLc) → s.job.det = false →
       ∃ t, exec (.wclose a b) s = .next t ∧ NoReg s t 4 ∧ t.mem = s.mem ∧ t.net = s.net) ∧
     ((∃ m ∈ tm.members, m.lc = s.myLc) → s.job.det = true → ¬ SendsAccepted s →
       ∃ t, exec (.wclose a b) s = .next t ∧ Waits s t (.need (.sendsAccepted s.me.ticket))) ∧
     ((∃ m ∈ tm.members, m.lc = s.myLc) → s.job.det = true → SendsAccepted s →
       ∃ t, exec (.wclose a b) s = .next t ∧ NoReg s t 4 ∧ t.mem = s.mem ∧
         t.net.markers = s.net.markers ++ tm.members.map (fun m => (m.lc, s.myLc, s.me.epoch)) ∧
         (t.lc s.myLc).epoch = (if (s.sreg b).getLsbD 0 then s.me.epoch + 1 else s.me.epoch) ∧
         (t.lc s.myLc).epochTicket = if (s.sreg b).getLsbD 0 then s.me.ticket else s.me.epochTicket)) ∧
    (let w := s.sreg a
     let g := s.sreg c
     fld w 63 50 = 0 → fld w 15 9 = 0 → fld g 63 48 = 0 → fld w 8 0 ≠ 511 → fld g 31 0 ≠ 0 → fld w 31 16 < s.job.ncore →
     fld w 49 32 = 0x3FFFF → (s.lc (s.myLaunch * 65536 + fld w 31 16)).ends = [] →
     ∀ i big, (i, big) ∈ [(Instr.combineMaxi a b c, true), (.combineAddfx a b c, false)] →
       ∃ t, exec i s = .next t ∧ NoReg s t 4 ∧ t.mem = s.mem ∧ t.net.combs = s.net.combs ++
         [{ launch := s.myLaunch, root := fld w 31 16, x := fld w 8 0, isMax := big, group := fld g 47 32, n := fld g 31 0,
            value := s.sreg b, count := 1, far := false, router := routerOf s.me.pcore, moved := false,
            entry := decide ((s.net.combs.filter fun q => q.router = routerOf s.me.pcore && q.entry).length < 64) }])

end

namespace Sys2Proof.Claims

open Sys2Proof Sys2Proof.Machine

/-! ## Engine commands -/

/-- The guard that a command captures when guard slot `g` is not false (R227). -/
def guardOf (s : State) (g : BitVec 3) : GuardRef :=
  if g = 0 then .free else if s.f.guards.toList.getD g.toNat .isTrue = .unresolved then .pending else .known true

/-- A queue of the issuing core: the copy queue, or the matrix queue. -/
def cmdQueue (t s : State) (copy : Bool) : List Cmd := if copy then (t.lc s.myLc).copyq else (t.lc s.myLc).matq

/-- A command with this work has entered a queue of the issuing core, bound to its firing and its guard; the other queue is as it was, and no
register has changed (R221, R223, R227). -/
def Captured (s t : State) (copy : Bool) (g : BitVec 3) (w : Work) : Prop :=
  NoReg s t 4 ∧ t.mem.home = s.mem.home ∧ cmdQueue t s (!copy) = cmdQueue s s (!copy) ∧
  cmdQueue t s copy = cmdQueue s s copy ++
    [{ work := w, guard := guardOf s g, gnum := g.toNat, fk := s.f.key, seqno := s.f.seqno, epc := s.f.pc.truncate 48,
       order := s.me.issued, started := false, ksteps := 0, passed := 0, poison := false, strips := [] }]

/-- A command whose guard is known to be false left at once: the queues are as they were, empty, and GSTAT records the guard (R227). -/
def Discarded (s t : State) (g : BitVec 3) : Prop :=
  (t.lc s.myLc).matq = [] ∧ (t.lc s.myLc).copyq = [] ∧ t.f.gstat.getLsbD g.toNat = true ∧ t.f.pc = s.f.pc + 4 ∧
  t.f.regs = s.f.regs ∧ t.f.vregs = s.f.vregs ∧ t.f.kregs = s.f.kregs ∧ t.f.flags = s.f.flags ∧ t.f.poly = s.f.poly ∧
  t.mem.home = s.mem.home

/-- What an engine command does whose checks give the work `w` and, in `u`, touch nothing but caches: it enters its queue, leaves again if its
guard is false, or waits for room. -/
def Enters (s : State) (i : Instr) (copy : Bool) (g : BitVec 3) (w : Work) : Prop :=
  ((cmdQueue s s copy).length < 2 → falseHead s.me.matq = none → falseHead s.me.copyq = none →
    (g ≠ 0 → s.f.guards.toList.getD g.toNat .isTrue ≠ .isFalse) → ∃ t, exec i s = .next t ∧ Captured s t copy g w) ∧
  (s.me.matq = [] → s.me.copyq = [] → g ≠ 0 → s.f.guards.toList.getD g.toNat .isTrue = .isFalse →
    ∃ t, exec i s = .next t ∧ Discarded s t g) ∧
  (2 ≤ (cmdQueue s s copy).length → ∃ t, exec i s = .next t ∧ Waits s t (.need (if copy then .copyQueue else .matrixQueue)))

/-- Guard, captured work and conditions of the matrix commands that name tiles (R238 to R242). -/
def matrixCommand (s : State) : Instr → Option (BitVec 3 × Work × Prop)
  | .ofill g a b c =>
    let w := s.sreg c
    let y := s.me.tile b.toNat
    some (g, .ofill a.toNat b.toNat (fld w 4 0) (fld w 13 5) (w.getLsbD 14),
      fld w 63 15 = 0 ∧ (s.me.tile a.toNat).kind = 2 ∧ y.kind ≠ 0 ∧ y.kind ≠ 2 ∧
      slotAllows (fld w 4 0) (fld w 13 5) (w.getLsbD 14) = true ∧ imageBytes (fld w 4 0) (fld w 13 5) (w.getLsbD 14) ≤ y.size)
  | .mma g a b c =>
    let w := s.sreg c
    some (g, .mma a.toNat b.toNat (fld w 0 0) (fld w 2 1) (w.getLsbD 3),
      fld w 63 4 = 0 ∧ (s.me.tile a.toNat).kind = 2 ∧ (s.me.tile b.toNat).kind = 2)
  | .adrain g a c =>
    let w := s.sreg c
    let x := s.me.tile a.toNat
    some (g, .adrain a.toNat (fld w 5 1) (fld w 0 0),
      fld w 63 6 = 0 ∧ x.kind ≠ 0 ∧ x.kind ≠ 2 ∧ drainBytes (fld w 5 1) ≠ 0 ∧ drainBytes (fld w 5 1) ≤ x.size)
  | .azero g a => some (g, .azero (a.toNat % 2), True)
  | _ => none

/-- Position `b` lies `d` from position `a` along a dimension of `g` places, round its end if it is periodic (R308). -/
def Along (periodic : Bool) (g a : Nat) (d : Int) (b : Nat) : Prop := b < g ∧ (b : Int) = if periodic then (a + d) % (g : Int) else a + d

/-- Member `k` is the neighbour of member `m` to which the strip with this counter goes: side 1 is the receiver's south, so `k` lies north of
`m`; 0 its north, 3 its east, 2 its west (R248). -/
def Beside (tm : Team) (m k : Member) (side : Nat) : Prop :=
  ∃ gx gy px py dx dy, tm.grid = some (gx, gy, px, py) ∧ (side, dx, dy) ∈ [(1, (0 : Int), (-1 : Int)), (0, 0, 1), (3, -1, 0), (2, 1, 0)] ∧
    Along px gx m.x dx k.x ∧ Along py gy m.y dy k.y

/-- The destination tile of a cpyt, if it names one. -/
def destTile (s : State) (o : Option Nat) : Tile := o.elim .undefined s.me.tile

/-- The instructions that need the launch's uses-matrix flag (R84, R220). -/
def needsMatrix : Instr → Prop
  | .ofill _ _ _ _ | .mma _ _ _ _ | .mmask _ _ | .adrain _ _ _ | .azero _ _ | .oclaim _ _ | .orelease _ => True
  | _ => False

end Sys2Proof.Claims

section

open Sys2Proof Sys2Proof.Machine Sys2Proof.Claims

/-- R220 to R227, R235 to R242, R245 to R248, R282, R324, R325: an engine command whose checks pass captures its operands in its queue with its guard, is
dropped at once under a false guard, and waits at a full queue; a halo captures its neighbours as membership stands at its issue (R36); a cpyt
whose record would lie above V31 is fault 0x02 before any other; oclaim and orelease take and free a slot; garm and gset arm and resolve a
guard. (The model's readings: that cpy ignores bits [39:34] and [29:24] of its control word where bit 40 or bit 30 is 0, log 14, DEDUCED; that the field above
V31 of a cpyt comes before every other fault, log 13, DEDUCED.) -/
def Obligations.EngineCommandInstructions : Prop :=
  ∀ (s : State), Ready s → s.f.region.isOpen = false → NothingSent s →
    (∀ i, needsMatrix i → s.job.matrix = false → exec i s = .next (s.takeFault 0x01 0 0 0)) ∧
    (s.job.matrix = true →
      (∀ i g w ok, matrixCommand s i = some (g, w, ok) → ok → Enters s i false g w) ∧
      (∀ g a bs u, s.ownBytes (s.sreg a).toNat 4 528 = .ok (bs, u) → recNat bs 516 4 ≤ 64 → recNat bs 520 4 ≤ 63 → recNat bs 524 4 ≤ 1 →
        Enters s (.mmask g a) false g (.mmask (BitVec.ofNat 4224 (leNat bs)))) ∧
      (∀ a b, (s.me.tile a.toNat).kind ≠ 0 → exec (.oclaim a b) s = .next (s.takeFault 0x0C 0 0 0)) ∧
      (∀ a b n, (s.me.tile a.toNat).kind = 0 → (s.octave s.myOctave).claims = [] → (s.octave s.myOctave).freeSlot = some n →
        ∃ t, exec (.oclaim a b) s = .next t ∧ OnlyReg s t 4 b (BitVec.ofNat 64 n) ∧ t.mem = s.mem ∧
          ((Tbl.find (t.octave s.myOctave).slots n).bind fun x => x.owner) = some s.myLc ∧
          tileEntry t s a = { Tile.undefined with kind := 2, base := n, size := 8704, phase := (s.me.tile a.toNat).phase,
                                                   uses := (s.me.tile a.toNat).uses }) ∧
      (∀ a b, (s.me.tile a.toNat).kind = 0 → (s.octave s.myOctave).freeSlot = none →
        ∃ t, exec (.oclaim a b) s = .next t ∧ Waits s t (.need .slot) ∧ s.f.key ∈ (t.octave s.myOctave).claims) ∧
      (∀ a, let x := s.me.tile a.toNat
        (x.kind = 0 → exec (.orelease a) s = .next (s.takeFault 0x0C 0 0 0)) ∧
        (x.kind ≠ 0 → x.kind ≠ 2 → exec (.orelease a) s = .next (s.takeFault 0x0D 0 0 0)) ∧
        (x.kind = 2 → x.uses = 0 → x.state ≠ 1 → ∃ t, exec (.orelease a) s = .next t ∧ NoReg s t 4 ∧ t.mem = s.mem ∧
          ((Tbl.find (t.octave s.myOctave).slots x.base).bind fun y => y.owner) = none ∧
          tileEntry t s a = { Tile.undefined with phase := x.phase, uses := x.uses }) ∧
        (x.kind = 2 → (x.uses ≠ 0 ∨ x.state = 1) → ∃ t, exec (.orelease a) s = .next t ∧ Waits s t (.need (.tileUnused a.toNat))))) ∧
    (∀ g a b c ps pd ctr t u v,
      let w := s.sreg c
      let n := fld w 23 0
      let src := if w.getLsbD 40 then some (fld w 39 34) else none
      let dst := if w.getLsbD 30 then some (fld w 29 24) else none
      fld w 63 41 = 0 → n ≠ 0 →
      (src = none → dst = none → (s.sreg a).toNat + n ≤ (s.sreg b).toNat ∨ (s.sreg b).toNat + n ≤ (s.sreg a).toNat) →
      (∀ k, src = some k → (s.me.tile k).kind ≠ 0 ∧ (s.me.tile k).kind ≠ 2) → (∀ k, dst = some k → (s.me.tile k).kind ≠ 0) →
      s.checkSide src .load [0] (s.sreg b).toNat n = .ok (ps, t) → t.checkSide dst .store [0, 5] (s.sreg a).toNat n = .ok (pd, u) →
      u.checkCounter (u.sreg (c + 1)) = .ok (ctr, v) →
      Enters s (.cpy g a b c) true g (.cpy ps pd n ctr (fld w 33 32) (w.getLsbD 31))) ∧
    (∀ (g : BitVec 3) (a b c : BitVec 6) (rec : List Byte) (ps : List PageMap) (pd : Place) (ctr : Option PageMap) (r t u v : State),
      let w := s.sreg c
      let dst := if w.getLsbD 30 then some (fld w 29 24) else none
      let l := Layout.ofBytes rec
      let x := destTile s dst
      fld w 63 42 = 0 → fld w 40 34 = 0 → fld w 23 0 = 0 → (w.getLsbD 41 = false → b.toNat ≤ 31) →
      (∀ k, dst = some k → (s.me.tile k).kind ≠ 0) → s.layoutBytes (w.getLsbD 41) b = .ok (rec, r) →
      layoutBad rec (x.kind == 1) (x.kind == 2 && x.scaled) = false →
      r.checkRanges .load [0] (l.runs ++ l.scaleRuns) = .ok (ps, t) →
      t.checkSide dst .store [0, 5] (s.sreg a).toNat l.destBytes = .ok (pd, u) → u.checkCounter (u.sreg (c + 1)) = .ok (ctr, v) →
      Enters s (.cpyt g a b c) true g (.cpyt l ps pd ctr (fld w 33 32) (w.getLsbD 31))) ∧
    (∀ g a b c,
      let w := s.sreg c
      let x := s.me.tile a.toNat
      let h := fld w 35 32
      let e := packedBits x.fmt
      let tm := (s.context s.ctxId).team (s.sreg b).toNat
      fld w 63 48 = 0 → fld w 45 45 = 0 → fld w 44 36 ≤ 508 → x.kind ≠ 0 → x.kind ≠ 2 → h ≠ 0 → h ≤ fld w 31 16 → h ≤ fld w 15 0 →
      e % 8 = 0 → (fld w 31 16 + 2 * h) * (fld w 15 0 + 2 * h) * (e / 8) ≤ x.size → (s.sreg b).toNat ≤ 255 →
      ∀ m, tm.members.find? (fun k => k.lc = s.myLc) = some m → tm.grid ≠ none → s.haloMirror tm (fld w 44 36) = none →
      let near := (tm.receivers m).map fun r => (r.1.lc, r.2)
      Enters s (.halo g a b c) true g (.halo a.toNat near (fld w 47 46) (fld w 44 36) h (fld w 31 16) (fld w 15 0)) ∧
      (∀ x ∈ near, ∃ k ∈ tm.members, k.lc = x.1 ∧ Beside tm m k x.2) ∧
      (∀ side, (∃ k ∈ tm.members, Beside tm m k side) → ∃ x ∈ near, x.2 = side)) ∧
    (∀ g a b c, (s.sreg c).getLsbD 41 = false → 31 < b.toNat → exec (.cpyt g a b c) s = .next (s.takeFault 0x02 0 0 0)) ∧
    (∀ (g : BitVec 3) (a b c : BitVec 6) (ps : List PageMap) (hd : List Spot) (ctr : Option PageMap) (t u : State),
      let w := s.sreg c
      c.toNat % 2 = 0 → fld w 63 33 = 0 → fld w 31 30 = 0 → fld w 25 24 = 0 → (s.sreg b).toNat % 64 = 0 → fld w 23 0 ≠ 0 →
      s.channelBad (fld w 29 26) = false → s.checkText (s.sreg a).toNat (fld w 23 0) (s.sreg b).toNat = .ok (ps, hd, t) →
      t.checkCounter (t.sreg (c + 1)) = .ok (ctr, u) →
      Enters s (.tkn g a b c) true g (.tkn (s.sreg a).toNat ps (fld w 23 0) (s.sreg b).toNat hd (w.getLsbD 32) (fld w 29 26) ctr)) ∧
    (∀ (g : BitVec 3) (a b c : BitVec 6) (ps bs os : List PageMap) (hd : List Spot) (rec : List Byte) (t u v x : State),
      let w := s.sreg c
      let block := (s.sreg (c + 1)).toNat
      c.toNat % 2 = 0 → fld w 63 18 = 0 → w.getLsbD 16 = false → (s.sreg b).toNat % 64 = 0 → (s.sreg a).toNat % 4 = 0 → block % 64 = 0 → fld w 15 0 ≠ 0 →
      s.checkText (s.sreg a).toNat (4 * fld w 15 0) (s.sreg b).toNat = .ok (ps, hd, t) → t.checkRange .store [] block 64 = .ok (bs, u) →
      u.fetchBytes u.asker block 16 = .ok (rec, v) → v.checkRange .store [0, 5] (recNat rec 0 8) (recNat rec 8 4) = .ok (os, x) →
      Enters s (.dtkn g a b c) true g
        (.dtkn (s.sreg a).toNat ps (fld w 15 0) (s.sreg b).toNat hd (w.getLsbD 17) block (recNat rec 0 8) (recNat rec 8 4) bs os)) ∧
    (∀ (g : BitVec 3) (a : BitVec 6),
      (s.f.guards.toList.getD g.toNat .isTrue = .unresolved → exec (.garm g) s = .next (s.takeFault 0x17 0 0 0)) ∧
      (s.f.guards.toList.getD g.toNat .isTrue ≠ .unresolved → exec (.gset g a) s = .next (s.takeFault 0x17 0 0 0) ∧
        exec (.garm g) s = .next (retired s { s with f := { s.f with guards := s.f.guards.set g.toNat .unresolved g.isLt } })) ∧
      (s.f.guards.toList.getD g.toNat .isTrue = .unresolved →
        ∃ t, exec (.gset g a) s = .next t ∧ t.f.pc = s.f.pc + 4 ∧ t.f.regs = s.f.regs ∧ t.f.vregs = s.f.vregs ∧ t.f.kregs = s.f.kregs ∧
          t.f.flags = s.f.flags ∧ t.mem = s.mem ∧
          ∀ k, k < 8 → t.f.guards.toList.getD k .isTrue =
            if k = g.toNat then (if s.sreg a = 0 then .isFalse else .isTrue) else s.f.guards.toList.getD k .isTrue))

end

namespace Sys2Proof.Claims

open Sys2Proof Sys2Proof.Machine

/-! ## Steps of the matrix unit and of the streamers -/

/-- Byte `i` of a pattern. -/
def byteAt {w : Nat} (v : BitVec w) (i : Nat) : Nat := v.toNat / 2 ^ (8 * i) % 256

/-- The pattern of element `c` of row `r` of a slot, and its value as an integer (R229, R230). -/
def slotPat (x : OpSlot) (r c : Nat) : Nat :=
  let f := x.fmt.getD 0
  x.data.toNat / 2 ^ (8 * rowBytes f x.k * r + packedBits f * c) % 2 ^ packedBits f
def slotInt (x : OpSlot) (r c : Nat) : Int := intOf (x.fmt.getD 0) (slotPat x r c)

/-- The integer path is that of unscaled i8, n8, i4 and n4 (R239). -/
def takesIntegers (x y : OpSlot) : Prop :=
  x.fmt.getD 0 ∈ [0, 1, 11, 12] ∧ y.fmt.getD 0 ∈ [0, 1, 11, 12] ∧ x.scaled = false ∧ y.scaled = false

/-- The exact sum of the products of block `b` of row `i` of one slot and row `j` of the other (R64), and sums that leave the range of i32. -/
def intBlockSum (x y : OpSlot) (i j b : Nat) : Int := sumTo 32 fun m => slotInt x i (32 * b + m) * slotInt y j (32 * b + m)
def Beyond32 (v : Int) : Prop := v < -(2 ^ 31) ∨ 2 ^ 31 ≤ v

/-- The scale byte of block `b` of a row; the value of an element, a NaN under the scale byte 0xFF; and the scale exponent of a block (R61,
R63). -/
def slotScale (x : OpSlot) (r b : Nat) : Nat := byteAt x.scales (8 * r + b)
def slotValue (x : OpSlot) (r c : Nat) : FVal :=
  if x.scaled = true ∧ slotScale x r (c / 32) = 255 then .nan false else valueOf (x.fmt.getD 0) (slotPat x r c)
def slotExponent (x : OpSlot) (r b : Nat) : Int :=
  if x.scaled = true ∧ slotScale x r b ≠ 255 then (slotScale x r b : Int) - 127 else 0

/-- `v` is the sum of the products `p`, 32 of them, times 2^e (R63): a NaN if one is a NaN or infinities of both signs meet, else an infinity that
is there, else the exact sum, whose zero is −0 only if every product is. -/
def IsBlockSum (p : Nat → FVal) (e : Int) (v : FVal) : Prop :=
  ((∃ i, i < 32 ∧ (p i).isNan = true) ∨ ((∃ i, i < 32 ∧ p i = .inf false) ∧ ∃ i, i < 32 ∧ p i = .inf true) → v.isNan = true) ∧
  (∀ g, (∃ i, i < 32 ∧ p i = .inf g) → (∀ i, i < 32 → (p i).isNan = false ∧ p i ≠ .inf (!g)) → v = .inf g) ∧
  (∀ q : Nat → ℚ, (∀ i, i < 32 → ratOf (p i) = some (q i)) →
    let r := (List.range 32).foldl (fun a i => a + q i) 0
    (r ≠ 0 → ratOf v = some (r * (2 : ℚ) ^ e)) ∧ (r = 0 → ∃ g, v = .zero g ∧ (g = true ↔ ∀ i, i < 32 → p i = .zero true)))

/-- Block `b` of the float path takes accumulator element (i, j) from one pattern to another (R63): the block's sum is rounded once, and its sum
with the element once. -/
def FloatStep (x y : OpSlot) (i j b acc acc' : Nat) : Prop :=
  ∃ v, IsBlockSum (fun m => (mulVal (slotValue x i (32 * b + m)) (slotValue y j (32 * b + m))).1) (slotExponent x i b + slotExponent y j b) v ∧
    acc' = (Fmt.f32.round .rne 0 (addVal .rne (Fmt.f32.value acc) (Fmt.f32.value (Fmt.f32.round .rne 0 v).pat)).1).pat

/-- Does a mask block replace element (i, j): its mode is 1, and the row lies at or beyond its row count, or the column at or above its base has a
clear bit (R239, R240)? -/
def masksElement (m : BitVec 4224) (i j : Nat) : Prop :=
  let base := (m.extractLsb' (8 * 520) 32).toNat
  m.extractLsb' (8 * 524) 32 = 1 ∧
    ((m.extractLsb' (8 * 516) 32).toNat ≤ i ∨ (base ≤ j ∧ m.getLsbD (64 * i + (j - base)) = false))

/-- A side of a copy lies at this physical address: one page of HBM that begins at its first byte, or a scratchpad tile. -/
def LiesAt (c : LCore) (p : Place) (n pa : Nat) : Prop :=
  match p with
  | .mem va pages => pages = [{ va := va, len := n, pa := pa, host := false }] ∧ pa + n ≤ 0x8000000000
  | .tile t off => (c.tile t).kind = 1 ∧ pa = c.sharePA ((c.tile t).base + off) ∧ pa + n ≤ 0x7F0000000000

/-- `e` bytes at a virtual address lie in the first page of a command that holds their first byte, at this physical address of HBM. -/
def HeldAt (ps : List PageMap) (va e pa : Nat) : Prop :=
  ∃ p, ps.find? (fun p => decide (p.va ≤ va ∧ va < p.va + p.len)) = some p ∧ va + e ≤ p.va + p.len ∧ p.host = false ∧
    pa = p.pa + (va - p.va) ∧ pa + e ≤ 0x8000000000

/-- Where a cpyt reads the element at an index of its window, elements being `e` bytes; none out of range (R247). -/
def elementVA (l : Layout) (e i0 i1 i2 i3 : Nat) : Option Nat :=
  let p := fun (d i : Nat) => l.orgAt d + (i : Int)
  let step := fun d => if l.stride.getD d 0 = 0 then e else l.stride.getD d 0
  if 0 ≤ p 0 i0 ∧ p 0 i0 < l.extAt 0 ∧ 0 ≤ p 1 i1 ∧ p 1 i1 < l.extAt 1 ∧ 0 ≤ p 2 i2 ∧ p 2 i2 < l.extAt 2 ∧ 0 ≤ p 3 i3 ∧ p 3 i3 < l.extAt 3 then
    some (l.base + (p 0 i0).toNat * e + (p 1 i1).toNat * step 1 + (p 2 i2).toNat * step 2 + (p 3 i3).toNat * step 3)
  else none

/-- The byte of the destination where it writes that element (R247). -/
def elementDest (l : Layout) (e i0 i1 i2 i3 : Nat) : Nat :=
  let u := if l.transpose then i0 else i1
  let o := (if l.transpose then i1 else i0) * e
  let row := u + (if l.transpose then l.winAt 0 else l.winAt 1) * (i2 + l.winAt 2 * i3)
  row * l.pitch * 64 + 1024 * (o / 1024) + (o % 1024 + 64 * (row * l.inter % 16)) % 1024

/-- Where a strip with this side stands in the sender's tile, and where its receiver writes it: row and column (R248). -/
def stripFrom (side h nr nc : Nat) : Nat × Nat := if side = 0 then (nr, h) else if side = 2 then (h, nc) else (h, h)
def stripTo (side h nr nc : Nat) : Nat × Nat :=
  if side = 1 then (nr + h, h) else if side = 0 then (0, h) else if side = 3 then (h, nc + h) else (h, 0)

/-- A strip that a halo has taken from tile `ta` of its logical core, for one of the four sides (R248). -/
def StripOf (s : State) (lk ta h nr nc : Nat) (x : Strip) : Prop :=
  let c := s.lc lk
  x.side < 4 → x.elem = packedBits (c.tile ta).fmt / 8 ∧ x.pitch = nc + 2 * h ∧ (x.row, x.col) = stripTo x.side h nr nc ∧
    (x.rows, x.cols) = (if x.side < 2 then (h, nc) else (nr, h)) ∧
    let f := stripFrom x.side h nr nc
    ∀ i j, i < x.rows → j < x.cols * x.elem → (x.data.getD (i * x.cols * x.elem + j) (0, false)).1 =
      Mem.get s.mem.home (c.sharePA ((c.tile ta).base + (((f.1 + i) * x.pitch + f.2) * x.elem + j)))

/-- Element (i, j) of an accumulator of a logical core, as a pattern. -/
def accElem (s : State) (lk n i j : Nat) : Nat := ((s.accRows (s.lc lk) n).getD i []).getD j 0

/-- No command of the matrix queue has this issue order. -/
def Gone (t : State) (lk order : Nat) : Prop := ∀ k ∈ (t.lc lk).matq, k.order ≠ order

/-- Destination, length and counter of a copy whose source is no tile. -/
def copyOf : Work → Option (Place × Nat × Option Nat)
  | .cpy (.mem _ _) d n c _ _ => some (d, n, c.map fun p => p.pa)
  | .cpyt l _ d c _ _ => some (d, l.dataBytes, c.map fun p => p.pa)
  | _ => none

/-- Is a place in memory of the device? -/
def Place.inMemory : Place → Prop
  | .mem _ ps => ∀ p ∈ ps, p.host = false
  | .tile _ _ => False

/-- A command of a streamer runs. -/
def Runs (t : State) (n lk order : Nat) : Prop :=
  ∃ r ∈ (t.streamer n).running, r.1 = lk ∧ r.2.order = order ∧ r.2.started = true

/-- An address of memory at its home that no cache of another kind shadows. -/
def PlainPA (s : State) (pa : Nat) : Prop := pa % 8 = 0 ∧ s.mem.poison = [] ∧ isDeviceReg pa = false

end Sys2Proof.Claims

section

open Sys2Proof Sys2Proof.Machine Sys2Proof.Claims

/-- R223, R228 to R242: the command that the path takes starts: ofill puts the image into the slot while its tile fills, or ends its launch with fault
0x0A if its source tile is poisoned; azero clears its accumulator, mmask takes its block, adrain writes its tile; a completion frees the path and
makes the tile ready, and that of adrain updates AMAX (R148). An mma that wins the array starts or ends its launch by its fault; a k-step adds its
blocks to each element, by the integer or the float path (R63, R64), and sets the overflow bit if an integer sum leaves its range; the last one of
a masked mma lays the fill pattern over the masked elements. A boundary yields to a higher effective priority; a completion frees the array. (The model's readings:
a zero of an integer or tapered format counts as +0 in the float path, log 22, DESIGN CHOICE; the overflow bit is set at the k-step whose sum leaves the range, and
the drain takes the whole accumulator into AMAX at its completion, log 15, DEDUCED.) -/
def Obligations.MatrixUnitSteps : Prop :=
  ∀ (s : State) (lk : Nat) (k : Cmd),
    let oct := s.subject.unit
    let c := s.lc lk
    (s.pathNext oct = some (lk, k) →
      (∀ ta tb f kk sc, k.work = .ofill ta tb f kk sc → slotAllows f kk sc = true → (c.tile ta).kind ≠ 0 →
        let image := Mem.read s.mem.home (c.sharePA (c.tile tb).base) (imageBytes f kk sc)
        let n := 64 * rowBytes f kk
        ((c.tile tb).poison = true → exec .ofillStart s = .next (s.engineFault lk k 0x0A).settle) ∧
        ((c.tile tb).poison = false →
          ∃ t, exec .ofillStart s = .next t ∧ (t.octave oct).path = some (lk, k.order) ∧ ((t.lc lk).tile ta).state = 1 ∧ t.mem = s.mem ∧
            let y := Tbl.get .unclaimed (t.octave (octaveOf c.pcore)).slots (c.tile ta).base
            y.fmt = some f ∧ y.k = kk ∧ y.scaled = sc ∧
            (∀ i, i < n → byteAt y.data i = (image.getD i 0).toNat) ∧
            (sc = true → ∀ i, i < 512 → byteAt y.scales i = (image.getD (n + i) 0).toNat))) ∧
      (∀ n, k.work = .azero n → ∃ t, exec .azeroStart s = .next t ∧ (t.octave oct).path = none ∧ Gone t lk k.order ∧
        ∀ x, Mem.get t.mem.home x = if c.accPA (16384 * n) ≤ x ∧ x < c.accPA (16384 * n) + 16384 then 0 else Mem.get s.mem.home x) ∧
      (∀ b, k.work = .mmask b → ∃ t, exec .mmaskStart s = .next t ∧ (t.octave oct).path = none ∧ Gone t lk k.order ∧
        (t.lc lk).mask = b ∧ t.mem = s.mem) ∧
      (∀ ta f n, k.work = .adrain ta f n → (c.tile ta).kind ≠ 0 → s.mem.poison = [] →
        ∃ t, exec .adrainStart s = .next t ∧ (t.octave oct).path = some (lk, k.order) ∧ ((t.lc lk).tile ta).state = 1 ∧
          Stored s.mem.home t.mem.home (c.sharePA (c.tile ta).base) (drainImage f (s.accRows c n)) ∧ (t.lc lk).amax = c.amax)) ∧
    (s.onPath oct = some (lk, k) →
      (∀ ta tb f kk sc, k.work = .ofill ta tb f kk sc → (c.tile ta).kind ≠ 0 →
        ∃ t, exec .ofillCompletion s = .next t ∧ (t.octave oct).path = none ∧ Gone t lk k.order ∧ t.mem = s.mem ∧
        let x := (t.lc lk).tile ta
        x.state = 2 ∧ x.phase = !(c.tile ta).phase ∧ x.arrived = imageBytes f kk sc ∧ x.expected = imageBytes f kk sc ∧
        x.poison = (c.tile tb).poison) ∧
      (∀ ta f n, k.work = .adrain ta f n → (c.tile ta).kind ≠ 0 →
        ∃ t, exec .adrainCompletion s = .next t ∧ (t.octave oct).path = none ∧ Gone t lk k.order ∧ t.mem = s.mem ∧
        (t.lc lk).amax = (if f = 4 then c.amax
          else ((s.accRows c n).flatMap fun r => r.map Fmt.f32.value).foldl takeAmax c.amax) ∧
        let x := (t.lc lk).tile ta
        x.state = 2 ∧ x.phase = !(c.tile ta).phase ∧ x.arrived = drainBytes f ∧ x.expected = drainBytes f ∧ x.poison = k.poison)) ∧
    ((s.octave oct).array = none → s.winner oct = some (lk, k) → k.started = false →
      (∀ e, s.mmaFault lk k = some e → exec .mmaStart s = .next (s.engineFault lk k e).settle) ∧
      (s.mmaFault lk k = none → ∃ t, exec .mmaStart s = .next t ∧ (t.octave oct).array = some (lk, k.order) ∧
        (t.octave oct).granted = c.pcore % 8 + 1 ∧ t.mem = s.mem)) ∧
    (∀ ta tb n pr, k.work = .mma ta tb n pr false →
      let x := (s.mmaSlots lk ta tb).1
      let y := (s.mmaSlots lk ta tb).2
      let t := s.mmaStep lk k
      let two := 64 * k.ksteps + 32 < x.k
      (takesIntegers x y → ∀ i j, i < 64 → j < 64 →
        accElem t lk n i j = ofInt 32 (toInt 32 (accElem s lk n i j) + intBlockSum x y i j (2 * k.ksteps) +
          if two then intBlockSum x y i j (2 * k.ksteps + 1) else 0)) ∧
      (takesIntegers x y → ((if n = 0 then (t.lc lk).ovf0 else (t.lc lk).ovf1) = true ↔ (if n = 0 then c.ovf0 else c.ovf1) = true ∨
        ∃ i j, i < 64 ∧ j < 64 ∧
          let a := toInt 32 (accElem s lk n i j) + intBlockSum x y i j (2 * k.ksteps)
          Beyond32 a ∨ (two ∧ Beyond32 (toInt 32 (ofInt 32 a) + intBlockSum x y i j (2 * k.ksteps + 1))))) ∧
      (¬ takesIntegers x y → ∀ i j, i < 64 → j < 64 → ∃ mid, FloatStep x y i j (2 * k.ksteps) (accElem s lk n i j) mid ∧
        (¬ two → accElem t lk n i j = mid) ∧ (two → FloatStep x y i j (2 * k.ksteps + 1) mid (accElem t lk n i j)))) ∧
    (∀ ta tb n pr, k.work = .mma ta tb n pr true →
      let u := s.mmaStep lk { k with work := .mma ta tb n pr false }
      let last := (s.mmaSlots lk ta tb).1.k ≤ 64 * (k.ksteps + 1)
      ∀ i j, i < 64 → j < 64 →
        (last ∧ masksElement c.mask i j → accElem (s.mmaStep lk k) lk n i j = (c.mask.extractLsb' (8 * 512) 32).toNat) ∧
        (¬ (last ∧ masksElement c.mask i j) → accElem (s.mmaStep lk k) lk n i j = accElem u lk n i j)) ∧
    (s.running oct = some (lk, k) →
      (k.ksteps + 1 < s.mmaLength lk k →
        ((∀ e, (s.mmaStep lk k).winner oct = some e → e.2.effective ≤ k.effective) →
          exec .mmaKstepBoundary s = .next (s.mmaStep lk k)) ∧
        (∀ e, (s.mmaStep lk k).winner oct = some e → k.effective < e.2.effective →
          exec .mmaKstepBoundary s =
            .next (((s.mmaStep lk k).modOctave oct fun o => { o with array := none }).grant oct e))) ∧
      (s.mmaLength lk k ≤ k.ksteps + 1 → ∃ t, exec .mmaCompletion s = .next t ∧ (t.octave oct).array = none ∧ Gone t lk k.order ∧
        t.mem = (s.mmaStep lk k).mem))

/-- R243 to R248, R282: a request enters its streamer queue if there is room. A copy that starts moves its bytes, between memory, a scratchpad tile
and a slot; a cpyt whose elements are whole bytes moves each element of its window to its place, or the fill pattern where the position is out of
range; a halo that starts takes a strip for each neighbour of its issue, and a strip that is delivered is written into its receiver's tile, whose
counter rises. The completion of a copy counts its bytes into its tile, empties its source tile and raises its counter by one. (The model's readings,
log 14: the bytes move in the step of the start, as the step table has it; a source tile whose poison bit is set is no fault of a copy or a halo, DEDUCED;
log 15: a tile that a copy has drained is empty with an arrived count of 0 and no poison, DEDUCED; log 14: a strip for a receiver whose tile is a slot is fault 0x0C, and the fill
pattern of an element of 64 bits is zero-extended, both DEDUCED.) -/
def Obligations.StreamerSteps : Prop :=
  ∀ (s : State) (lk : Nat) (k : Cmd),
    let n := s.subject.unit
    let c := s.lc lk
    (s.sendable n s.subject.item false = some k →
      let m := s.streamerOf n k.work
      let q := k.work.queue
      (32 ≤ ((s.streamer m).queue q).length → exec .copyRequestSend s = .next s) ∧
      (((s.streamer m).queue q).length < 32 → q < (s.streamer m).queues.length → ∃ t, exec .copyRequestSend s = .next t ∧
        (t.streamer m).queue q = (s.streamer m).queue q ++ [(n, k)] ∧ (∀ x ∈ (t.lc n).copyq, x.order ≠ k.order) ∧ t.mem = s.mem)) ∧
    (∀ q, s.nextRequest n = some (q, (lk, k)) →
      (k.work.isCpy = true → ∃ t, exec .copyStart s = .next t ∧ Runs t n lk k.order) ∧
      (k.work.isCpyt = true → ∃ t, exec .cpytStart s = .next t ∧ Runs t n lk k.order) ∧
      (∀ src dst len ctr qq o from_, k.work = .cpy src dst len ctr qq o → s.mem.poison = [] → LiesAt c src len from_ →
        (src.tileOf = none ∨ dst.tileOf = none) →
        let bytes := Mem.read s.mem.home from_ len
        (∀ to_, LiesAt c dst len to_ → ∃ t, exec .copyStart s = .next t ∧ Stored s.mem.home t.mem.home to_ bytes ∧
          (∀ x, src.tileOf = some x → ((t.lc lk).tile x).state = 3) ∧ (∀ x, dst.tileOf = some x → ((t.lc lk).tile x).state = 1)) ∧
        (∀ x off, dst = .tile x off → (c.tile x).kind = 2 → off + len ≤ 8704 →
          (Tbl.get .unclaimed (s.octave (octaveOf c.pcore)).slots (c.tile x).base).poison = [] →
          ∃ t, exec .copyStart s = .next t ∧ t.mem.home = s.mem.home ∧ ((t.lc lk).tile x).state = 1 ∧
            let y := Tbl.get .unclaimed (t.octave (octaveOf c.pcore)).slots (c.tile x).base
            ∀ i, i < len → (if off + i < 8192 then byteAt y.data (off + i) else byteAt y.scales (off + i - 8192)) = (bytes.getD i 0).toNat)) ∧
      (∀ rec l ps dst ctr qq o to_, k.work = .cpyt l ps dst ctr qq o → s.mem.poison = [] → l = Layout.ofBytes rec →
        layoutBad rec dst.tileOf.isSome false = false → packedBits l.fmt % 8 = 0 → LiesAt c dst l.destBytes to_ →
        ∃ t, exec .cpytStart s = .next t ∧ ∀ i0 i1 i2 i3, i0 < l.winAt 0 → i1 < l.winAt 1 → i2 < l.winAt 2 → i3 < l.winAt 3 →
          let e := packedBits l.fmt / 8
          (∀ va pa, elementVA l e i0 i1 i2 i3 = some va → HeldAt ps va e pa →
            Mem.read t.mem.home (to_ + elementDest l e i0 i1 i2 i3) e = Mem.read s.mem.home pa e) ∧
          (elementVA l e i0 i1 i2 i3 = none →
            Mem.read t.mem.home (to_ + elementDest l e i0 i1 i2 i3) e = leBytes e l.fill.toNat)) ∧
      (∀ ta near qq base h nr nc, k.work = .halo ta near qq base h nr nc → near ≠ [] →
        (nr + 2 * h) * (nc + 2 * h) * (packedBits (c.tile ta).fmt / 8) ≤ (c.tile ta).size →
        c.sharePA (c.tile ta).base + (c.tile ta).size ≤ 0x7F0000000000 →
        ∃ t r, exec .haloStart s = .next t ∧ t.mem = s.mem ∧ Runs t n lk k.order ∧ r ∈ (t.streamer n).running ∧ r.1 = lk ∧
          r.2.order = k.order ∧ r.2.strips.map (fun x => (x.lc, x.side)) = near ∧
          ∀ x ∈ r.2.strips, StripOf s lk ta h nr nc x)) ∧
    (s.runningAt = some (lk, k) →
      (∀ d len ctr, copyOf k.work = some (d, len, ctr) →
        (∀ tl off, d = .tile tl off → (c.tile tl).kind ≠ 0 → (c.tile tl).state = 1 →
          let x := c.tile tl
          (x.expected < x.arrived + len →
            exec .copyCompletion s = .next ((s.engineFault lk k 0x0C).retireCopy n lk k)) ∧
          (x.arrived + len ≤ x.expected → ∃ t, exec .copyCompletion s = .next t ∧
            ((t.lc lk).tile tl).arrived = x.arrived + len ∧
            (x.arrived + len = x.expected → ((t.lc lk).tile tl).state = 2 ∧ ((t.lc lk).tile tl).phase = !x.phase) ∧
            (x.arrived + len ≠ x.expected → ((t.lc lk).tile tl).state = 1 ∧ ((t.lc lk).tile tl).phase = x.phase))) ∧
        (Place.inMemory d → ctr = none → ∃ t, exec .copyCompletion s = .next t ∧ t.mem = s.mem) ∧
        (∀ pa, Place.inMemory d → ctr = some pa → PlainPA s pa → k.poison = false → ∃ t, exec .copyCompletion s = .next t ∧
          Stored s.mem.home t.mem.home pa (leBytes 8 (plusOne (wordAt s pa)).toNat))) ∧
      (∀ x o d len qq ord, k.work = .cpy (.tile x o) d len none qq ord → Place.inMemory d → (c.tile x).kind ≠ 0 →
        ∃ t, exec .copyCompletion s = .next t ∧ t.mem = s.mem ∧ ((t.lc lk).tile x).state = 0 ∧ ((t.lc lk).tile x).arrived = 0 ∧
          ((t.lc lk).tile x).poison = false ∧ ((t.lc lk).tile x).phase = (c.tile x).phase) ∧
      (∀ ta near qq base h nr nc x, k.work = .halo ta near qq base h nr nc →
        k.strips.find? (fun z => z.side = s.subject.value.toNat) = some x →
        let y := (s.lc x.lc).tile ta
        let at_ := (s.lc x.lc).sharePA y.base
        let ctr := (s.lc x.lc).counterPA (base + x.side)
        (y.kind ≠ 1 ∨ y.size < (nr + 2 * h) * x.pitch * x.elem →
          exec .haloStripDelivery s = .next ((s.engineFault lk k 0x0C).retireCopy n lk k)) ∧
        (y.kind = 1 → (nr + 2 * h) * x.pitch * x.elem ≤ y.size → s.mem.poison = [] → at_ + y.size ≤ 0x7F0000000000 →
          (at_ + y.size ≤ ctr ∨ ctr + 8 ≤ at_) → x.row + x.rows ≤ nr + 2 * h → x.col + x.cols ≤ x.pitch →
          x.data.length = x.rows * x.cols * x.elem → (∀ b ∈ x.data, b.2 = false) →
          ∃ t, exec .haloStripDelivery s = .next t ∧ wordAt t ctr = plusOne (wordAt s ctr) ∧
            ((t.lc x.lc).tile ta).state = y.state ∧ ((t.lc x.lc).tile ta).phase = y.phase ∧
            (∀ i j, i < x.rows → j < x.cols * x.elem →
              Mem.get t.mem.home (at_ + ((x.row + i) * x.pitch + x.col) * x.elem + j) =
                (x.data.getD (i * x.cols * x.elem + j) (0, false)).1) ∧
            (∀ a, ¬ (ctr ≤ a ∧ a < ctr + 8) →
              (∀ i j, i < x.rows → j < x.cols * x.elem → a ≠ at_ + ((x.row + i) * x.pitch + x.col) * x.elem + j) →
              Mem.get t.mem.home a = Mem.get s.mem.home a))))

end

namespace Sys2Proof.Claims

open Sys2Proof Sys2Proof.Machine

/-! ## What arrives -/

/-- A maxi value wins over another, or is the same word (R272). -/
def MaxiBeats (a b : Word) : Prop :=
  let x := Fmt.f32.value (fld a 63 32)
  let y := Fmt.f32.value (fld b 63 32)
  let lower := fld a 31 0 < fld b 31 0 ∨ (fld a 31 0 = fld b 31 0 ∧ a.toNat ≤ b.toNat)
  (x.isNan = false ∧ y.isNan = true) ∨ (x.isNan = true ∧ y.isNan = true ∧ lower) ∨
  (x.isNan = false ∧ y.isNan = false ∧ (Above x y ∨ (¬ Above y x ∧ lower)))

/-- What two values combine to (R272). -/
def Combined (isMax : Bool) (a b v : Word) : Prop :=
  if isMax then (MaxiBeats a b → v = a) ∧ (¬ MaxiBeats a b → v = b) else v = a + b

/-- What a packet makes of the root's entries: a new entry, or the one of its key with its value and count (R271). -/
def MergedInto (table : List Combine) (p e : Combine) : Prop :=
  (table.find? (fun f => f.sameKey p) = none ∧ e = p) ∨
  ∃ f v, table.find? (fun f => f.sameKey p) = some f ∧ Combined f.isMax f.value p.value v ∧
    e = { f with value := v, count := f.count + p.count, far := f.far || p.far, entry := true, moved := f.moved || p.moved }

/-- What a put that is performed leaves in flight of the earlier puts (R169, R187, R190, R195): the puts of other firings stand, and of its own firing
the first ones, up to the last that must come before it, are performed too. `counts` says that its increment is performed as well. -/
structure PutsLeft (earlier done kept : List PendingPut) (p : PendingPut) (counts : Bool) : Prop where
  sub    : kept.Sublist earlier
  others : kept.filter (fun q => q.fk ≠ p.fk) = earlier.filter fun q => q.fk ≠ p.fk
  own    : earlier.filter (fun q => q.fk = p.fk) = done ++ kept.filter fun q => q.fk = p.fk
  free   : ∀ q ∈ kept, q.fk = p.fk → q.ordered p = false ∧ (counts = true → p.ctr ≠ none → q.parts = [])
  least  : ∀ q, done.getLast? = some q → q.ordered p = true ∨ (counts = true ∧ p.ctr ≠ none ∧ q.parts ≠ [])

/-- The order in which the arrivals of a window become dispatchable (R269): by sender, then by ticket counted from the sender's first in the window. -/
def DeliveredBefore (x y : Msg) : Prop :=
  x.sender.toNat < y.sender.toNat ∨ (x.sender = y.sender ∧ (x.ticket - x.first).toNat ≤ (y.ticket - y.first).toNat)

/-- The sender is a logical core of this device and a member of the window team of logical core `k` (R263, R269); a port, which sends a notice, and a core
of another device are none. -/
def OfWindowTeam (s : State) (k ctx : Nat) (m : Msg) : Prop :=
  ∃ j, m.from_ = some j ∧ ∃ n, (s.lc k).team = some n ∧ ∃ x ∈ ((s.context ctx).team n).members, x.lc = j

/-- The message belongs to the window that is open or to a later one (R269). -/
def ForLater (c : LCore) (m : Msg) : Prop := c.window = m.epoch ∨ 2 ^ 31 ≤ (c.window - m.epoch).toNat

end Sys2Proof.Claims

section

open Sys2Proof Sys2Proof.Machine Sys2Proof.Claims

/-- R169, R257, R263 to R272, R299, R300, R355: what the routers deliver. A put stores its bytes and then raises its counter, the earlier puts of its
firing that must come before it first, and with an increment the channel entries of its firing, and the increment ends the waits and fires the triggers that it reaches; a message is accepted into the
mailbox or the park, or refused and counted, and in a deterministic launch accepted from members of the window team alone, held for its window or
resent; a status word is stored; a pip enters its queue or is resent; a marker is noted, and one that completes the open window closes it, whose
arrivals become dispatchable by sender and ticket; a channel entry and a space update change the counts of their ends; combine packets of one key
merge by the rule of R272, and the root writes the value and raises the next counter. (Which packets meet in which router or port unit is the model's
choice, log 20; that a later packet merges into the entry of the earlier one is too. That the space updates of one end are taken in the order in which
they were sent is its choice as well, log 16; that a message whose window has closed is dispatched at once is deduced, log 16; that an increment has
the channel entries of its firing enter their rings first is too, log 3.) -/
def Obligations.DeliverySteps : Prop :=
  ∀ (s : State),
    let i := s.subject.unit
    (∀ p, s.net.puts[i]? = some p →
      ∃ t done kept, exec .putPerform s = .next t ∧ PutsLeft (s.net.puts.take i) done kept p (!s.subject.yes) ∧
        t.net.puts = kept ++ (if s.subject.yes = true ∧ p.ctr ≠ none then [{ p with parts := [] }] else []) ++ s.net.puts.drop (i + 1) ∧
        (s.subject.yes = false → p.ctr ≠ none → NoEntries t p.fk) ∧
        (s.mem.poison = [] → NoEntries s p.fk → (∀ q ∈ done ++ [p], PlainPut q) →
          PutsDone (done ++ [if s.subject.yes then { p with ctr := none } else p]) s.mem.home t.mem.home) ∧
        ∀ x sc, s.subject.yes = false → p.parts = [] → p.ctr = some (x, sc) → x % 8 = 0 → isDeviceReg x = false → s.mem.poison = [] → done = [] →
          NoEntries s p.fk → Answered s t x (plusOne (wordAt s x))) ∧
    (∀ o m, (s.lc i).deliverable s.subject.item false = some o → o.what = .msg m →
      let k := m.launch * 65536 + m.target
      let c := s.lc k
      (Tbl.find s.launches m.launch = none → exec .messageArrival s = .next (s.decideItem i o.num m 4).settle) ∧
      (∀ l, Tbl.find s.launches m.launch = some l → l.ending = none → m.target < l.gridX * l.gridY → l.det = false →
        (∀ code, Tbl.find c.binds m.tag.toNat = some code →
          (c.hasRoom m.tag = true → ∃ t, exec .messageArrival s = .next t ∧ (t.lc k).accepted = c.accepted + 1 ∧ (t.lc k).wake = true ∧
            ∃ q : QPip, (t.lc k).arrivals = c.arrivals ++ [q] ∧ q.pip.w0 = BitVec.ofNat 64 (fld code 47 0) ∧
              (m.data.length < 256 → fld q.pip.w2 15 8 = m.tag.toNat ∧ fld q.pip.w2 7 0 = m.data.length)) ∧
          (c.hasRoom m.tag = false → ∃ t, exec .messageArrival s = .next t ∧ (t.lc k).refused = c.refused + 1 ∧
            (t.lc k).accepted = c.accepted ∧ (t.lc k).arrivals = c.arrivals)) ∧
        (Tbl.find c.binds m.tag.toNat = none →
          (c.parkCount < 8 → ∃ t, exec .messageArrival s = .next t ∧ (t.lc k).accepted = c.accepted + 1 ∧
            (t.lc k).park = c.park ++ [m]) ∧
          (8 ≤ c.parkCount → ∃ t, exec .messageArrival s = .next t ∧ (t.lc k).refused = c.refused + 1 ∧ (t.lc k).park = c.park))) ∧
      (∀ l, Tbl.find s.launches m.launch = some l → l.ending = none → m.target < l.gridX * l.gridY → m.target < 65536 → l.det = true →
        (¬ OfWindowTeam s k l.ctx m → exec .messageArrival s = .next (s.decideItem i o.num m 5).settle) ∧
        (OfWindowTeam s k l.ctx m →
          (∀ code, Tbl.find c.binds m.tag.toNat = some code →
            (c.hasRoom m.tag = true → ∃ t j e, exec .messageArrival s = .next t ∧ (t.lc k).accepted = c.accepted + 1 ∧ (t.lc k).wake = true ∧
              Tbl.find c.mbox j = none ∧ Tbl.find (t.lc k).mbox j = some e ∧ e.tag = m.tag ∧ e.code = code ∧ e.epoch = m.epoch ∧
              (ForLater c m → (t.lc k).heldMsgs = c.heldMsgs ++ [(m, some j)] ∧ (t.lc k).arrivals = c.arrivals) ∧
              (¬ ForLater c m → (t.lc k).heldMsgs = c.heldMsgs ∧ ∃ q : QPip, (t.lc k).arrivals = c.arrivals ++ [q] ∧ q.source = .message j)) ∧
            (c.hasRoom m.tag = false → exec .messageArrival s = .next (s.setFull i o.num true))) ∧
          (Tbl.find c.binds m.tag.toNat = none →
            (c.parkCount < 8 → ∃ t, exec .messageArrival s = .next t ∧ (t.lc k).accepted = c.accepted + 1 ∧
              (ForLater c m → (t.lc k).heldMsgs = c.heldMsgs ++ [(m, none)] ∧ (t.lc k).park = c.park) ∧
              (¬ ForLater c m → (t.lc k).heldMsgs = c.heldMsgs ∧ (t.lc k).park = c.park ++ [m])) ∧
            (8 ≤ c.parkCount → exec .messageArrival s = .next (s.setFull i o.num true)))))) ∧
    (∀ w, s.net.status[i]? = some w → w.host = false → isHbm w.pa = true → w.pa % 8 = 0 → s.mem.poison = [] →
      ∃ t, exec .sendStatusWrite s = .next t ∧ t.net.status = s.net.status.eraseIdx i ∧
        Stored s.mem.home t.mem.home w.pa (leBytes 8 w.value.toNat)) ∧
    (∀ o, (s.lc i).deliverable s.subject.item true = some o →
      ∃ t, exec .outboundResend s = .next t ∧ t.mem = s.mem ∧ ∀ x ∈ (t.lc i).outbound, x.num = o.num → x.full = false) ∧
    (∀ o q g cl, (s.lc i).deliverable s.subject.item false = some o → o.what = .pip q g cl →
      (∀ k, g = some k → 64 ≤ ((s.lc k).pinned.filter fun y => !y.isYielded).length → exec .pipAccept s = .next (s.setFull i o.num true)) ∧
      (∀ k, g = some k → ((s.lc k).pinned.filter fun y => !y.isYielded).length < 64 →
        ∃ t, exec .pipAccept s = .next t ∧ (t.lc k).pinned = (s.lc k).pinned ++ [q] ∧ (t.lc k).wake = true ∧ t.mem = s.mem) ∧
      (g = none → 4096 ≤ (s.taskQueue cl).length → exec .pipAccept s = .next (s.setFull i o.num true)) ∧
      (g = none → (s.taskQueue cl).length < 4096 →
        ∃ t, exec .pipAccept s = .next t ∧ t.taskQueue cl = s.taskQueue cl ++ [q] ∧ t.mem = s.mem)) ∧
    (∀ lk sender epoch, s.net.markers[i]? = some (lk, sender, epoch) →
      ∃ t, exec .wcloseMarkerArrival s = .next t ∧ t.net.markers = s.net.markers.eraseIdx i ∧
        ((Tbl.find s.lcores lk).isSome = true → (s.lc lk).counted = [] → (sender, epoch) ∈ (t.lc lk).markers) ∧
        let c := s.lc lk
        ((Tbl.find s.lcores lk).isSome = true → c.counted ≠ [] → epoch = c.window → c.park = [] → (∀ m ∈ c.heldMsgs, m.2.isSome = true) →
          (∀ x ∈ c.markers, x.2 = c.window) →
          ((∀ k ∈ c.counted, k = sender ∨ (k, c.window) ∈ c.markers) →
            ∃ go : List (Msg × Option Nat), go.Perm (c.heldMsgs.filter fun m => m.1.epoch == c.window) ∧
              go.Pairwise (fun x y => DeliveredBefore x.1 y.1) ∧ (t.lc lk).window = c.window + 1 ∧ (t.lc lk).markers = [] ∧
              (t.lc lk).heldMsgs = c.heldMsgs.filter (fun m => m.1.epoch != c.window) ∧
              (t.lc lk).arrivals = c.arrivals ++ go.filterMap (fun m => m.2.map fun j => c.handlerPip j (lk / 65536))) ∧
          ((∃ k ∈ c.counted, k ≠ sender ∧ (k, c.window) ∉ c.markers) →
            (t.lc lk).window = c.window ∧ (t.lc lk).heldMsgs = c.heldMsgs ∧ (t.lc lk).arrivals = c.arrivals))) ∧
    (∀ e rest x, takeFirst (fun (e : ChanEntry) => (e.lc, e.inEnd)) s.net.entries i = some (e, rest) →
      Tbl.find (s.lc e.lc).ends e.inEnd = some x →
      let ring := (s.lc e.lc).sharePA (x.ring + 64 * (e.index % 2 ^ x.logCap))
      let mirror := (s.lc e.lc).counterPA (496 + e.inEnd)
      ∃ t, exec .channelEntryArrival s = .next t ∧ t.net.entries = rest ∧
        Tbl.find (t.lc e.lc).ends e.inEnd = some { x with moved := x.moved + 1 } ∧
        (s.mem.poison = [] → ring + 64 ≤ mirror →
          Mem.read t.mem.home ring 64 = leBytes 64 e.data.toNat ∧ wordAt t mirror = BitVec.ofNat 64 (x.moved + 1))) ∧
    (∀ lk n count rest x, takeFirst (fun (e : Nat × Nat × Nat) => (e.1, e.2.1)) s.net.spaces i = some ((lk, n, count), rest) →
      Tbl.find (s.lc lk).ends n = some x →
      ∃ t, exec .spaceUpdateArrival s = .next t ∧ t.net.spaces = rest ∧
        Tbl.find (t.lc lk).ends n = some { x with freed := count }) ∧
    (∀ p q, s.subject.yes = false → i < s.subject.item → s.net.combs[i]? = some p → s.net.combs[s.subject.item]? = some q →
      let merged := fun (v : Word) =>
        ({ p with value := v, count := p.count + q.count, far := (p.far || q.far), entry := true, moved := (p.moved || q.moved) } : Combine)
      (p.router = q.router → p.entry = true → p.sameKey q = true →
        ∃ v, Combined p.isMax p.value q.value v ∧ exec .combineRouterMerge s =
          .next { s with net := { s.net with combs := (s.net.combs.set i (merged v)).eraseIdx s.subject.item } }) ∧
      (p.router ≠ q.router ∨ p.entry = false ∨ p.sameKey q = false → exec .combineRouterMerge s = .next s)) ∧
    (∀ f g, s.subject.yes = true → i < s.subject.item → s.net.flits[i]? = some f → s.net.flits[s.subject.item]? = some g →
      f.port = g.port → f.flit.dst = g.flit.dst → (f.entry = false → exec .combineRouterMerge s = .next s) ∧
      let one := fun (p : RanvikPacket) => ({ port := f.port, flit := { f.flit with packet := p }, entry := true } : OutFlit)
      let merged := fun (p : RanvikPacket) =>
        ({ s with net := { s.net with flits := (s.net.flits.set i (one p)).eraseIdx s.subject.item } } : State)
      (∀ tag team l l', f.entry = true → f.flit.packet = .barrierArrival tag team l → g.flit.packet = .barrierArrival tag team l' →
        exec .combineRouterMerge s = .next (merged (.barrierArrival tag team (l ++ l')))) ∧
      (∀ tag r x m gr n n' a b j k, f.entry = true → f.flit.packet = .combine tag r x m gr n a j → g.flit.packet = .combine tag r x m gr n' b k →
        ∃ v, Combined m a b v ∧ exec .combineRouterMerge s = .next (merged (.combine tag r x m gr n v (j + k))))) ∧
    (∀ p e, s.net.combs[i]? = some p →
      let lk := p.launch * 65536 + p.root
      let table := (s.lc lk).combs
      (p.router ≠ routerOf (s.lc lk).pcore → exec .combineRootArrival s = .next s) ∧
      (p.router = routerOf (s.lc lk).pcore → MergedInto table p e →
      ((table.find? fun e => e.sameKey p).isSome = true ∨ table.length < 16) →
      (e.count < e.n → ∃ t, exec .combineRootArrival s = .next t ∧ t.mem = s.mem ∧ e ∈ (t.lc lk).combs) ∧
      (e.n ≤ e.count → s.mem.poison = [] → ∃ t, exec .combineRootArrival s = .next t ∧
        wordAt t ((s.lc lk).counterPA e.x) = e.value ∧
        wordAt t ((s.lc lk).counterPA (e.x + 1)) = plusOne (wordAt s ((s.lc lk).counterPA (e.x + 1))) ∧
        ∀ f ∈ (t.lc lk).combs, f.sameKey p = false)))

end

namespace Sys2Proof.Claims

open Sys2Proof Sys2Proof.Machine

/-- A firing of a logical core waits in the open generation of a team. -/
def WaitsIn (s : State) (lk team : Nat) : Prop :=
  ∃ j, j < 2 ∧ (s.firing (2 * lk + j)).st = .waiting ∧ ∃ gen, (s.firing (2 * lk + j)).wait = .barrier team gen

/-! ## Dispatch and resumption (R27, R28, R31, R32) -/

/-- A logical core may take item `i` of a class: a context of it is free, or the item is a firing that yielded, and a free pip is of its launch. -/
structure MayTake (s : State) (lk cls i : Nat) (q : QPip) : Prop where
  item    : (s.classItems lk cls)[i]? = some q
  context : (∃ j, j < 2 ∧ (s.firing (2 * lk + j)).st = .free) ∨ ∃ m, q.source = .yielded m
  launch  : cls = 5 → q.launch = lk / 65536

/-- The item `q` of logical core `lk` goes before the item `q'` of `lk'`, on a core that searches its logical cores in the order `ks` (R31, R32): an
aged item before one that is not, then the lower class, then the first logical core, then in classes 4 and 5 the higher priority, then the earlier. -/
def GoesBefore (ks : List Nat) (lk cls i : Nat) (q : QPip) (lk' cls' i' : Nat) (q' : QPip) : Prop :=
  (1024 ≤ q'.age → 1024 ≤ q.age) ∧
  ((1024 ≤ q.age ↔ 1024 ≤ q'.age) → cls ≤ cls' ∧
    (cls = cls' → ks.idxOf lk ≤ ks.idxOf lk' ∧
      (lk = lk' → (4 ≤ cls → Min.min 3 q'.prio ≤ Min.min 3 q.prio ∧ (Min.min 3 q'.prio = Min.min 3 q.prio → i ≤ i')) ∧ (cls < 4 → i ≤ i'))))

/-- The slot that a firing takes which has none: the idle one where it is resident, else slot 0 if that is empty. -/
def TakesSlot (c : PCore) (fk k : Nat) : Prop :=
  (k = 0 ∧ c.slot0 = { resident := some fk, busy := false }) ∨
  (k = 1 ∧ c.slot0.resident ≠ some fk ∧ c.slot1 = { resident := some fk, busy := false }) ∨
  (k = 0 ∧ c.slot0 = { resident := none, busy := false } ∧ c.slot1.resident ≠ some fk)

/-! ## Text: what tkn and dtkn compute (R326, R329) -/

/-- A code point that UTF-8 encodes, and its bytes. -/
def isScalarValue (c : Nat) : Prop := c < 0xD800 ∨ (0xE000 ≤ c ∧ c ≤ 0x10FFFF)
def utf8 (c : Nat) : List Nat :=
  if c < 0x80 then [c]
  else if c < 0x800 then [0xC0 + c / 64, 0x80 + c % 64]
  else if c < 0x10000 then [0xE0 + c / 4096, 0x80 + c / 64 % 64, 0x80 + c % 64]
  else [0xF0 + c / 262144, 0x80 + c / 4096 % 64, 0x80 + c / 64 % 64, 0x80 + c % 64]

/-- Bytes as units: a well-formed sequence with its code point, or one byte that begins none (R326). -/
inductive Units : List Nat → List Unit8 → Prop where
  | nil : Units [] []
  | good (c : Nat) (r : List Nat) (us : List Unit8) : isScalarValue c → Units r us →
      Units (utf8 c ++ r) ({ bytes := utf8 c, point := some c } :: us)
  | bad (a : Nat) (r : List Nat) (us : List Unit8) : (∀ c, isScalarValue c → ¬ utf8 c <+: a :: r) → Units r us →
      Units (a :: r) ({ bytes := [a], point := none } :: us)

/-- Source bytes cut at special texts: the leftmost is taken first, and the longest of those at one place (R326). -/
inductive SpecialCut (sp : List (Nat × List Nat)) : List Nat → List Piece → Prop where
  | nil : SpecialCut sp [] []
  | special (id : Nat) (t r : List Nat) (ps : List Piece) : (id, t) ∈ sp → (∀ e ∈ sp, e.2 <+: t ++ r → e.2.length ≤ t.length) →
      SpecialCut sp r ps → SpecialCut sp (t ++ r) (.special id :: ps)
  | text (b r : List Nat) (ps : List Piece) : b ≠ [] → (∀ k, k < b.length → ∀ e ∈ sp, ¬ e.2 <+: (b ++ r).drop k) →
      (r = [] ∨ ∃ e ∈ sp, e.2 <+: r) → SpecialCut sp r ps → SpecialCut sp (b ++ r) (.text b :: ps)

/-- Two consecutive units stay in one chunk: both are code points, and no boundary falls between their classes (R326). -/
def Together (cs : List (Nat × Nat × Nat)) (x y : Unit8) : Prop :=
  ∃ a b, x.point = some a ∧ y.point = some b ∧
    let p := classOf cs a
    let q := classOf cs b
    p < 32 ∧ q < 32 ∧ (p = q ∨ (p = 1 ∧ 2 ≤ q ∧ q ≤ 31))

/-- The chunks of a list of units (R326). -/
structure PreSplit (cs : List (Nat × Nat × Nat)) (us : List Unit8) (chunks : List (List Unit8)) : Prop where
  all    : chunks.flatten = us
  inside : ∀ h ∈ chunks, h ≠ [] ∧ ∀ i x y, h[i]? = some x → h[i + 1]? = some y → Together cs x y
  apart  : ∀ i c d x y, chunks[i]? = some c → chunks[i + 1]? = some d → c.getLast? = some x → d.head? = some y → ¬ Together cs x y

/-- Bytes of the first `m` units. -/
def bytesBefore (c : List Unit8) (m : Nat) : Nat := ((c.take m).flatMap fun u => u.bytes).length

/-- A chunk cut every 256 bytes, each cut moved back to the start of the code point that it would split (R326). -/
structure Cuts (c : List Unit8) (parts : List (List Unit8)) : Prop where
  all : parts.flatten = c
  any : ∀ p ∈ parts, p ≠ []
  cut : ∀ m, 0 < m → m < c.length →
    ((∃ j, (parts.take j).flatten.length = m) ↔ ∃ k, 1 ≤ k ∧ bytesBefore c m ≤ 256 * k ∧ 256 * k < bytesBefore c (m + 1))

/-- Two ids stand side by side at place `i`. -/
def pairIs (ids : List Nat) (i x y : Nat) : Prop := ids[i]? = some x ∧ ids[i + 1]? = some y

/-- Ids merged by a table `look` until no pair has a merge: of the pairs with one, that of lowest rank goes first, the leftmost of equal ranks
(R326). -/
inductive MergesTo (look : Nat → Nat → Option (Nat × Nat) → Prop) : List Nat → List Nat → Prop where
  | done (ids : List Nat) : (∀ i x y, pairIs ids i x y → look x y none) → MergesTo look ids ids
  | step (a b out : List Nat) (x y rank id : Nat) : look x y (some (rank, id)) →
      (∀ i x' y', pairIs (a ++ x :: y :: b) i x' y' → ∃ o, look x' y' o ∧ ∀ r, o = some r → rank ≤ r.1 ∧ (r.1 = rank → a.length ≤ i)) →
      MergesTo look (a ++ id :: b) out → MergesTo look (a ++ x :: y :: b) out

/-- A reading of an image gives a result while memory holds what it holds in state `u`. -/
def Gives {α : Type} (u : State) (r : Reading α) (x : α) : Prop :=
  ∃ w w', w.mem.home = u.mem.home ∧ w.mem.host = u.mem.host ∧ r.run w = .ok (x, w')

/-- The ids of bytes between special texts. -/
def TextIds (cs : List (Nat × Nat × Nat)) (look : Nat → Nat → Option (Nat × Nat) → Prop) (b ids : List Nat) : Prop :=
  ∃ us chunks parts outs, Units b us ∧ PreSplit cs us chunks ∧ List.Forall₂ Cuts chunks parts ∧
    List.Forall₂ (fun (p : List Unit8) out => MergesTo look (p.flatMap fun u => u.bytes) out) parts.flatten outs ∧ ids = outs.flatten

/-- The ids that tkn makes of a source with the image at `voc`, whose header lies where its issue found it (R290, R326). -/
def Tokenised (u : State) (q : Asker) (voc : Nat) (head : List Spot) (specials : Bool) (src ids : List Nat) : Prop :=
  ∃ v sp cs pieces outs, Gives u (readVocab q voc head) v ∧ (if specials then Gives u (readSpecials q v) sp else sp = []) ∧
    Gives u (readClasses q v) cs ∧ SpecialCut sp src pieces ∧
    List.Forall₂ (fun (p : Piece) out => match p with
      | .special id => out = [id]
      | .text b => TextIds cs (fun l r o => Gives u (findMerge q v l r) o) b out) pieces outs ∧
    ids = outs.flatten

/-- The bytes of a sequence that has begun and is not complete, and the longest such suffix of at most three bytes (R329). -/
def IsOpen (h : List Nat) : Prop := h ≠ [] ∧ ∃ c, isScalarValue c ∧ h <+: utf8 c ∧ h ≠ utf8 c
structure IsHeld (p h : List Nat) : Prop where
  suffix  : h <:+ p
  short   : h.length ≤ 3
  isOpen  : h = [] ∨ IsOpen h
  longest : ∀ g, g <:+ p → g.length ≤ 3 → IsOpen g → g.length ≤ h.length

/-- Each byte of an ill-formed sequence is replaced by EF BF BD (R329). -/
def Repairs (b e : List Nat) : Prop :=
  ∃ us, Units b us ∧ e = us.flatMap fun u => if u.point = none then [0xEF, 0xBF, 0xBD] else u.bytes

/-- Text written through the pages of the output, after which what it reaches is tested (R299, R300). -/
def written (u : State) (q : Asker) (pages : List PageMap) (va : Nat) (e : List Nat) : State :=
  (u.writePages (some q.ctx) pages va (e.map fun b => (BitVec.ofNat 8 b, false))).2.settle

/-- One id of dtkn takes a stream and the state from `x` and `u` to `y` and `w` (R329). -/
def Appends (q : Asker) (v : Vocab) (pages : List PageMap) (base cap : Nat) (x : Stream) (u : State) (id : Nat × Bool) (y : Stream)
    (w : State) : Prop :=
  let z := { x with poison := x.poison || id.2 }
  let i := if id.2 then 0 else id.1
  if x.ended = true ∨ x.full = true then y = z ∧ w = u
  else if i = v.endId then y = { z with ended := true } ∧ w = u
  else if v.count ≤ i then y = { z with range := true } ∧ w = u
  else ∃ t u' h e, (tokenBytes q v i).run u = .ok (t, u') ∧ IsHeld (x.held ++ t) h ∧
    Repairs ((x.held ++ t).take ((x.held ++ t).length - h.length)) e ∧
    if cap < x.written + e.length then y = { z with full := true } ∧ w = u'
    else y = { z with held := h, written := x.written + e.length } ∧ w = written u' q pages (base + x.written) e

/-- The ids of a command, one after another. -/
inductive AppendsAll (q : Asker) (v : Vocab) (pages : List PageMap) (base cap : Nat) :
    Stream → State → List (Nat × Bool) → Stream → State → Prop where
  | nil (x : Stream) (u : State) : AppendsAll q v pages base cap x u [] x u
  | cons (x y z : Stream) (u v' w : State) (id : Nat × Bool) (r : List (Nat × Bool)) : Appends q v pages base cap x u id y v' →
      AppendsAll q v pages base cap y v' r z w → AppendsAll q v pages base cap x u (id :: r) z w

/-- The flush at the end, if there is one (R329). -/
def Flushed (flush : Bool) (q : Asker) (pages : List PageMap) (base cap : Nat) (x : Stream) (u : State) (y : Stream) (w : State) : Prop :=
  let e := x.held.flatMap fun _ => [0xEF, 0xBF, 0xBD]
  if flush = false then y = x ∧ w = u
  else if cap < x.written + e.length then y = { x with full := true, held := [] } ∧ w = u
  else y = { x with held := [], written := x.written + e.length } ∧ w = written u q pages (base + x.written) e

/-- A state block of 64 bytes holds a stream (R328). -/
structure BlockHolds (b : List Byte) (x : Stream) : Prop where
  size    : b.length = 64
  written : recNat b 12 4 = x.written % 2 ^ 32
  count   : recNat b 16 1 = x.held.length
  held    : ∀ i, i < x.held.length → recNat b (17 + i) 1 = x.held.getD i 0
  flags   : recNat b 20 1 % 16 = (if x.ended then 1 else 0) + (if x.full then 2 else 0) + (if x.range then 4 else 0) + if x.poison then 8 else 0

/-- What a dtkn leaves that completes from state `u` and names no counter (R329): the stream of its block is continued by its ids, and the block
is written last, its base, capacity and counter as they were. -/
def Detokenised (u : State) (lk : Nat) (w : Work) (x : State) : Prop :=
  ∀ ids pages count voc head flush block base cap bp op, w = .dtkn ids pages count voc head flush block base cap bp op →
    let q := u.engineAsker lk
    let b := (u.readPages bp block 64).map fun e => if e.2 then 0 else e.1
    let list := (List.range count).map fun i =>
      let e := u.readPages pages (ids + 4 * i) 4
      (leNat (e.map fun x => x.1), e.any fun x => x.2)
    recNat b 24 8 = 0 → b.length = 64 →
    ∃ v u1 u2 u3 x0 x1 x2 b', (readVocab q voc head).run (u.fillPages pages) = .ok (v, u1) ∧ BlockHolds b x0 ∧ x0.written = recNat b 12 4 ∧
      AppendsAll q v op base cap x0 u1 list x1 u2 ∧ Flushed flush q op base cap x1 u2 x2 u3 ∧
      BlockHolds b' x2 ∧ b'.take 12 = b.take 12 ∧ b'.drop 21 = b.drop 21 ∧
      x.mem.home = (u3.writePages (some q.ctx) bp block (b'.map fun y => (y, false))).2.mem.home

end Sys2Proof.Claims

section

open Sys2Proof Sys2Proof.Machine Sys2Proof.Claims

/-- R22 to R37, R29, R46, R47, R207, R273, R313, R324 to R329: a dispatch takes, of the items that the hosted logical cores may take, an aged one first,
then by class, by logical core in round robin, and in its queue by priority and arrival, and starts a firing with the registers of its pip, every other
register, predicate, guard, flag and mode and the accumulator as R25 has them; a
resumption lets a firing run again in the slot that it kept or in one that it takes anew; both with an empty L1; the limits of YLEFT and of a region attempt raise their faults; a wait's edges lead to the members,
the producer or the consumer that could end it; probes are counted, dropped at an edge that is gone or was met since, or with a wait that has ended, and
end the launch of the firing whose key comes back in that wait; a clock cycle ages the waits; the text engines take, start and write, the ids of tkn are
those of R326, and the text and the state block of dtkn those of R329. (The model's readings: edges to late members, log 16; where a long chunk is cut,
and that the held bytes stay as they were before an id whose text does not fit, log 18.) -/
def Obligations.SchedulingAndTextSteps : Prop :=
  ∀ (s : State),
    let n := s.subject.unit
    (∀ lk cls q i j, s.nextItem n = some (lk, cls, q, i) → (∀ m, q.source ≠ .yielded m) → s.freeContext lk = some j →
      (s.pcore n).halted = false → s.nextResume n = none → (s.pcore n).slot0 = { resident := none, busy := false } →
      (s.pcore n).slot1.resident ≠ some (2 * lk + j) → (s.firing (2 * lk + j)).away = false →
      ∃ t, exec .dispatch s = .next t ∧ (t.lc lk).starts = (s.lc lk).starts + 1 ∧ (t.pcore n).l1 = [] ∧
        let g := t.firing (2 * lk + j)
        let l := s.launch (lk / 65536)
        g.st = .running ∧ g.slot = some 0 ∧ g.pc = BitVec.ofNat 64 (fld q.pip.w0 47 0) ∧ g.yleft = l.bound ∧
        g.seqno = (s.lc lk).starts ∧ g.sreg 1 = q.pip.w1 ∧ g.sreg 2 = q.pip.w2 ∧
        g.sreg 4 = (if q.source = .entry then l.paramVA else 0) ∧
        g.sreg 5 = (if q.source = .entry then BitVec.ofNat 64 (s.lc lk).index else 0) ∧
        (∀ m : BitVec 6, m ≠ 1 → m ≠ 2 → m ≠ 4 → m ≠ 5 → g.sreg m = 0) ∧ g.flags = 0 ∧ g.service = false ∧
        (∀ m, g.vreg m = 0) ∧ (∀ m, g.kreg m = if m = 0 then BitVec.allOnes 512 else 0) ∧ (∀ x ∈ g.guards.toList, x = .isTrue) ∧ g.poly = Poly.one ∧
        g.round = 0 ∧ g.drawc = BitVec.ofNat 64 ((s.lc lk).starts.toNat * 2 ^ 32) ∧ g.prio = BitVec.ofNat 2 q.prio ∧ g.wait = .none ∧
        g.region.isOpen = false ∧
        g.cause = (s.firing (2 * lk + j)).cause ∧ g.epc = (s.firing (2 * lk + j)).epc ∧ g.faddr = (s.firing (2 * lk + j)).faddr) ∧
    (∀ fk, s.nextResume n = some fk → (s.firing fk).slot ≠ none → (s.pcore n).halted = false → fld (s.firing fk).regstat 2 0 ≠ 2 →
      ∃ t, exec .resumption s = .next t ∧ (t.firing fk).st = .running ∧ (t.firing fk).regs = (s.firing fk).regs ∧
        (t.firing fk).pc = (s.firing fk).pc ∧ (t.firing fk).wait = (s.firing fk).wait ∧ (t.pcore n).l1 = [] ∧ t.mem = s.mem) ∧
    (∀ fk k, s.nextResume n = some fk → (s.firing fk).slot = none → (s.firing fk).away = false → (s.pcore n).halted = false →
      fld (s.firing fk).regstat 2 0 ≠ 2 → TakesSlot (s.pcore n) fk k →
      ∃ t, exec .resumption s = .next t ∧ (t.firing fk).st = .running ∧ (t.firing fk).slot = some k ∧ (t.firing fk).regs = (s.firing fk).regs ∧
        (t.firing fk).pc = (s.firing fk).pc ∧ (t.firing fk).wait = (s.firing fk).wait ∧ (t.pcore n).l1 = [] ∧ t.mem = s.mem ∧
        (if k = 0 then (t.pcore n).slot0 else (t.pcore n).slot1) = { resident := some fk, busy := true }) ∧
    (∀ lk cls q i, s.nextItem n = some (lk, cls, q, i) → lk ∈ s.hosted n ∧ 1 ≤ cls ∧ cls ≤ 5 ∧ MayTake s lk cls i q ∧
      ∀ lk' cls' q' i', lk' ∈ s.hosted n → 1 ≤ cls' → cls' ≤ 5 → MayTake s lk' cls' i' q' →
        GoesBefore (s.hosted n) lk cls i q lk' cls' i' q') ∧
    (s.nextItem n = none → ∀ lk cls q i, lk ∈ s.hosted n → 1 ≤ cls → cls ≤ 5 → ¬ MayTake s lk cls i q) ∧
    ((∀ lk, lk ∈ s.hosted n ↔ ∃ c, (lk, c) ∈ s.lcores ∧ c.pcore = n ∧ (s.launch (lk / 65536)).ending = none) ∧
      (s.hosted n).Pairwise (fun x y => ¬ ((s.lc x).index < (s.pcore n).last ∧ (s.pcore n).last ≤ (s.lc y).index))) ∧
    (∀ i u, n = s.f.key → s.canIssue s.f = true → s.fetch = (.ok i, u) → u.f.refuses i = false →
      (u.f.yleft = 0 → Machine.Instr.endsRun i = false → exec .yieldDeadlineOverrun s = .next (u.takeFault 0x10 0 0 0)) ∧
      (u.f.yleft ≠ 0 → u.f.region.isOpen = true → 4096 ≤ u.f.region.retired → Machine.Instr.closesRegion i = false →
        exec .regionInstructionLimit s = .next (u.takeFault 0x0E 0 0 0))) ∧
    (let g := s.firing n
     g.st = .waiting → 65536 * (g.probes + 1) ≤ g.waited → s.edges g ≠ [] →
     ∃ t, exec .deadlockProbeSend s = .next t ∧ (t.firing n).probes = g.probes + 1 ∧ t.mem = s.mem ∧
       t.net.probes = s.net.probes ++ (s.edges g).map fun k =>
         { dev := s.pkg.device, lcore := (s.lc (n / 2)).index, ctxno := n % 2, fk := some n, target := k, waitNo := g.waitNo, edge := .wait n g.waitNo }) ∧
    (∀ g : Firing, g.st = .waiting →
      (∀ team gen m, g.wait = .barrier team gen → (m ∈ s.edges g ↔ ∃ x ∈ ((s.context (s.launch (g.key / 2 / 65536)).ctx).team team).members,
        x.lc = m ∧ x.arrived = false ∧ x.lc ≠ g.key / 2 ∧ (x.awaited = true ∨ ¬ WaitsIn s x.lc team))) ∧
      (∀ e x, g.wait = .need (.channelSpace e) → Tbl.find (s.lc (g.key / 2)).ends e = some x →
        s.edges g = [g.key / 2 / 65536 * 65536 + x.peer]) ∧
      (∀ pa va tg dst m, g.wait = .counter pa va tg dst → m ∈ s.edges g → ∃ k e x, (e, x) ∈ (s.lc k).ends ∧ k / 65536 = g.key / 2 / 65536 ∧
        pa = (s.lc k).counterPA ((if x.isIn then 496 else 480) + e) ∧ m = g.key / 2 / 65536 * 65536 + x.peer)) ∧
    (∀ p, s.net.probes[n]? = some p →
      (∀ k w, p.edge = .wait k w → ((s.firing k).waitNo ≠ w ∨ p.target ∉ s.edges (s.firing k)) →
        exec .deadlockProbeReceive s = .next { s with net := { s.net with probes := s.net.probes.eraseIdx n }, polled := true }) ∧
      (∀ ctx team r, p.edge = .team ctx team r → (((s.context ctx).team team).rounds ≠ r ∨
          ∀ x ∈ ((s.context ctx).team team).members, x.lc = p.target → x.arrived = true ∨ (x.awaited = false ∧ WaitsIn s x.lc team)) →
        exec .deadlockProbeReceive s = .next { s with net := { s.net with probes := s.net.probes.eraseIdx n }, polled := true }) ∧
      ((∀ j, j < 2 → (s.firing (2 * p.target + j)).waitNo ≠ p.waitNo) →
        ∃ t, exec .deadlockProbeReceive s = .next t ∧ t.launches = s.launches ∧ t.mem = s.mem) ∧
      (∀ k w fk l, p.edge = .wait k w → (s.firing k).waitNo = w → p.target ∈ s.edges (s.firing k) → fk = 2 * p.target + p.ctxno → p.ctxno < 2 → p.lcore = (s.lc p.target).index → p.dev = s.pkg.device →
        (p.fk = none ∨ p.fk = some fk) → p.waitNo = (s.firing fk).waitNo → (s.firing fk).st = .waiting → s.edges (s.firing fk) ≠ [] →
        (s.firing fk).region.isOpen = false → Tbl.find s.launches (p.target / 65536) = some l → l.ending = none →
        ∃ t x, exec .deadlockProbeReceive s = .next t ∧ Tbl.find t.launches (p.target / 65536) = some x ∧ x.ending = some 0x11)) ∧
    (s.pkg.power = .active → ∃ t, exec .arithmeticClockCycle s = .next t ∧ t.cycle = s.cycle + 1 ∧ t.mem = s.mem ∧
      t.f.regs = s.f.regs ∧ (∀ k, (t.firing k).waited = (s.firing k).waited + (if (s.firing k).st = .waiting then 1 else 0)) ∧
      ∀ k, (t.pcore k).ran = false ∧ (t.pcore k).skew = (s.pcore k).skew) ∧
    (∀ k, s.sendable n s.subject.item true = some k →
      let tok := k.work.isTkn
      let e := s.textEngineOf n
      (32 ≤ (s.textEngine tok e).queue.length → exec .textCommandAccept s = .next s) ∧
      ((s.textEngine tok e).queue.length < 32 → ∃ t, exec .textCommandAccept s = .next t ∧
        (t.textEngine tok e).queue = (s.textEngine tok e).queue ++ [(n, k)] ∧ (∀ x ∈ (t.lc n).copyq, x.order ≠ k.order) ∧
        t.mem = s.mem)) ∧
    (∀ lk k src pages len voc head sp chan ctr, (s.textEngine true n).queue.head? = some (lk, k) →
      k.work = .tkn src pages len voc head sp chan ctr → (s.textEngine true n).running = none → (s.lc lk).endHeld chan = false →
      let u := (s.modText true n fun x => { x with queue := x.queue.drop 1 })
      let b := u.readPages pages src len
      let r := (tokenise ((u.fillPages pages).engineAsker lk) voc head sp (b.map fun e => if e.2 then 0 else e.1.toNat)).run (u.fillPages pages)
      (∀ code, r = .error code → exec .tknStart s = .next ((u.fillPages pages).textFault lk k code)) ∧
      (∀ ids x, r = .ok (ids, x) → ∃ t, exec .tknStart s = .next t ∧
        (t.textEngine true n).running = some (lk, { k with started := true, poison := b.any fun e => e.2 }) ∧
        (t.textEngine true n).ids = ids.map (BitVec.ofNat 32) ∧
        Tokenised (u.fillPages pages) ((u.fillPages pages).engineAsker lk) voc head sp (b.map fun e => if e.2 then 0 else e.1.toNat) ids)) ∧
    (∀ lk k src pages len voc head sp chan ctr e, (s.textEngine true n).running = some (lk, k) →
      k.work = .tkn src pages len voc head sp chan ctr → Tbl.find (s.lc lk).ends chan = some e → e.moved - e.freed < 2 ^ e.logCap →
      (∀ y ∈ s.net.entries, ¬ (y.lc = lk / 65536 * 65536 + e.peer ∧ y.inEnd = e.peerEnd)) →
      (lk / 65536 * 65536 + e.peer ≠ lk ∨ e.peerEnd ≠ chan) →
      ∃ t x, exec .tknEntryWrite s = .next t ∧ Tbl.find (t.lc lk).ends chan = some x ∧ x.moved = e.moved + 1 ∧
        ((s.textEngine true n).ids.length ≤ 15 → (t.textEngine true n).running = none) ∧
        (15 < (s.textEngine true n).ids.length → (t.textEngine true n).ids = (s.textEngine true n).ids.drop 15)) ∧
    (∀ lk k, (s.textEngine false n).queue.head? = some (lk, k) → k.work.isTkn = false → (s.textEngine false n).running = none →
      let u := (s.modText false n fun x => { x with queue := x.queue.drop 1 })
      (∀ code, (dtknRun lk k).run u = .error code → exec .dtknStart s = .next (u.textFault lk k code)) ∧
      (∀ x, (dtknRun lk k).run u = .ok ((), x) → exec .dtknStart s = .next x.settle ∧ Detokenised u lk k.work x))

end

namespace Sys2Proof.Claims

open Sys2Proof Sys2Proof.Machine

/-! ## Registers while the clock is gated, the address-range table, page retirement and the mailbox -/

/-- A write of register words from an address on is held until the wake (R362). -/
def heldWrite (s : State) (pa : Nat) (ws : List Word) : Outcome :=
  .next { s with pkg := { s.pkg with
    heldWrites := s.pkg.heldWrites ++ [(false, BitVec.ofNat 64 pa, ws.flatMap fun w => leBytes 8 w.toNat)] } }

/-- The limits of R286 on an entry. -/
def LimitsKept (e : RangeEntry) : Prop :=
  let b := e.base.toNat
  let l := e.limit.toNat
  let j := fld e.ctl 29 24
  let n := fld e.ctl 14 8
  let f := fld e.ctl 6 0
  b < l ∧ b % 65536 = 0 ∧ l % 65536 = 0 ∧ b / 2 ^ 38 = (l - 1) / 2 ^ 38 ∧ f + n ≤ 96 ∧ 6 ≤ j ∧ j ≤ 30 ∧ 1 ≤ n ∧ n ≤ 96 ∧ f ≤ 95

/-- What the first word of a fault-address entry makes of the bad-page list, of what the driver is told and of what is reported only (R291, R345,
R346): an entry of kinds 1 to 4 on a frame of HBM that is not listed retires the frame. -/
def Retires (w : Word) (p q : Package) : Prop :=
  let kind := fld w 62 60
  let pa := fld w 47 0
  let retired := 1 ≤ kind ∧ kind ≤ 4 ∧ pa < 2 ^ 39 ∧ ∀ x ∈ p.badPages, fld x 38 16 ≠ pa / 65536
  (¬ retired → q.badPages = p.badPages ∧ q.told = p.told ∧ q.unrecorded = p.unrecorded) ∧
  (retired → ∃ b : Word, fld b 63 63 = 1 ∧ fld b 62 60 = (if kind ≤ 2 then 1 else kind - 1) ∧ fld b 59 39 = 0 ∧ fld b 38 16 = pa / 65536 ∧
    fld b 15 0 = 0 ∧
    (p.badPages.length < 4096 → q.badPages = p.badPages ++ [b] ∧ q.told = p.told ++ [b] ∧ q.unrecorded = p.unrecorded) ∧
    (4096 ≤ p.badPages.length → q.badPages = p.badPages ∧ q.told = p.told ∧ q.unrecorded = p.unrecorded ++ [b]))

/-- A replica's launch unit is held (R345, R348): by Hendeotte, or by a post whose hold stands. -/
abbrev Holds (x : Context) : Prop := x.held = true ∨ ∃ p ∈ x.posts, p.holds = true

/-- The same of the entries of a queue, one after another. -/
inductive RetiresAll : List Word → Package → Package → Prop where
  | nil (p q : Package) : q.badPages = p.badPages → q.told = p.told → q.unrecorded = p.unrecorded → RetiresAll [] p q
  | cons (w : Word) (r : List Word) (p m q : Package) : Retires w p m → RetiresAll r m q → RetiresAll (w :: r) p q

/-- Byte `i` of the device-to-host page (R360). -/
def mailByte (t : State) (i : Nat) : Nat := byteAt (Tbl.get 0 t.pkg.mailOut (i / 8)) (i % 8)

/-- The bytes of a reply of Hendeotte: those of the event, or an attestation report (R361): the nonce, the measurement of the image that runs, the
serial number, the version, and a signature over them. -/
def IsReply (s : State) (b : List Byte) : Prop :=
  s.subject.mail = .bytes b ∨
  ∃ nonce, s.subject.mail = .attestation nonce ∧ nonce.length = 48 ∧
    let body := nonce ++ leBytes 48 (Config.sha384 s.pkg.image.body).toNat ++ leBytes 16 Config.serialNumber.toNat ++
      leBytes 8 (Config.imageVersion s.pkg.image.body).toNat
    b = body ++ leBytes 96 (Config.identitySign body).toNat

end Sys2Proof.Claims

section

open Sys2Proof Sys2Proof.Machine Sys2Proof.Claims

/-- R38 to R42, R84, R253 to R256, R302, R338, R341, R362: of the eligible heads the launch unit takes one of the highest class, of those
the next in round robin after the one started last, and counts the others as passed over; it starts its launch with one entry pip for each logical
core, or rejects it, after which the round robin stands where it stood (R39); a launch whose firings and commands are done completes, and one that a
fault ended is removed; page faults are posted, resumed and refused by ticket; the queue, event and run-control registers act as their rules say, and a write of one that comes while the clock is gated is held.
What a queue register holds after a completion word is said of a context that is no driver context: in one, the word may itself write that
register (R155). (With which bits the control register is written then is the model's choice, log 21.) -/
def Obligations.LaunchUnitSteps : Prop :=
  ∀ (s : State),
    let n := s.subject.unit
    let i := s.subject.item
    let v := s.subject.value
    let x := (s.context n).queue i
    (s.lastStart ≤ 1024 → (s.nextHead = none ↔ s.eligible = []) ∧ ∀ e, s.nextHead = some e → e ∈ s.eligible ∧ ∀ e' ∈ s.eligible,
      let steps := fun (e : Nat × Nat × Except Nat Rec) => ((16 * e.1 + e.2.1 : Nat) - (s.lastStart : Int)) % 1024
      s.headClass e' < s.headClass e ∨ (s.headClass e' = s.headClass e ∧ steps e ≤ steps e')) ∧
    (∀ ctx q (r : Rec), s.headClass (ctx, q, .ok r) = Min.min 3 (r.prio + ((s.context ctx).queue q).raised)) ∧
    (∀ ctx q r, s.nextHead = some (ctx, q, r) → (s.contexts.map fun e => e.1).Nodup → ∃ u, exec .launchStart s = .next u ∧
      ((s.context ctx).root.getLsbD 1 = false → ∀ e ∈ s.eligible, (e.1, e.2.1) ≠ (ctx, q) →
        let y := (s.context e.1).queue e.2.1
        (u.context e.1).queue e.2.1 =
          if y.pass = 255 then { y with pass := 0, raised := Min.min 3 (y.raised + 1) } else { y with pass := y.pass + 1 })) ∧
    (∀ ctx q, (∀ va, s.nextHead = some (ctx, q, .error va) → s.eligible = [(ctx, q, .error va)] →
        ∃ u, exec .launchStart s = .next u ∧ ((u.context ctx).queue q).head = ((s.context ctx).queue q).head + 1 ∧
          (u.context ctx).faultAddr = BitVec.ofNat 64 va ∧ u.nextLaunch = s.nextLaunch ∧ u.lastStart = s.lastStart) ∧
      (∀ r ps, s.nextHead = some (ctx, q, .ok r) → s.eligible = [(ctx, q, .ok r)] → r.compl % 8 = 0 →
        s.unitLocate ctx true (pieces r.compl 8) = .ok ps →
        (∀ e, s.checkRecord ctx r = .error e → ∃ u, exec .launchStart s = .next u ∧
          ((u.context ctx).queue q).head = ((s.context ctx).queue q).head + 1 ∧ (u.context ctx).nextId = (s.context ctx).nextId ∧
          u.nextLaunch = s.nextLaunch ∧ u.lastStart = s.lastStart ∧ 64 + ctx ∈ u.pkg.msix) ∧
        (∀ p, s.checkRecord ctx r = .ok p → p.patches = [] → ∃ u l, exec .launchStart s = .next u ∧
          ((u.context ctx).queue q).head = ((s.context ctx).queue q).head + 1 ∧ u.nextLaunch = s.nextLaunch + 1 ∧ u.lastStart = 16 * ctx + q + 1 ∧
          (u.context ctx).nextId ≠ 0 ∧ Tbl.find u.launches s.nextLaunch = some l ∧ l.ctx = ctx ∧
          l.launchId = (s.context ctx).nextId ∧ l.ending = none ∧ r.gridX * r.gridY ≤ l.live ∧ l.codeVA = BitVec.ofNat 64 p.header.code ∧
          ∀ j, j < r.gridX * r.gridY →
            let c := u.lc (s.nextLaunch * 65536 + j)
            c.index = j ∧ c.seed = r.seed ∧ c.pcore = (p.places.getD j (0, 0, 0)).1 ∧
            ∃ e : QPip, c.pinned = [e] ∧ e.source = .entry ∧ fld e.pip.w0 47 0 = p.header.code + p.header.entry))) ∧
    (∀ l, Tbl.find s.launches n = some l → s.hasCommands n = false →
      (l.ending = none → l.live = 0 → s.net.puts = [] → s.mem.poison = [] → ∃ u, exec .launchCompletion s = .next u ∧
        Tbl.find u.launches n = none ∧ 64 + l.ctx ∈ u.pkg.msix ∧
        ((s.context l.ctx).root.getLsbD 1 = false → (u.context l.ctx).events = (s.context l.ctx).events ||| l.setMask)) ∧
      (∀ e, l.ending = some e → ∃ u, exec .launchEndByFault s = .next u ∧ Tbl.find u.launches n = none ∧ 64 + l.ctx ∈ u.pkg.msix)) ∧
    (let g := s.firing n
     let ctx := s.ctxOf n
     let c := s.context ctx
     g.st = .suspended → g.ticket = none → c.pfTail - c.pfHead ≠ 1024 → ∃ u a b, exec .pageFaultEntryPost s = .next u ∧
       (u.firing n).ticket = some c.pfNext ∧ (u.context ctx).pfTail = c.pfTail + 1 ∧ (u.context ctx).pfNext = c.pfNext + 1 ∧
       u.pkg.msix = s.pkg.msix ++ [64 + ctx] ∧ Tbl.find (u.context ctx).pfRing (c.pfTail.toNat % 1024) = some (a, b) ∧
       fld a 47 0 = g.pfAddr.toNat ∧ fld b 63 32 = c.pfNext.toNat ∧ fld b 31 30 = g.pfAccess.toNat ∧ fld b 29 29 = n % 2) ∧
    (s.pkg.power = .active →
      (s.ticketHolder n v = none → exec .pageFaultResume s = .next s ∧ exec .pageFaultRefuse s = .next s) ∧
      (∀ fk, s.ticketHolder n v = some fk →
        (∃ u, exec .pageFaultResume s = .next u ∧ (u.firing fk).st = .runnable ∧ (u.firing fk).ticket = none ∧
          (u.lc (fk / 2)).resume = (s.lc (fk / 2)).resume ++ [fk % 2]) ∧
        (∀ l, Tbl.find s.launches (fk / 2 / 65536) = some l → l.ending = none →
          ∃ u y, exec .pageFaultRefuse s = .next u ∧ Tbl.find u.launches (fk / 2 / 65536) = some y ∧ y.ending = some 0x08)) ∧
      (∃ u, exec .launchQueueTailWrite s = .next u ∧ (u.context n).queue i =
        if (v.truncate 32 - x.head).toNat ≤ 2 ^ x.size then { x with tail := v.truncate 32 } else { x with overrun := true }) ∧
      (∃ u, exec .launchQueueStop s = .next u ∧ (u.context n).queue i = { x with stop := true }) ∧
      (∃ u, exec .launchQueueRestart s = .next u ∧ (u.context n).queue i = { x with stop := false, stopped := false }) ∧
      (∃ u, exec .launchQueueOverrunClear s = .next u ∧ (u.context n).queue i = { x with overrun := false }) ∧
      (x.stopped = false → exec .launchQueueHeadWrite s = .next s) ∧
      (x.stopped = true → (v.truncate 32 - x.head).toNat ≤ (x.tail - x.head).toNat → ∃ u, exec .launchQueueHeadWrite s = .next u ∧
        ((s.context n).root.getLsbD 1 = false → ((u.context n).queue i).head = v.truncate 32 ∧ ((u.context n).queue i).tail = x.tail)) ∧
      (∃ u, exec .eventVectorSetWindowWrite s = .next u ∧ u.mem = s.mem ∧ ∀ k, k < 256 → (u.context n).events.getLsbD k =
        ((s.context n).events.getLsbD k || (decide (k / 64 = i % 4) && v.getLsbD (k % 64)))) ∧
      (∃ u, exec .eventVectorClearWindowWrite s = .next u ∧ u.mem = s.mem ∧ ∀ k, k < 256 → (u.context n).events.getLsbD k =
        ((s.context n).events.getLsbD k && !(decide (k / 64 = i % 4) && v.getLsbD (k % 64)))) ∧
      (v.getLsbD 0 = true → ∃ u, exec .runControlWrite s = .next u ∧ (u.pcore n).halted = false ∧ (u.pcore n).l1 = (s.pcore n).l1) ∧
      (v.getLsbD 0 = false → exec .runControlWrite s = .next s)) ∧
    (x.stop = true → x.stopped = false →
      ∃ u, exec .launchQueueStopped s = .next u ∧ (u.context n).queue i = { x with stopped := true }) ∧
    (s.pkg.power = .gated → n < 64 → i < 16 →
      let queue := 0x7F0000100000 + 1024 * n + 64 * i
      exec .launchQueueTailWrite s = heldWrite s (queue + 0x18) [v] ∧ exec .launchQueueHeadWrite s = heldWrite s (queue + 0x10) [v] ∧
      exec .launchQueueStop s = heldWrite s (queue + 8) [0x100] ∧ exec .launchQueueRestart s = heldWrite s (queue + 8) [0] ∧
      exec .launchQueueOverrunClear s = heldWrite s (queue + 8) [if x.stop then 0x500 else 0x400] ∧
      exec .pageFaultResume s = heldWrite s (0x7F0001000010 + 65536 * n) [v] ∧
      exec .pageFaultRefuse s = heldWrite s (0x7F0001000018 + 65536 * n) [v] ∧
      (i < 4 → exec .eventVectorSetWindowWrite s = heldWrite s (0x7F0000410000 + 32 * n + 8 * i) [v] ∧
        exec .eventVectorClearWindowWrite s = heldWrite s (0x7F0000420000 + 32 * n + 8 * i) [v])) ∧
    (s.pkg.power = .gated → n < 4096 → exec .runControlWrite s = heldWrite s (0x7F0000900000 + 8 * n) [v])

/-- R158, R161, R163, R286, R287, R290, R291, R345 to R349: an invalidation drops the cached translations of its range and is done when no command holds it; a
purge drops the lines of its range; the range table is closed while launches may run, and else takes the fields of R286, an entry that breaks its
limits being an error that holds no address; a register write acts, or is held while the clock is gated; page retirement makes of every entry of the
fault queue what R346 says; a walker, a fill of a line or of its missing halves, a scrub and the decisions of replicas, each step of posts by itself, do what their units do. (The
model's choices: a write of a register address that the manual does not name does nothing, log 9; when an invalidation begins and what it waits for,
log 11; that an entry whose frame is on the bad-page list already retires nothing, that an uncorrectable error that the scrubber finds marks its granule
poisoned, that the replicas' posts from elsewhere are the
event's data, and that a release on request lifts every hold of a context and leaves its posts to be decided, log 21; that each step of posts is
decided by itself, log 17.) -/
def Obligations.RegisterAndMemoryUnitSteps : Prop :=
  ∀ (s : State),
    let n := s.subject.unit
    let i := s.subject.item
    let v := s.subject.value
    (s.pkg.power = .active →
      (∃ u, exec .translationInvalidation s = .next u ∧ u.mem = s.mem ∧
        Tbl.find u.pkg.invals (n % 2) = some (i % 64, v, s.subject.value2, false) ∧
        (∀ t ∈ Tbl.get [] u.tcache (n % 2), t.meets (i % 64) v.toNat s.subject.value2.toNat = false) ∧
        (∀ p, dieOf p = n % 2 → ∀ t ∈ (u.pcore p).tbuf, t.meets (i % 64) v.toNat s.subject.value2.toNat = false)) ∧
      (∃ u, exec .l2Purge s = .next u ∧ u.pkg.purgeBusy = true ∧ u.mem.home = s.mem.home ∧
        ∀ e ∈ u.mem.l2, ¬ (v.toNat ≤ 64 * e.line + 63 ∧ 64 * e.line < v.toNat + s.subject.value2.toNat)) ∧
      (s.tableOpen = false → i % 4 < 3 → ∃ u, exec .addressRangeEntryWrite s = .next u ∧
        Tbl.get .fresh u.pkg.ranges (n % 64) = { Tbl.get .fresh s.pkg.ranges (n % 64) with error := true }) ∧
      (s.tableOpen = true → ∃ u, exec .addressRangeEntryWrite s = .next u ∧
        let e := Tbl.get .fresh s.pkg.ranges (n % 64)
        let y := Tbl.get .fresh u.pkg.ranges (n % 64)
        y.base = (if i % 4 = 0 then v &&& 0x7FFFFFFFFF else e.base) ∧ y.limit = (if i % 4 = 1 then v &&& 0x7FFFFFFFFF else e.limit) ∧
        (i % 4 = 2 → fld y.ctl 63 63 = fld v 63 63 ∧ fld y.ctl 29 24 = fld v 29 24 ∧ fld y.ctl 14 8 = fld v 14 8 ∧ fld y.ctl 6 0 = fld v 6 0) ∧
        (i % 4 ≠ 2 → y.ctl = e.ctl) ∧ (i % 4 < 3 → (y.error = true ↔ fld y.ctl 63 63 = 1 ∧ ¬ LimitsKept y)) ∧ (i % 4 = 3 → y = e) ∧
        ∀ k, k ≠ n % 64 → Tbl.get .fresh u.pkg.ranges k = Tbl.get .fresh s.pkg.ranges k) ∧
      (∀ (e : RangeEntry) (pa : Nat), e.holds pa = true ↔
        fld e.ctl 63 63 = 1 ∧ LimitsKept e ∧ e.base.toNat ≤ pa ∧ pa < e.limit.toNat) ∧
      exec .registerWrite s = .next (s.writeReg s.subject.yes v.toNat s.subject.value2).settle ∧
      (regBlock v.toNat = .plain → exec .registerWrite s = .next s.settle) ∧
      (let key := (i % 64, v.toNat / 65536)
       let walks := fun (t : State) => Tbl.get [] t.net.walks (dieOf n)
       n < 4096 →
        (key ∉ walks s → exec .translationWalk s = .next s) ∧
        (key ∈ walks s → ∃ u, exec .translationWalk s = .next u ∧ walks u = (walks s).erase key ∧ u.mem = s.mem ∧
          (∀ t, s.walk (i % 64) v.toNat = .ok t → t ∈ (u.pcore n).tbuf) ∧
          ((∀ t, s.walk (i % 64) v.toNat ≠ .ok t) → u.pcores = s.pcores ∧ u.tcache = s.tcache))) ∧
      (∀ g, Tbl.find s.pkg.scrubAt (stackOf (v.toNat / 64 * 64)) = some g → g ≠ v.toNat / 64 → exec .scrub s = .next s) ∧
      (isHbm (v.toNat / 64 * 64) = true → (∀ g, Tbl.find s.pkg.scrubAt (stackOf (v.toNat / 64 * 64)) = some g → g = v.toNat / 64) →
        (∃ u, exec .scrub s = .next u ∧ Tbl.find u.pkg.scrubAt (stackOf (v.toNat / 64 * 64)) = some (s.subject.value2.toNat / 64)) ∧
        (s.subject.finding = .clean → ∃ u, exec .scrub s = .next u ∧ u.mem = s.mem) ∧
        (s.subject.finding = .corrected → ∃ u, exec .scrub s = .next u ∧ u.mem.home = s.mem.home ∧ u.mem.poison = s.mem.poison) ∧
        (s.subject.finding = .uncorrectable → ∃ u, exec .scrub s = .next u ∧ u.mem.home = s.mem.home ∧ u.poisoned v.toNat = true ∧
          (s.pkg.fqTail - s.pkg.fqHead ≠ 256 → u.pkg.fqTail = s.pkg.fqTail + 1) ∧
          (s.pkg.fqTail - s.pkg.fqHead = 256 → u.pkg.fqTail = s.pkg.fqTail ∧ u.pkg.fqLost = s.pkg.fqLost + 1)))) ∧
    (s.pkg.power = .gated → exec .registerWrite s = .next { s with pkg := { s.pkg with
        heldWrites := s.pkg.heldWrites ++ [(s.subject.yes, BitVec.ofNat 64 v.toNat, leBytes 8 s.subject.value2.toNat)] } } ∧
      exec .l2Purge s = heldWrite s 0x7F0000200800 [v, s.subject.value2] ∧
      (n < 64 → i < 4 → exec .addressRangeEntryWrite s = heldWrite s (0x7F0000200000 + 32 * n + 8 * i) [v]) ∧
      (n < 2 → i < 64 → exec .translationInvalidation s =
        heldWrite s (0x7F0000301000 + 4096 * n) [BitVec.ofNat 64 i, v, s.subject.value2])) ∧
    (∀ ctx va len, Tbl.find s.pkg.invals n = some (ctx, va, len, false) → s.rangeInUse ctx va.toNat len.toNat = false →
      ∃ u, exec .invalidationDone s = .next u ∧ Tbl.find u.pkg.invals n = some (ctx, va, len, true) ∧ u.mem = s.mem) ∧
    (s.pkg.purgeBusy = true → exec .l2PurgeDone s = .next { s with pkg := { s.pkg with purgeBusy := false } }) ∧
    (s.pkg.power = .active → isHbm (2048 * n) = true → s.mscLine n = none → s.subject.finding = .clean → ∃ u e, exec .mscMissFill s = .next u ∧
      u.mscLine n = some e ∧ u.mem.home = s.mem.home ∧ u.mem.side = s.mem.side) ∧
    (∀ e, s.mscLine n = some e →
      (v &&& ~~~e.valid = 0 → exec .mscMissFill s = .next s) ∧
      (s.pkg.power = .active → isHbm (2048 * n) = true → v &&& ~~~e.valid ≠ 0 → ∃ u y, exec .mscMissFill s = .next u ∧ u.mscLine n = some y ∧
        y.valid = e.valid ||| v ∧ u.mem.home = s.mem.home ∧ u.mem.side = s.mem.side ∧
        ((v &&& ~~~e.valid).getLsbD (2 * (i % 32)) = true → s.subject.finding = .uncorrectable → u.poisoned (2048 * n + 64 * (i % 32)) = true))) ∧
    (s.pkg.power = .active ∨ s.pkg.power = .gated → ∃ u, exec .pageRetirement s = .next u ∧ u.pkg.fqHead = s.pkg.fqTail ∧ u.mem = s.mem ∧
      RetiresAll ((List.range (s.pkg.fqTail - s.pkg.fqHead).toNat).map fun k => (Tbl.get (0, 0) s.pkg.fqRing ((s.pkg.fqHead.toNat + k) % 256)).1)
        s.pkg u.pkg) ∧
    (s.subject.yes = true → Holds (s.context n) → ∃ u, exec .replicaDecision s = .next u ∧ ¬ Holds (u.context n) ∧
       ∀ step, (postOf (u.context n) step).map (fun p => p.digest) = (postOf (s.context n) step).map fun p => p.digest) ∧
    (let mine := s.replicas n
     let far := farPosts (s.subject.data.length / 16) s.subject.data
     ∀ own : List Post, s.subject.yes = false → replicaCount (s.context n).repSet ≠ 0 →
       mine.map (fun c => postOf (s.context c) v) = own.map some → mine.length + far.length = replicaCount (s.context n).repSet →
       (∀ p ∈ far, p.1 = v) →
       ∃ u, exec .replicaDecision s = .next u ∧ u.pkg.msix = s.pkg.msix ++ [2] ∧
         ∀ c ∈ mine, ∀ p, postOf (s.context c) v = some p →
           let won := majority (own.map (fun q => q.digest) ++ far.map fun q => q.2) = some p.digest
           (u.context c).held = (s.context c).held ∧ postOf (u.context c) v = none ∧
           (∀ q : Post, q.step ≠ v ∨ q.set ≠ (s.context c).repSet → (q ∈ (u.context c).posts ↔ q ∈ (s.context c).posts)) ∧
           (won → ∀ q ∈ (u.context c).posts, q.set = (s.context c).repSet → q.step = v → q ∈ (s.context c).posts ∧ q.decided = true) ∧
           (¬ won → { p with decided := true } ∈ (u.context c).posts)) ∧
    (let posted := ((s.replicas n).filter fun c => (postOf (s.context c) v).isSome).length
     (replicaCount (s.context n).repSet ≤ posted + i ∨ posted + i = 0 → exec .replicaTimeout s = .next s) ∧
     (replicaCount (s.context n).repSet ≠ 0 → (s.context n).repTimeout ≠ 0 → 0 < posted + i → posted + i < replicaCount (s.context n).repSet →
      ∃ u, exec .replicaTimeout s = .next u ∧ u.pkg.msix = s.pkg.msix ++ [2] ∧ u.contexts = s.contexts))

/-- R200, R201, R330, R331, R350 to R363: a BAR or CXL.mem leads to an address or to none; a host or Ethernet write enters device memory at the
memory-side cache, a register write of the host acts, and a host read returns what stands there; the mailbox doorbells, the bytes of a reply and the
ROM's failure code; a flit is left to the link, dropped, forwarded or delivered, the outcome of a
message to no send but that of its launch, core and ticket; ports train, lose lanes, take frames and send entries; the power
states and the temperature limits. (The model's choices: repeated flits, the second failure of a lane, the launch by which an outcome finds its send, the
ring's context and an entry that cannot be
read, log 20; what is held while the clock is gated, what a wake brings, and path 4, by which a host access has no address in device memory below 2^39,
log 21; the addresses 0x7F0000003000 and 0x7F0000003008 of the doorbells behind the mailbox pages, and with them the end of what the ROM serves, are
PRESUMED, log 9; the outside's bytes are the event's, log 6.) -/
def Obligations.HostPortAndPowerSteps : Prop :=
  ∀ (s : State),
    let n := s.subject.unit
    let v := s.subject.value
    let d := s.subject.data
    let i := s.subject.item
    (∀ k, let a := v.toNat
      (n = 0 → s.hostAddress k = if a + k ≤ 2 ^ 32 then some (0x7F0000000000 + a) else none) ∧
      (n = 2 → s.hostAddress k = if a + k ≤ 2 ^ s.pkg.bar2 then some (s.pkg.window.toNat + a) else none) ∧
      (n = 4 → s.hostAddress k = if 2 ^ 39 ≤ a ∧ a + k ≤ 2 ^ 64 then some a else none) ∧
      (n ≠ 0 → n ≠ 2 → n ≠ 4 → s.hostAddress k = if s.pkg.link.cxl ≠ 0 ∧ a + k ≤ 2 ^ 39 then some a else none)) ∧
    ((s.hostAddress d.length = none → exec .hostWrite s = .next s) ∧ (s.hostAddress i = none → exec .hostRead s = .next s)) ∧
    (∀ pa, s.hostAddress d.length = some pa →
      (s.pkg.power = .active → s.purging pa d.length = false →
        (s.hbmMapped pa = true → s.mem.poison = [] → d ≠ [] → pa % 64 + d.length ≤ 64 →
          ∃ u, exec .hostWrite s = .next u ∧ Stored s.mem.home u.mem.home pa d ∧ Mem.read u.mem.side pa d.length = d) ∧
        (isWindowPA pa = true → windowKind pa = 0 ∨ windowKind pa = 5 → s.mem.poison = [] → d ≠ [] → pa % 64 + d.length ≤ 64 →
          ∃ u, exec .hostWrite s = .next u ∧ Stored s.mem.home u.mem.home pa d) ∧
        (s.hbmMapped pa = false → isDeviceReg pa = false → ¬ (isWindowPA pa = true ∧ (windowKind pa = 0 ∨ windowKind pa = 5)) →
          pa % 64 + d.length ≤ 64 → ∃ u, exec .hostWrite s = .next u ∧ u.mem = s.mem) ∧
        (isDeviceReg pa = true → pa % 8 = 0 → d.length = 8 → exec .hostWrite s = .next (s.writeReg false pa (recWord d 0)).settle)) ∧
      (s.pkg.power = .gated → exec .hostWrite s =
        .next { s with pkg := { s.pkg with heldWrites := s.pkg.heldWrites ++ [(false, BitVec.ofNat 64 pa, d)] } })) ∧
    (s.pkg.power = .active → s.hbmMapped v.toNat = true → s.mem.poison = [] → s.purging v.toNat d.length = false → d ≠ [] →
      v.toNat % 64 + d.length ≤ 64 → ∃ u, exec .ethernetWrite s = .next u ∧ Stored s.mem.home u.mem.home v.toNat d ∧
        Mem.read u.mem.side v.toNat d.length = d) ∧
    (∀ pa, s.hostAddress i = some pa →
      (s.pkg.power = .active ∨ s.pkg.power = .gated → s.purging pa i = false → s.hbmMapped pa = true → s.poisoned pa = false →
        pa % 64 + i ≤ 64 → ∃ u, exec .hostRead s = .next u ∧ u.pkg.hostData = Mem.read s.mem.side pa i ∧
          u.mem.home = s.mem.home ∧ u.mem.side = s.mem.side) ∧
      (s.pkg.power = .active ∨ s.pkg.power = .gated → s.purging pa i = false → pa % 64 + i ≤ 64 → 0 < i →
        (isWindowPA pa = true → (windowKind pa = 0 ∨ windowKind pa = 1 ∨ windowKind pa = 5) → s.hbmMapped pa = false → s.poisoned pa = false →
          ∃ u, exec .hostRead s = .next u ∧ u.pkg.hostData = Mem.read s.mem.home pa i ∧ u.mem = s.mem) ∧
        (s.hbmMapped pa = false → isWindowPA pa = false → isDeviceReg pa = false →
          ∃ u, exec .hostRead s = .next u ∧ u.pkg.hostData = List.replicate i 0 ∧ u.mem = s.mem)) ∧
      (s.pkg.power = .rom → (0x7F0000001000 ≤ pa ∧ pa + i ≤ 0x7F0000003010 → ∃ u, exec .hostRead s = .next u ∧ u.mem.home = s.mem.home) ∧
        (pa < 0x7F0000001000 → exec .hostRead s = .next s))) ∧
    ((s.pkg.power = .active ∨ s.pkg.power = .rom →
       exec .hostMailboxDoorbell s = .next { s with pkg := { s.pkg with bellIn := v, request := true } }) ∧
     (s.pkg.power = .gated → exec .hostMailboxDoorbell s =
       .next { s with pkg := { s.pkg with heldWrites := s.pkg.heldWrites ++ [(false, 0x7F0000003000, leBytes 8 v.toNat)] } }) ∧
     (∀ b, s.pkg.power = .active ∨ s.pkg.power = .gated → IsReply s b → ∃ u, exec .deviceMailboxDoorbell s = .next u ∧
       (∀ k, k < 4096 → mailByte u k = if k < b.length then (b.getD k 0).toNat else mailByte s k) ∧
       u.pkg.bellOut = v ∧ u.pkg.request = false ∧ u.pkg.msix = s.pkg.msix ++ [0]) ∧
     (∀ c, s.pkg.power = .rom → s.subject.mail = .failure c → ∃ u, exec .deviceMailboxDoorbell s = .next u ∧ mailByte u 0 = c.toNat)) ∧
    (let f := s.subject.flit
     s.pkg.power = .active → n < 36 →
     (f.crc ≠ flitSum f ∨ f.number ≠ (s.rport n).expect → exec .ranvikFlitReceive s = .next s) ∧
     (f.crc = flitSum f → f.number = (s.rport n).expect →
       let known := f.kind ≠ 0 ∧ packetKind f.packet = f.kind.toNat ∧ f.vc.toNat = f.kind.toNat - 1
       (¬ known → ∃ u, exec .ranvikFlitReceive s = .next u ∧ u.pkg.dropped = s.pkg.dropped + 1 ∧ u.net = s.net ∧
         (u.rport n).expect = (s.rport n).expect + 1) ∧
       (known → f.dst ≠ s.pkg.device → ∃ u e, exec .ranvikFlitReceive s = .next u ∧
         u.net.flits = s.net.flits ++ [{ port := portToward s.pkg.device f, flit := f, entry := e }] ∧
         (u.rport n).expect = (s.rport n).expect + 1) ∧
       (known → f.dst = s.pkg.device →
         exec .ranvikFlitReceive s = .next ((s.modRPort n fun x => x.take f).deliverFlit f.src f.packet).settle ∧
         (∀ tag slc ticket code job, f.packet = .outcome tag slc ticket code job →
           (∀ e ∈ s.lcores, ∀ o ∈ e.2.outbound, ∀ m, e.1 / 65536 = job → e.2.index = slc.toNat → o.what = .far m f.src →
             m.ticket = ticket → o.decided = true) →
           exec .ranvikFlitReceive s = .next (s.modRPort n fun x => x.take f).settle) ∧
         (∀ tag va x ctr ps, f.packet = .write tag va x ctr ps → s.paired tag = none →
           ∃ u, exec .ranvikFlitReceive s = .next u ∧ u.pkg.dropped = s.pkg.dropped + 1 ∧ u.mem = s.mem) ∧
         (∀ tag va x ctx k p ts, f.packet = .write tag va x none false → s.paired tag = some (ctx, k) →
           s.locate (s.pairAsker ctx k) .put (pieces va.toNat x.length) = .ok ([p], ts) → p.win = none → p.attr.host = false →
           s.hbmMapped p.pa = true → s.mem.poison = [] → p.n = x.length → p.pa % 64 + x.length ≤ 64 →
           ∃ u, exec .ranvikFlitReceive s = .next u ∧ Stored s.mem.home u.mem.home p.pa x)))) ∧
    (s.pkg.power = .gated → n < 36 → s.subject.flit.crc ≠ flitSum s.subject.flit → exec .ranvikFlitReceive s = .next s.wake) ∧
    (s.pkg.power = .gated → s.pkg.heldWrites = [] → frameFits d = false → ∃ u, exec .textFrameReceive s = .next u ∧ u.pkg.power = .active ∧
      (u.port n).dropped = (s.port n).dropped + 1 ∧ u.mem = s.mem) ∧
    ((s.pkg.power = .active → n < 4 → s.subject.yes = true → (s.port n).spare = false ∨ (s.port n).calibrated = true →
       ∃ u, exec .laneFailure s = .next u ∧ (u.port n).spare = false ∧ (u.port n).rate = (s.port n).rate ∧
         u.pkg.lanesLost = s.pkg.lanesLost ++ [36 + n]) ∧
     (s.pkg.power = .active → n < 36 → s.subject.yes = false → (s.rport n).spare = false ∨ (s.rport n).calibrated = true →
       ∃ u, exec .laneFailure s = .next u ∧ (u.rport n).spare = false ∧ (u.rport n).rate = (s.rport n).rate ∧
         u.pkg.lanesLost = s.pkg.lanesLost ++ [n]) ∧
     (s.pkg.power ≠ .off → 5 ≤ n → 8 ≤ i → ∃ u, exec .linkTraining s = .next u ∧
       u.pkg.link = { gen := Min.min 7 n, width := if i < 16 then 8 else 16,
                      cxl := if 31 ≤ v.toNat then 31 else if 20 ≤ v.toNat then 20 else 0 }) ∧
     (s.pkg.power = .active → n < 36 → ∃ u, exec .ranvikPortTraining s = .next u ∧
       (u.rport n).rate = (if s.subject.yes then 224 else 112) ∧ (u.rport n).sent = 0 ∧ (u.rport n).expect = 0) ∧
     (s.pkg.power = .active → n < 4 → ∃ u, exec .ethernetPortTraining s = .next u ∧
       (u.port n).rate = if s.subject.yes then 800 else 400)) ∧
    (let x := s.port n
     let ctx := s.ringContext x
     let slot := x.rxNext % Max.max 1 x.rxSlots.toNat
     let dropped := ∃ u, exec .textFrameReceive s = .next u ∧ (u.port n).dropped = x.dropped + 1 ∧ u.mem = s.mem
     (s.pkg.power = .active →
       (frameFits d = false → dropped) ∧
       (∀ w, frameFits d = true → s.portRead ctx (x.slotVA slot) 8 = some w → leNat w ≠ 0 → dropped) ∧
       (∀ w y, frameFits d = true → s.portRead ctx (x.slotVA slot) 8 = some w → leNat w = 0 →
         s.portWrite ctx (x.slotVA slot) (d.take (64 + recNat d 22 2)) = some y →
         ∃ u, exec .textFrameReceive s = .next u ∧ (u.port n).rxNext = slot + 1)) ∧
     (x.notices ≠ [] → (x.tag.bind s.paired).isSome = true →
       exec .textNoticeResend s = .next (s.sendNotice n (v.truncate 16)).settle) ∧
     (∀ b, s.unitRead ctx x.doorbell.toNat 8 = .ok b → leNat b % 2 ^ 63 ≤ x.txSent → exec .transmitEntrySend s = .next s) ∧
     (∀ b, s.unitRead ctx x.doorbell.toNat 8 = .ok b → x.txSent < leNat b % 2 ^ 63 → leNat b < 2 ^ 64 →
       (∃ u, exec .transmitEntrySend s = .next u ∧ (u.port n).txSent = x.txSent + 1) ∧
       (∀ e, s.unitRead ctx (x.txRing.toNat + 32 * (x.txSent % Max.max 1 x.txCount.toNat)) 32 = .ok e →
         let len := recNat e 8 4
         let sound := 64 ≤ len ∧ len ≤ 8256 ∧ recNat e 24 8 = 0
         (¬ sound → ∃ u, exec .transmitEntrySend s = .next u ∧ u.pkg.frames = s.pkg.frames) ∧
         (∀ y, sound → s.portRead ctx (recNat e 0 8) len = some y → ∃ u, exec .transmitEntrySend s = .next u ∧
           u.pkg.frames = s.pkg.frames ++ [{ port := n, handle := BitVec.ofNat 32 (recNat e 12 4), data := y }])))) ∧
    ((s.pkg.power ≠ .off → ∃ u, exec .powerOff s = .next u ∧ u.pkg.power = .off ∧ u.pkg.badPages = s.pkg.badPages ∧
       u.pkg.flash = s.pkg.flash ∧ u.mem = { Memories.empty with host := s.mem.host } ∧ u.launches = [] ∧ u.contexts = []) ∧
     (let x := s.pkg.flash
      let genuine := Config.sha384 x.key = Config.fusedKeyHash ∧ Config.ecdsaVerify x.key (Config.sha384 x.body) x.signature = true
      s.pkg.power = .off → ∃ u, exec .powerOn s = .next u ∧ u.mem = s.mem ∧
        (genuine → u.pkg.power = .active ∧ u.pkg.absent = s.subject.boot.absentCores ∧
          u.pkg.deadStacks = s.subject.boot.failedStacks ∧ u.pkg.image = x ∧
          u.cycle = 0 ∧ (∀ k, (u.pcore k).skew = 0) ∧
          (∀ k, k < d.length → k < 4096 → mailByte u k = (d.getD k 0).toNat) ∧ u.pkg.msix = s.pkg.msix ++ [0]) ∧
        (¬ genuine → u.pkg.power = .rom)) ∧
     (s.pkg.power = .active → s.launches = [] → s.allCommands = [] → s.eligible = [] → s.net.flits = [] →
       (∀ e ∈ s.pkg.ports, e.2.notices = [] ∧ s.transmitDue e.2 = false) →
       exec .idleEntry s = .next { s with pkg := { s.pkg with power := .gated } }) ∧
     (s.pkg.power = .active → (∃ e ∈ s.pkg.ports, e.2.notices ≠ [] ∨ s.transmitDue e.2 = true) → exec .idleEntry s = .next s) ∧
     (s.pkg.power = .gated → s.subject.yes = true → s.pkg.heldWrites = [] → ∃ u, exec .wake s = .next u ∧ u.pkg.power = .active ∧
       u.mem = s.mem ∧ (∀ p, p < 36 → (u.rport p).calibrated = false) ∧ (∀ p, p < 4 → (u.port p).calibrated = false)) ∧
     (∀ m a b, s.pkg.power = .gated → s.pkg.heldWrites = [(m, a, b)] → exec .wake s =
       .next ((({ s with pkg := { s.pkg with power := .active, heldWrites := [] } } : State).uncalibrated).outsideWrite m a.toNat b).settle) ∧
     (s.pkg.power = .active ∨ s.pkg.power = .gated →
       (∃ u, exec .overTemperature s = .next u ∧ ∀ c, c < 64 → (u.context c).held = true) ∧
       exec .telemetryAlarm s = .next { s with pkg := { s.pkg with msix := s.pkg.msix ++ [3] } }) ∧
     (s.pkg.power ≠ .off → exec .criticalTemperature s = .next { s with pkg := { s.pkg with removePower := true } }))

end

namespace Sys2Proof.Claims

open Sys2Proof Sys2Proof.Machine

/-! ## Faults, steps, encodings, reset -/

/-- A region that R208 restarts instead of letting a fault be taken: open, of a code other than 0x08 and 0x10, with a line that changed. -/
def Restarts (s : State) (code : Code) : Prop :=
  s.f.region.isOpen = true ∧ code ≠ 0x08 ∧ code ≠ 0x10 ∧ ¬ StampsHold s s.f.region

/-- The instruction that may issue with YLEFT 0 (R29). -/
def endsItsRun : Instr → Prop
  | .done | .yield _ => True
  | _ => False

/-- The instruction that may be the 4,097th of an attempt (R207). -/
def closesAttempt : Instr → Prop
  | .rcommit _ _ | .rabort => True
  | _ => False

/-- The instruction raises a fault of number or mode before any other (R79, R95). -/
def RefusedFirst (s : State) : Instr → Prop
  | .srr _ n => unassigned n.toNat
  | .srw _ n => n.toNat ∉ [0x001, 0x002, 0x003, 0x004, 0x005, 0x030, 0x031, 0x034, 0x040] ∨
      (n.toNat ∈ [0x001, 0x002, 0x003] ∧ s.f.service = false)
  | .eret | .halt => s.f.service = false
  | .cpyt _ _ b c => (s.sreg c).getLsbD 41 = false ∧ 32 ≤ b.toNat
  | _ => False

/-- The instruction is a word that modifies the one behind it (R77), or a step of another agent. -/
def StandsAlone (i : Instr) : Prop := i.isEncoded = true ∧ ∀ s m o r z k, i ≠ .pfx s m o r z k

/-- A halfword at `va` lies in the code range and in one piece `p` of the device's memory that can be read, at the place in its line that `va` has. -/
structure CodeHalf (s : State) (va : Nat) (p : Spot) (ts : List Trans) : Prop where
  low    : s.job.codeVA.toNat ≤ va
  high   : va + 2 ≤ s.job.codeVA.toNat + s.job.codeLen
  spot   : s.locatePieces s.asker .fetch (pieces va 2) = .ok ([p], ts)
  bytes  : p.n = 2
  even   : va % 2 = 0
  line   : p.pa % 64 = va % 64
  device : p.host = false
  clean  : s.poisoned p.pa = false

/-- The fault of a rejected pattern (R76, R79); the decoder gives no word of two halfwords the last. -/
def faultOf : Reject → Code
  | .illegalEncoding => 0x01
  | .reservedField => 0x02
  | .misalignedGroup => 0x04
  | .tooShort => 0x06

/-- The firing of `t`, whose core has issued, takes this fault; and one of its own code, for which FADDR is 0. -/
def Faults (t : State) (e : Flt) (r : Outcome) : Prop := r = .next (t.takeTurn.takeFault e.code 0 (BitVec.ofNat 64 e.addr) e.acc)
def FaultsPlain (t : State) (c : Code) (r : Outcome) : Prop := r = .next (t.takeTurn.takeFault c 0 0 0)

/-- A word that a prefix may stand before (R78). -/
def Prefixable (w : BitVec 32) : Prop :=
  let m := (w.extractLsb' 1 6).toNat
  let c := (w.extractLsb' 26 6).toNat
  w.getLsbD 0 = true ∧ 0x13 ≤ m ∧ m ≤ 0x19 ∧ ¬ (m = 0x18 ∧ c = 2) ∧ ¬ (m = 0x19 ∧ 5 ≤ c ∧ c ≤ 9)

/-- What becomes of a prefix word `p` with reserved bits set, fetched in state `u`, that stands at `pc`: the next word is fetched, and its faults, its own
0x01 and the prefix's 0x03 come before the prefix's 0x02 (R77 to R79). -/
def BadPrefix (u : State) (pc : Nat) (p : BitVec 32) (r : Outcome) : Prop :=
  (∀ e, u.fetchHalf (pc + 4) = .error e → Faults u e r) ∧
  (∀ h t, u.fetchHalf (pc + 4) = .ok (h, t) →
    (h.getLsbD 0 = false → FaultsPlain t (if decode16 h = .error .illegalEncoding then 0x01 else 0x03) r) ∧
    (∀ e, h.getLsbD 0 = true → t.fetchHalf (pc + 6) = .error e → Faults t e r) ∧
    (∀ g x, h.getLsbD 0 = true → t.fetchHalf (pc + 6) = .ok (g, x) →
      let w : BitVec 32 := g ++ h
      (decode32 w = .error .illegalEncoding → FaultsPlain x 0x01 r) ∧
      (decode32 w ≠ .error .illegalEncoding → (¬ Prefixable w ∨ (p.extractLsb' 12 3).toNat = 6) → FaultsPlain x 0x03 r) ∧
      (decode32 w ≠ .error .illegalEncoding → Prefixable w → (p.extractLsb' 12 3).toNat ≠ 6 → FaultsPlain x 0x02 r)))

/-- A register field above 31 of a cpyt whose record lies in a vector register is fault 0x02 before its pair's 0x04 (R79). -/
def LateField (u : State) (w : BitVec 32) : Prop :=
  OfMajor w 0x1D ∧ (w.extractLsb' 28 4).toNat = 1 ∧ (u.sreg (fieldB w)).getLsbD 41 = false ∧ 32 ≤ (fieldA w).toNat

/-- The outcome `r` of the issue of the next instruction of the firing that issues in `s` (R71, R72, R76 to R79): a halfword or word that decodes runs as its
instruction, in a core that has issued; what cannot be fetched or decoded is a fault of the firing. -/
def IssuesNext (s : State) (r : Outcome) : Prop :=
  let pc := s.f.pc.toNat
  (∀ e, s.fetchHalf pc = .error e → Faults s e r) ∧
  (∀ h t, s.fetchHalf pc = .ok (h, t) →
    (∀ i, h.getLsbD 0 = false → decode16 h = .ok i → r = exec i t.takeTurn) ∧
    (∀ c, h.getLsbD 0 = false → decode16 h = .error c → FaultsPlain t (faultOf c) r) ∧
    (∀ e, h.getLsbD 0 = true → t.fetchHalf (pc + 2) = .error e → Faults t e r) ∧
    (∀ g u, h.getLsbD 0 = true → t.fetchHalf (pc + 2) = .ok (g, u) →
      let w : BitVec 32 := g ++ h
      (∀ i, decode32 w = .ok i → r = exec i u.takeTurn) ∧
      (∀ c, decode32 w = .error c →
        (OfMajor w 0x3F → BadPrefix u pc w r) ∧
        (¬ OfMajor w 0x3F → c = .misalignedGroup → LateField u w → FaultsPlain u 0x02 r) ∧
        (¬ OfMajor w 0x3F → ¬ (c = .misalignedGroup ∧ LateField u w) → FaultsPlain u (faultOf c) r))))

/-- The words that the spec writes out for some of its instructions, and what they stand for. -/
def exampleWords : List (BitVec 32 × Instr) :=
  [(0x00594481, .add 9 10 11), (0xFE012483, .addi 9 9 (-64)), (0xFF001091, .bne 4 0 (-4)), (0x1658050B, .draw 10 11),
   (0x2601038D, .fexp2 7 8), (0x0231241B, .ld 8 9 8), (0x0259239F, .stRel 7 9 1 1), (0x00200023, .fence 4),
   (0xC6594321, .amoaddFx64 6 10 11 3), (0x00512425, .put 8 9 10), (0x008122A7, .vld 5 9 2), (0x01926229, .vgather 6 4 6 9),
   (0x0D8C522D, .vfma 6 0 4 5 6), (0x25924631, .vsample 12 4 9), (0x098C5133, .vcmplt 6 2 5 6), (0x02010337, .rcommit 6 8),
   (0x3048A239, .mma 0 4 5 9), (0x0451243B, .cpy 2 8 9 10), (0x0400003D, .garm 2), (0x0021243F, .send 8 9 4),
   (0x00512441, .spawn 8 9 10), (0x005104C3, .tset 9 8 10), (0x00512445, .cwait 8 9 10), (0x00512447, .tkn 0 8 9 10),
   (0x20512447, .combineMaxi 8 9 10), (0x00040549, .srr 10 0x020), (0x20246049, .trap 0x123), (0x800419FF, .pfx 0 1 8 1 1 3)]

end Sys2Proof.Claims

section

open Sys2Proof Sys2Proof.Machine Sys2Proof.Claims

/-- R29, R79, R95, R206, R207: an instruction issues only from a firing that runs; with YLEFT 0 every instruction but done and yield is fault 0x10;
the 4,097th of a region attempt is fault 0x0E unless it closes the region; in an open region every forbidden instruction is fault 0x0E. A number that
srr or srw may not name, a register above 31 that cpyt names, and service mode are judged before these. That exec, called for a firing that does not run, answers
noFiring is the model's choice: the spec has no such call (log 1, DESIGN CHOICE). -/
def Obligations.FaultsOfIssue : Prop :=
  ∀ (s : State) (i : Instr), StandsAlone i →
    (s.f.st ≠ .running → exec i s = .fault .noFiring) ∧
    (s.f.st = .running → ¬ RefusedFirst s i →
      (s.f.yleft = 0 → ¬ endsItsRun i → exec i s = .next (s.takeFault 0x10 0 0 0)) ∧
      (s.f.yleft ≠ 0 → s.f.region.isOpen = true → 4096 ≤ s.f.region.retired → ¬ closesAttempt i →
        exec i s = .next (s.takeFault 0x0E 0 0 0)) ∧
      (Ready s → s.f.region.isOpen = true → s.job.regions = true → s.job.matrix = true → forbiddenInRegion i →
        exec i s = .next (s.takeFault 0x0E 0 0 0)))

/-- R42, R98, R208, R209, R210, R337: what taking a fault leaves. In an open region whose lines have changed the attempt starts again and no fault
is taken. Otherwise CAUSE, EPC and FADDR are written and no byte of memory; 0x08 suspends the firing, with a region's snapshot restored; every other code
ends the launch: all its firings stop, and it keeps the first code. -/
def Obligations.FaultEntry : Prop :=
  ∀ (s : State) (code : Code) (m : BitVec 12) (addr : Word) (acc : BitVec 2),
    let t := s.takeFault code m addr acc
    t.mem = s.mem ∧
    (Restarts s code → t = { s with f := t.f } ∧ t.f.regs = s.f.region.snap ∧ t.f.pc = s.f.region.resume ∧
      t.f.region.isOpen = true ∧ t.f.region.hold = [] ∧ t.f.region.reads = [] ∧ t.f.region.retired = 0 ∧
      fld t.f.regstat 2 0 = 1 ∧ fld t.f.regstat 31 16 = Min.min 65535 (fld s.f.regstat 31 16 + 1) ∧ t.f.vregs = s.f.vregs ∧
      t.f.cause = s.f.cause) ∧
    (¬ Restarts s code →
      fld (t.f.cause.zeroExtend 64) 5 0 = code.toNat ∧ fld (t.f.cause.zeroExtend 64) 19 8 = m.toNat ∧
      t.f.epc = s.f.pc.truncate 48 ∧ t.f.faddr = addr ∧ t.f.region.isOpen = false ∧ t.f.vregs = s.f.vregs ∧ t.f.kregs = s.f.kregs ∧
      t.f.flags = s.f.flags ∧ t.f.poly = s.f.poly ∧
      (code = 0x08 → t.f.st = .suspended ∧ t.f.slot = none ∧ t.f.pfAddr = addr.truncate 48 ∧ t.f.pfAccess = acc ∧
        t.launches = s.launches ∧
        (s.f.region.isOpen = true → t.f.regs = s.f.region.snap ∧ t.f.pc = s.f.region.resume ∧ t.f.yleft = s.f.region.yleft ∧
          fld t.f.regstat 2 0 = 2) ∧
        (s.f.region.isOpen = false → t.f.regs = s.f.regs ∧ t.f.pc = s.f.pc ∧ t.f.yleft = s.f.yleft)) ∧
      (code ≠ 0x08 → t.f.st = .free ∧ t.f.regs = s.f.regs ∧ t.f.pc = s.f.pc ∧
        (s.f.region.isOpen = true → fld t.f.regstat 2 0 = 6) ∧
        (∀ k, k ≠ s.myLaunch → Tbl.find t.launches k = Tbl.find s.launches k) ∧
        (∀ l, Tbl.find s.launches s.myLaunch = some l →
          (∃ x, Tbl.find t.launches s.myLaunch = some x ∧ x.ending = some (l.ending.getD code)) ∧
          (l.ending = none → ∀ k, k / 2 / 65536 = s.myLaunch → (t.firing k).st = .free))))

/-- R71, R72, R76 to R79: a step runs the decoded instruction. A halfword comes from the octave's instruction cache, or from memory when the cache holds no line
of it; a word of one or two halfwords that decodes is the instruction, and the step is its effect in a core that has issued in this cycle (R23); a word that
decodes to none is the fault 0x01, 0x02 or 0x04 of the firing, a prefix with reserved bits set being judged with the word behind it, and a field above 31 of
cpyt before its pair; one that cannot be fetched is the fault of its fetch. So it is on an empty agenda, and where the agenda names the firing that issues.
The bad prefix judged with its word and the field of cpyt before its pair are deduced, and that a cached line gives the halfwords that it was filled with is
the model's choice (all three log 13). Which move comes next is the model's choice (log 1): a slot that can be filled is filled first (R27, R33), then the agenda's move or, with none on it, an
instruction, a pending step of another unit, or a cycle of the clock; a move that cannot take place changes nothing. -/
def Obligations.StepRunsDecoded : Prop :=
  ∀ (s : State),
    (∀ va p ts, s.job.patches = [] → CodeHalf s va p ts → (∀ x ∈ (s.octave s.myOctave).icache, x.line ≠ p.pa / 64) →
      ∃ t, s.fetchHalf va = .ok (BitVec.ofNat 16 (leNat (Mem.read s.mem.home p.pa 2)), t) ∧
        t = { s with tcache := t.tcache, pcores := t.pcores, octaves := t.octaves }) ∧
    (∀ va p ts x, s.job.patches = [] → CodeHalf s va p ts → (s.octave s.myOctave).icache = [x] → x.host = false → x.line = p.pa / 64 →
      x.tag = none → x.misfits = 0 →
      ∃ t, s.fetchHalf va = .ok (x.data.extractLsb' (8 * (va % 64)) 16, t) ∧ t = { s with tcache := t.tcache, pcores := t.pcores }) ∧
    (s.agenda = [] → s.urgentMove = none → s.canIssue s.f = true → IssuesNext s (step s)) ∧
    (∀ i about rest, s.agenda = .event i about :: rest → s.urgentMove = none ∨ i = .dispatch ∨ i = .resumption →
      (i.isEncoded = false → s.permits i = true → step s = exec i { s with agenda := rest, subject := about }) ∧
      (i.isEncoded = true ∨ s.permits i = false → step s = .next { s with agenda := rest })) ∧
    (∀ h about rest, s.agenda = .happen h about :: rest → s.urgentMove = none →
      step s = ({ s with agenda := rest, subject := about } : State).happen h) ∧
    (∀ k rest, s.agenda = .issue k :: rest → s.urgentMove = none →
      let u := ({ s with agenda := rest } : State).turnTo k
      u.f = s.firing k ∧
      (u.canIssue u.f = false → step s = .next u) ∧ (u.canIssue u.f = true → IssuesNext u (step s))) ∧
    ((s.pkg.power = .active → s.urgentMove = none → ∀ e ∈ s.lcores, s.resumeDue e.2.pcore = false ∧ s.dispatchDue e.2.pcore = false) ∧
     (∀ d, s.urgentMove = some d → s.agenda = [] →
       ∃ p, (d = eventOn .resumption p 0 ∧ s.resumeDue p = true ∧ step s = exec .resumption { s with subject := { Subject.none with unit := p } }) ∨
         (d = eventOn .dispatch p 0 ∧ s.dispatchDue p = true ∧ step s = exec .dispatch { s with subject := { Subject.none with unit := p } })) ∧
     (s.agenda = [] → s.urgentMove = none → s.canIssue s.f = false → (∀ e ∈ s.firings, s.canIssue e.2 = false) →
       (∀ m, s.pending.find? s.takes = some m → step s = s.perform m) ∧
       (s.pkg.power = .active → (∀ m ∈ s.pending, s.takes m = false) → step s = exec .arithmeticClockCycle { s with subject := Subject.none })))

/-- R71 to R83: encoding and decoding are inverse. Each well-formed instruction is read back from its word, whatever bytes follow, and the bytes of
whatever is decoded are the word of that instruction, which is well-formed; so no bit of a word is without its meaning. -/
def Obligations.DecodeEncode : Prop :=
  (∀ (i : Instr) (rest : List Byte), i.isEncoded = true → i.wellFormed = true → decode ((encode i).bytes ++ rest) = .ok (i, rest)) ∧
  (∀ (bs rest : List Byte) (i : Instr), decode bs = .ok (i, rest) →
    bs = (encode i).bytes ++ rest ∧ i.isEncoded = true ∧ i.wellFormed = true)

/-- R71 to R83: words of the spec's examples and what they decode to; the halfword 0x0000 and words of unassigned majors are illegal, and a word of pclr
with a field that must be zero is rejected for that field. -/
def Obligations.DecodeWords : Prop :=
  (∀ e ∈ exampleWords, decode32 e.1 = .ok e.2) ∧ decode16 0x1C76 = .ok (.vaddF3216 0 3 7) ∧
  decode16 0x0000 = .error .illegalEncoding ∧ decode32 0x00080035 = .error .reservedField ∧
  (∀ w : BitVec 32, w.getLsbD 0 = true → 0x25 ≤ (w.extractLsb' 1 6).toNat → (w.extractLsb' 1 6).toNat ≤ 0x3E →
    decode32 w = .error .illegalEncoding)

/-- R19, R39, R99, R222, R254, R302, R313, R363: what the machine holds right after bring-up: no launch, firing or context in use, no command, message or
invalidation, memories that read zero (log 8), launch queues that are empty and running, register files as log 9 says. -/
def Obligations.ResetState : Prop :=
  let s := State.reset
  s.mem.wf = true ∧ (∀ a, Mem.get s.mem.home a = 0 ∧ Mem.get s.mem.host a = 0) ∧ s.mem.poison = [] ∧ s.launches = [] ∧
  (∀ k, (s.firing k).st = .free) ∧ s.cycle = 0 ∧ s.agenda = [] ∧ s.net = .empty ∧ s.pkg.power = .active ∧ s.pkg.softLimit = 8 ∧
  (∀ c q, let x := (s.context c).queue q; x.head = 0 ∧ x.tail = 0 ∧ x.stop = false ∧ x.overrun = false) ∧
  (∀ c, (s.context c).nextId = 1 ∧ (s.context c).weight = 1 ∧ (s.context c).events = 0) ∧
  (∀ k, (s.firing k).kregs[0] = BitVec.allOnes 512 ∧ ∀ m, (s.firing k).sreg m = 0) ∧
  completes (step s)

/-- Every step that gives a next state keeps every memory in its canonical form: addresses rise and no listed byte is the one that an unlisted address
reads as, so that equal memories are equal data (the model's own invariant, log 8). -/
def Obligations.StepKeepsMemoryForm : Prop :=
  ∀ (s t : State), s.mem.wf = true → step s = .next t → t.mem.wf = true

end
end

