-- ==== Sys2Proof/Laws/Table.lean ====
section
/-! SUPPORT. Laws of sparse tables: an entry reads what was set last, and the others are unchanged. -/

namespace Sys2Proof.Machine

theorem Tbl.find_set {α : Type} (t : Tbl α) (k j : Nat) (x : α) :
    Tbl.find (Tbl.set t k x) j = if j = k then some x else Tbl.find t j := by
  induction t with
  | nil => simp only [Tbl.set, Tbl.find]; grind
  | cons e r ih => obtain ⟨i, y⟩ := e; simp only [Tbl.set]; grind [Tbl.find]

@[simp] theorem Tbl.find_set_self {α : Type} (t : Tbl α) (k : Nat) (x : α) : Tbl.find (Tbl.set t k x) k = some x := by
  simp [Tbl.find_set]

theorem Tbl.find_set_ne {α : Type} (t : Tbl α) {k j : Nat} (x : α) (h : j ≠ k) :
    Tbl.find (Tbl.set t k x) j = Tbl.find t j := by
  simp [Tbl.find_set, h]

@[simp] theorem Tbl.get_set_self {α : Type} (d : α) (t : Tbl α) (k : Nat) (x : α) : Tbl.get d (Tbl.set t k x) k = x := by
  simp [Tbl.get]

theorem Tbl.get_set {α : Type} (d : α) (t : Tbl α) (k j : Nat) (x : α) :
    Tbl.get d (Tbl.set t k x) j = if j = k then x else Tbl.get d t j := by
  simp only [Tbl.get, Tbl.find_set]; split <;> rfl

theorem Tbl.get_set_ne {α : Type} (d : α) (t : Tbl α) {k j : Nat} (x : α) (h : j ≠ k) :
    Tbl.get d (Tbl.set t k x) j = Tbl.get d t j := by
  simp [Tbl.get_set, h]

theorem Tbl.find_erase {α : Type} (t : Tbl α) (k j : Nat) :
    Tbl.find (Tbl.erase t k) j = if j = k then none else Tbl.find t j := by
  unfold Tbl.erase
  induction t with
  | nil => simp [Tbl.find]
  | cons e r ih => obtain ⟨i, y⟩ := e; grind [Tbl.find]

@[simp] theorem Tbl.find_nil {α : Type} (k : Nat) : Tbl.find ([] : Tbl α) k = none := rfl
@[simp] theorem Tbl.get_nil {α : Type} (d : α) (k : Nat) : Tbl.get d ([] : Tbl α) k = d := rfl

end Sys2Proof.Machine
end

