-- ==== Sys2Proof/Laws/State.lean ====
section
/-! SUPPORT. What each update of one unit of the state leaves unchanged, and what reading the unit gives after it. -/

namespace Sys2Proof.Machine

open Sys2Proof

/-! ## setSreg -/

@[simp] theorem State.setSreg_firings (s : State) (d : BitVec 6) (v : Word) : (s.setSreg d v).firings = s.firings := rfl
@[simp] theorem State.setSreg_lcores (s : State) (d : BitVec 6) (v : Word) : (s.setSreg d v).lcores = s.lcores := rfl
@[simp] theorem State.setSreg_launches (s : State) (d : BitVec 6) (v : Word) : (s.setSreg d v).launches = s.launches := rfl
@[simp] theorem State.setSreg_nextLaunch (s : State) (d : BitVec 6) (v : Word) : (s.setSreg d v).nextLaunch = s.nextLaunch := rfl
@[simp] theorem State.setSreg_pcores (s : State) (d : BitVec 6) (v : Word) : (s.setSreg d v).pcores = s.pcores := rfl
@[simp] theorem State.setSreg_octaves (s : State) (d : BitVec 6) (v : Word) : (s.setSreg d v).octaves = s.octaves := rfl
@[simp] theorem State.setSreg_tasks (s : State) (d : BitVec 6) (v : Word) : (s.setSreg d v).tasks = s.tasks := rfl
@[simp] theorem State.setSreg_streamers (s : State) (d : BitVec 6) (v : Word) : (s.setSreg d v).streamers = s.streamers := rfl
@[simp] theorem State.setSreg_tokenisers (s : State) (d : BitVec 6) (v : Word) : (s.setSreg d v).tokenisers = s.tokenisers := rfl
@[simp] theorem State.setSreg_detokenisers (s : State) (d : BitVec 6) (v : Word) : (s.setSreg d v).detokenisers = s.detokenisers := rfl
@[simp] theorem State.setSreg_contexts (s : State) (d : BitVec 6) (v : Word) : (s.setSreg d v).contexts = s.contexts := rfl
@[simp] theorem State.setSreg_lastStart (s : State) (d : BitVec 6) (v : Word) : (s.setSreg d v).lastStart = s.lastStart := rfl
@[simp] theorem State.setSreg_mem (s : State) (d : BitVec 6) (v : Word) : (s.setSreg d v).mem = s.mem := rfl
@[simp] theorem State.setSreg_net (s : State) (d : BitVec 6) (v : Word) : (s.setSreg d v).net = s.net := rfl
@[simp] theorem State.setSreg_tcache (s : State) (d : BitVec 6) (v : Word) : (s.setSreg d v).tcache = s.tcache := rfl
@[simp] theorem State.setSreg_cycle (s : State) (d : BitVec 6) (v : Word) : (s.setSreg d v).cycle = s.cycle := rfl
@[simp] theorem State.setSreg_pkg (s : State) (d : BitVec 6) (v : Word) : (s.setSreg d v).pkg = s.pkg := rfl
@[simp] theorem State.setSreg_agenda (s : State) (d : BitVec 6) (v : Word) : (s.setSreg d v).agenda = s.agenda := rfl
@[simp] theorem State.setSreg_subject (s : State) (d : BitVec 6) (v : Word) : (s.setSreg d v).subject = s.subject := rfl
@[simp] theorem State.setSreg_polled (s : State) (d : BitVec 6) (v : Word) : (s.setSreg d v).polled = s.polled := rfl

/-! ## setVreg -/

@[simp] theorem State.setVreg_firings (s : State) (d : BitVec 5) (v : VWord) : (s.setVreg d v).firings = s.firings := rfl
@[simp] theorem State.setVreg_lcores (s : State) (d : BitVec 5) (v : VWord) : (s.setVreg d v).lcores = s.lcores := rfl
@[simp] theorem State.setVreg_launches (s : State) (d : BitVec 5) (v : VWord) : (s.setVreg d v).launches = s.launches := rfl
@[simp] theorem State.setVreg_nextLaunch (s : State) (d : BitVec 5) (v : VWord) : (s.setVreg d v).nextLaunch = s.nextLaunch := rfl
@[simp] theorem State.setVreg_pcores (s : State) (d : BitVec 5) (v : VWord) : (s.setVreg d v).pcores = s.pcores := rfl
@[simp] theorem State.setVreg_octaves (s : State) (d : BitVec 5) (v : VWord) : (s.setVreg d v).octaves = s.octaves := rfl
@[simp] theorem State.setVreg_tasks (s : State) (d : BitVec 5) (v : VWord) : (s.setVreg d v).tasks = s.tasks := rfl
@[simp] theorem State.setVreg_streamers (s : State) (d : BitVec 5) (v : VWord) : (s.setVreg d v).streamers = s.streamers := rfl
@[simp] theorem State.setVreg_tokenisers (s : State) (d : BitVec 5) (v : VWord) : (s.setVreg d v).tokenisers = s.tokenisers := rfl
@[simp] theorem State.setVreg_detokenisers (s : State) (d : BitVec 5) (v : VWord) : (s.setVreg d v).detokenisers = s.detokenisers := rfl
@[simp] theorem State.setVreg_contexts (s : State) (d : BitVec 5) (v : VWord) : (s.setVreg d v).contexts = s.contexts := rfl
@[simp] theorem State.setVreg_lastStart (s : State) (d : BitVec 5) (v : VWord) : (s.setVreg d v).lastStart = s.lastStart := rfl
@[simp] theorem State.setVreg_mem (s : State) (d : BitVec 5) (v : VWord) : (s.setVreg d v).mem = s.mem := rfl
@[simp] theorem State.setVreg_net (s : State) (d : BitVec 5) (v : VWord) : (s.setVreg d v).net = s.net := rfl
@[simp] theorem State.setVreg_tcache (s : State) (d : BitVec 5) (v : VWord) : (s.setVreg d v).tcache = s.tcache := rfl
@[simp] theorem State.setVreg_cycle (s : State) (d : BitVec 5) (v : VWord) : (s.setVreg d v).cycle = s.cycle := rfl
@[simp] theorem State.setVreg_pkg (s : State) (d : BitVec 5) (v : VWord) : (s.setVreg d v).pkg = s.pkg := rfl
@[simp] theorem State.setVreg_agenda (s : State) (d : BitVec 5) (v : VWord) : (s.setVreg d v).agenda = s.agenda := rfl
@[simp] theorem State.setVreg_subject (s : State) (d : BitVec 5) (v : VWord) : (s.setVreg d v).subject = s.subject := rfl
@[simp] theorem State.setVreg_polled (s : State) (d : BitVec 5) (v : VWord) : (s.setVreg d v).polled = s.polled := rfl

/-! ## setKreg -/

@[simp] theorem State.setKreg_firings (s : State) (d : BitVec 4) (v : PWord) : (s.setKreg d v).firings = s.firings := rfl
@[simp] theorem State.setKreg_lcores (s : State) (d : BitVec 4) (v : PWord) : (s.setKreg d v).lcores = s.lcores := rfl
@[simp] theorem State.setKreg_launches (s : State) (d : BitVec 4) (v : PWord) : (s.setKreg d v).launches = s.launches := rfl
@[simp] theorem State.setKreg_nextLaunch (s : State) (d : BitVec 4) (v : PWord) : (s.setKreg d v).nextLaunch = s.nextLaunch := rfl
@[simp] theorem State.setKreg_pcores (s : State) (d : BitVec 4) (v : PWord) : (s.setKreg d v).pcores = s.pcores := rfl
@[simp] theorem State.setKreg_octaves (s : State) (d : BitVec 4) (v : PWord) : (s.setKreg d v).octaves = s.octaves := rfl
@[simp] theorem State.setKreg_tasks (s : State) (d : BitVec 4) (v : PWord) : (s.setKreg d v).tasks = s.tasks := rfl
@[simp] theorem State.setKreg_streamers (s : State) (d : BitVec 4) (v : PWord) : (s.setKreg d v).streamers = s.streamers := rfl
@[simp] theorem State.setKreg_tokenisers (s : State) (d : BitVec 4) (v : PWord) : (s.setKreg d v).tokenisers = s.tokenisers := rfl
@[simp] theorem State.setKreg_detokenisers (s : State) (d : BitVec 4) (v : PWord) : (s.setKreg d v).detokenisers = s.detokenisers := rfl
@[simp] theorem State.setKreg_contexts (s : State) (d : BitVec 4) (v : PWord) : (s.setKreg d v).contexts = s.contexts := rfl
@[simp] theorem State.setKreg_lastStart (s : State) (d : BitVec 4) (v : PWord) : (s.setKreg d v).lastStart = s.lastStart := rfl
@[simp] theorem State.setKreg_mem (s : State) (d : BitVec 4) (v : PWord) : (s.setKreg d v).mem = s.mem := rfl
@[simp] theorem State.setKreg_net (s : State) (d : BitVec 4) (v : PWord) : (s.setKreg d v).net = s.net := rfl
@[simp] theorem State.setKreg_tcache (s : State) (d : BitVec 4) (v : PWord) : (s.setKreg d v).tcache = s.tcache := rfl
@[simp] theorem State.setKreg_cycle (s : State) (d : BitVec 4) (v : PWord) : (s.setKreg d v).cycle = s.cycle := rfl
@[simp] theorem State.setKreg_pkg (s : State) (d : BitVec 4) (v : PWord) : (s.setKreg d v).pkg = s.pkg := rfl
@[simp] theorem State.setKreg_agenda (s : State) (d : BitVec 4) (v : PWord) : (s.setKreg d v).agenda = s.agenda := rfl
@[simp] theorem State.setKreg_subject (s : State) (d : BitVec 4) (v : PWord) : (s.setKreg d v).subject = s.subject := rfl
@[simp] theorem State.setKreg_polled (s : State) (d : BitVec 4) (v : PWord) : (s.setKreg d v).polled = s.polled := rfl

/-! ## raiseFlags -/

@[simp] theorem State.raiseFlags_firings (s : State) (x : BitVec 5) : (s.raiseFlags x).firings = s.firings := rfl
@[simp] theorem State.raiseFlags_lcores (s : State) (x : BitVec 5) : (s.raiseFlags x).lcores = s.lcores := rfl
@[simp] theorem State.raiseFlags_launches (s : State) (x : BitVec 5) : (s.raiseFlags x).launches = s.launches := rfl
@[simp] theorem State.raiseFlags_nextLaunch (s : State) (x : BitVec 5) : (s.raiseFlags x).nextLaunch = s.nextLaunch := rfl
@[simp] theorem State.raiseFlags_pcores (s : State) (x : BitVec 5) : (s.raiseFlags x).pcores = s.pcores := rfl
@[simp] theorem State.raiseFlags_octaves (s : State) (x : BitVec 5) : (s.raiseFlags x).octaves = s.octaves := rfl
@[simp] theorem State.raiseFlags_tasks (s : State) (x : BitVec 5) : (s.raiseFlags x).tasks = s.tasks := rfl
@[simp] theorem State.raiseFlags_streamers (s : State) (x : BitVec 5) : (s.raiseFlags x).streamers = s.streamers := rfl
@[simp] theorem State.raiseFlags_tokenisers (s : State) (x : BitVec 5) : (s.raiseFlags x).tokenisers = s.tokenisers := rfl
@[simp] theorem State.raiseFlags_detokenisers (s : State) (x : BitVec 5) : (s.raiseFlags x).detokenisers = s.detokenisers := rfl
@[simp] theorem State.raiseFlags_contexts (s : State) (x : BitVec 5) : (s.raiseFlags x).contexts = s.contexts := rfl
@[simp] theorem State.raiseFlags_lastStart (s : State) (x : BitVec 5) : (s.raiseFlags x).lastStart = s.lastStart := rfl
@[simp] theorem State.raiseFlags_mem (s : State) (x : BitVec 5) : (s.raiseFlags x).mem = s.mem := rfl
@[simp] theorem State.raiseFlags_net (s : State) (x : BitVec 5) : (s.raiseFlags x).net = s.net := rfl
@[simp] theorem State.raiseFlags_tcache (s : State) (x : BitVec 5) : (s.raiseFlags x).tcache = s.tcache := rfl
@[simp] theorem State.raiseFlags_cycle (s : State) (x : BitVec 5) : (s.raiseFlags x).cycle = s.cycle := rfl
@[simp] theorem State.raiseFlags_pkg (s : State) (x : BitVec 5) : (s.raiseFlags x).pkg = s.pkg := rfl
@[simp] theorem State.raiseFlags_agenda (s : State) (x : BitVec 5) : (s.raiseFlags x).agenda = s.agenda := rfl
@[simp] theorem State.raiseFlags_subject (s : State) (x : BitVec 5) : (s.raiseFlags x).subject = s.subject := rfl
@[simp] theorem State.raiseFlags_polled (s : State) (x : BitVec 5) : (s.raiseFlags x).polled = s.polled := rfl

/-! ## retireTo -/

@[simp] theorem State.retireTo_firings (s : State) (pc : Word) : (s.retireTo pc).firings = s.firings := rfl
@[simp] theorem State.retireTo_lcores (s : State) (pc : Word) : (s.retireTo pc).lcores = s.lcores := rfl
@[simp] theorem State.retireTo_launches (s : State) (pc : Word) : (s.retireTo pc).launches = s.launches := rfl
@[simp] theorem State.retireTo_nextLaunch (s : State) (pc : Word) : (s.retireTo pc).nextLaunch = s.nextLaunch := rfl
@[simp] theorem State.retireTo_pcores (s : State) (pc : Word) : (s.retireTo pc).pcores = s.pcores := rfl
@[simp] theorem State.retireTo_octaves (s : State) (pc : Word) : (s.retireTo pc).octaves = s.octaves := rfl
@[simp] theorem State.retireTo_tasks (s : State) (pc : Word) : (s.retireTo pc).tasks = s.tasks := rfl
@[simp] theorem State.retireTo_streamers (s : State) (pc : Word) : (s.retireTo pc).streamers = s.streamers := rfl
@[simp] theorem State.retireTo_tokenisers (s : State) (pc : Word) : (s.retireTo pc).tokenisers = s.tokenisers := rfl
@[simp] theorem State.retireTo_detokenisers (s : State) (pc : Word) : (s.retireTo pc).detokenisers = s.detokenisers := rfl
@[simp] theorem State.retireTo_contexts (s : State) (pc : Word) : (s.retireTo pc).contexts = s.contexts := rfl
@[simp] theorem State.retireTo_lastStart (s : State) (pc : Word) : (s.retireTo pc).lastStart = s.lastStart := rfl
@[simp] theorem State.retireTo_mem (s : State) (pc : Word) : (s.retireTo pc).mem = s.mem := rfl
@[simp] theorem State.retireTo_net (s : State) (pc : Word) : (s.retireTo pc).net = s.net := rfl
@[simp] theorem State.retireTo_tcache (s : State) (pc : Word) : (s.retireTo pc).tcache = s.tcache := rfl
@[simp] theorem State.retireTo_cycle (s : State) (pc : Word) : (s.retireTo pc).cycle = s.cycle := rfl
@[simp] theorem State.retireTo_pkg (s : State) (pc : Word) : (s.retireTo pc).pkg = s.pkg := rfl
@[simp] theorem State.retireTo_agenda (s : State) (pc : Word) : (s.retireTo pc).agenda = s.agenda := rfl
@[simp] theorem State.retireTo_subject (s : State) (pc : Word) : (s.retireTo pc).subject = s.subject := rfl
@[simp] theorem State.retireTo_polled (s : State) (pc : Word) : (s.retireTo pc).polled = s.polled := rfl

/-! ## restart -/

@[simp] theorem State.restart_firings (s : State) : (s.restart).firings = s.firings := rfl
@[simp] theorem State.restart_lcores (s : State) : (s.restart).lcores = s.lcores := rfl
@[simp] theorem State.restart_launches (s : State) : (s.restart).launches = s.launches := rfl
@[simp] theorem State.restart_nextLaunch (s : State) : (s.restart).nextLaunch = s.nextLaunch := rfl
@[simp] theorem State.restart_pcores (s : State) : (s.restart).pcores = s.pcores := rfl
@[simp] theorem State.restart_octaves (s : State) : (s.restart).octaves = s.octaves := rfl
@[simp] theorem State.restart_tasks (s : State) : (s.restart).tasks = s.tasks := rfl
@[simp] theorem State.restart_streamers (s : State) : (s.restart).streamers = s.streamers := rfl
@[simp] theorem State.restart_tokenisers (s : State) : (s.restart).tokenisers = s.tokenisers := rfl
@[simp] theorem State.restart_detokenisers (s : State) : (s.restart).detokenisers = s.detokenisers := rfl
@[simp] theorem State.restart_contexts (s : State) : (s.restart).contexts = s.contexts := rfl
@[simp] theorem State.restart_lastStart (s : State) : (s.restart).lastStart = s.lastStart := rfl
@[simp] theorem State.restart_mem (s : State) : (s.restart).mem = s.mem := rfl
@[simp] theorem State.restart_net (s : State) : (s.restart).net = s.net := rfl
@[simp] theorem State.restart_tcache (s : State) : (s.restart).tcache = s.tcache := rfl
@[simp] theorem State.restart_cycle (s : State) : (s.restart).cycle = s.cycle := rfl
@[simp] theorem State.restart_pkg (s : State) : (s.restart).pkg = s.pkg := rfl
@[simp] theorem State.restart_agenda (s : State) : (s.restart).agenda = s.agenda := rfl
@[simp] theorem State.restart_subject (s : State) : (s.restart).subject = s.subject := rfl
@[simp] theorem State.restart_polled (s : State) : (s.restart).polled = s.polled := rfl

/-! ## setLc -/

@[simp] theorem State.setLc_f (s : State) (k : Nat) (c : LCore) : (s.setLc k c).f = s.f := rfl
@[simp] theorem State.setLc_firings (s : State) (k : Nat) (c : LCore) : (s.setLc k c).firings = s.firings := rfl
@[simp] theorem State.setLc_launches (s : State) (k : Nat) (c : LCore) : (s.setLc k c).launches = s.launches := rfl
@[simp] theorem State.setLc_nextLaunch (s : State) (k : Nat) (c : LCore) : (s.setLc k c).nextLaunch = s.nextLaunch := rfl
@[simp] theorem State.setLc_pcores (s : State) (k : Nat) (c : LCore) : (s.setLc k c).pcores = s.pcores := rfl
@[simp] theorem State.setLc_octaves (s : State) (k : Nat) (c : LCore) : (s.setLc k c).octaves = s.octaves := rfl
@[simp] theorem State.setLc_tasks (s : State) (k : Nat) (c : LCore) : (s.setLc k c).tasks = s.tasks := rfl
@[simp] theorem State.setLc_streamers (s : State) (k : Nat) (c : LCore) : (s.setLc k c).streamers = s.streamers := rfl
@[simp] theorem State.setLc_tokenisers (s : State) (k : Nat) (c : LCore) : (s.setLc k c).tokenisers = s.tokenisers := rfl
@[simp] theorem State.setLc_detokenisers (s : State) (k : Nat) (c : LCore) : (s.setLc k c).detokenisers = s.detokenisers := rfl
@[simp] theorem State.setLc_contexts (s : State) (k : Nat) (c : LCore) : (s.setLc k c).contexts = s.contexts := rfl
@[simp] theorem State.setLc_lastStart (s : State) (k : Nat) (c : LCore) : (s.setLc k c).lastStart = s.lastStart := rfl
@[simp] theorem State.setLc_mem (s : State) (k : Nat) (c : LCore) : (s.setLc k c).mem = s.mem := rfl
@[simp] theorem State.setLc_net (s : State) (k : Nat) (c : LCore) : (s.setLc k c).net = s.net := rfl
@[simp] theorem State.setLc_tcache (s : State) (k : Nat) (c : LCore) : (s.setLc k c).tcache = s.tcache := rfl
@[simp] theorem State.setLc_cycle (s : State) (k : Nat) (c : LCore) : (s.setLc k c).cycle = s.cycle := rfl
@[simp] theorem State.setLc_pkg (s : State) (k : Nat) (c : LCore) : (s.setLc k c).pkg = s.pkg := rfl
@[simp] theorem State.setLc_agenda (s : State) (k : Nat) (c : LCore) : (s.setLc k c).agenda = s.agenda := rfl
@[simp] theorem State.setLc_subject (s : State) (k : Nat) (c : LCore) : (s.setLc k c).subject = s.subject := rfl
@[simp] theorem State.setLc_polled (s : State) (k : Nat) (c : LCore) : (s.setLc k c).polled = s.polled := rfl

/-! ## modLc -/

@[simp] theorem State.modLc_f (s : State) (k : Nat) (h : LCore → LCore) : (s.modLc k h).f = s.f := rfl
@[simp] theorem State.modLc_firings (s : State) (k : Nat) (h : LCore → LCore) : (s.modLc k h).firings = s.firings := rfl
@[simp] theorem State.modLc_launches (s : State) (k : Nat) (h : LCore → LCore) : (s.modLc k h).launches = s.launches := rfl
@[simp] theorem State.modLc_nextLaunch (s : State) (k : Nat) (h : LCore → LCore) : (s.modLc k h).nextLaunch = s.nextLaunch := rfl
@[simp] theorem State.modLc_pcores (s : State) (k : Nat) (h : LCore → LCore) : (s.modLc k h).pcores = s.pcores := rfl
@[simp] theorem State.modLc_octaves (s : State) (k : Nat) (h : LCore → LCore) : (s.modLc k h).octaves = s.octaves := rfl
@[simp] theorem State.modLc_tasks (s : State) (k : Nat) (h : LCore → LCore) : (s.modLc k h).tasks = s.tasks := rfl
@[simp] theorem State.modLc_streamers (s : State) (k : Nat) (h : LCore → LCore) : (s.modLc k h).streamers = s.streamers := rfl
@[simp] theorem State.modLc_tokenisers (s : State) (k : Nat) (h : LCore → LCore) : (s.modLc k h).tokenisers = s.tokenisers := rfl
@[simp] theorem State.modLc_detokenisers (s : State) (k : Nat) (h : LCore → LCore) : (s.modLc k h).detokenisers = s.detokenisers := rfl
@[simp] theorem State.modLc_contexts (s : State) (k : Nat) (h : LCore → LCore) : (s.modLc k h).contexts = s.contexts := rfl
@[simp] theorem State.modLc_lastStart (s : State) (k : Nat) (h : LCore → LCore) : (s.modLc k h).lastStart = s.lastStart := rfl
@[simp] theorem State.modLc_mem (s : State) (k : Nat) (h : LCore → LCore) : (s.modLc k h).mem = s.mem := rfl
@[simp] theorem State.modLc_net (s : State) (k : Nat) (h : LCore → LCore) : (s.modLc k h).net = s.net := rfl
@[simp] theorem State.modLc_tcache (s : State) (k : Nat) (h : LCore → LCore) : (s.modLc k h).tcache = s.tcache := rfl
@[simp] theorem State.modLc_cycle (s : State) (k : Nat) (h : LCore → LCore) : (s.modLc k h).cycle = s.cycle := rfl
@[simp] theorem State.modLc_pkg (s : State) (k : Nat) (h : LCore → LCore) : (s.modLc k h).pkg = s.pkg := rfl
@[simp] theorem State.modLc_agenda (s : State) (k : Nat) (h : LCore → LCore) : (s.modLc k h).agenda = s.agenda := rfl
@[simp] theorem State.modLc_subject (s : State) (k : Nat) (h : LCore → LCore) : (s.modLc k h).subject = s.subject := rfl
@[simp] theorem State.modLc_polled (s : State) (k : Nat) (h : LCore → LCore) : (s.modLc k h).polled = s.polled := rfl

/-! ## setLaunch -/

@[simp] theorem State.setLaunch_f (s : State) (k : Nat) (l : Launch) : (s.setLaunch k l).f = s.f := rfl
@[simp] theorem State.setLaunch_firings (s : State) (k : Nat) (l : Launch) : (s.setLaunch k l).firings = s.firings := rfl
@[simp] theorem State.setLaunch_lcores (s : State) (k : Nat) (l : Launch) : (s.setLaunch k l).lcores = s.lcores := rfl
@[simp] theorem State.setLaunch_nextLaunch (s : State) (k : Nat) (l : Launch) : (s.setLaunch k l).nextLaunch = s.nextLaunch := rfl
@[simp] theorem State.setLaunch_pcores (s : State) (k : Nat) (l : Launch) : (s.setLaunch k l).pcores = s.pcores := rfl
@[simp] theorem State.setLaunch_octaves (s : State) (k : Nat) (l : Launch) : (s.setLaunch k l).octaves = s.octaves := rfl
@[simp] theorem State.setLaunch_tasks (s : State) (k : Nat) (l : Launch) : (s.setLaunch k l).tasks = s.tasks := rfl
@[simp] theorem State.setLaunch_streamers (s : State) (k : Nat) (l : Launch) : (s.setLaunch k l).streamers = s.streamers := rfl
@[simp] theorem State.setLaunch_tokenisers (s : State) (k : Nat) (l : Launch) : (s.setLaunch k l).tokenisers = s.tokenisers := rfl
@[simp] theorem State.setLaunch_detokenisers (s : State) (k : Nat) (l : Launch) : (s.setLaunch k l).detokenisers = s.detokenisers := rfl
@[simp] theorem State.setLaunch_contexts (s : State) (k : Nat) (l : Launch) : (s.setLaunch k l).contexts = s.contexts := rfl
@[simp] theorem State.setLaunch_lastStart (s : State) (k : Nat) (l : Launch) : (s.setLaunch k l).lastStart = s.lastStart := rfl
@[simp] theorem State.setLaunch_mem (s : State) (k : Nat) (l : Launch) : (s.setLaunch k l).mem = s.mem := rfl
@[simp] theorem State.setLaunch_net (s : State) (k : Nat) (l : Launch) : (s.setLaunch k l).net = s.net := rfl
@[simp] theorem State.setLaunch_tcache (s : State) (k : Nat) (l : Launch) : (s.setLaunch k l).tcache = s.tcache := rfl
@[simp] theorem State.setLaunch_cycle (s : State) (k : Nat) (l : Launch) : (s.setLaunch k l).cycle = s.cycle := rfl
@[simp] theorem State.setLaunch_pkg (s : State) (k : Nat) (l : Launch) : (s.setLaunch k l).pkg = s.pkg := rfl
@[simp] theorem State.setLaunch_agenda (s : State) (k : Nat) (l : Launch) : (s.setLaunch k l).agenda = s.agenda := rfl
@[simp] theorem State.setLaunch_subject (s : State) (k : Nat) (l : Launch) : (s.setLaunch k l).subject = s.subject := rfl
@[simp] theorem State.setLaunch_polled (s : State) (k : Nat) (l : Launch) : (s.setLaunch k l).polled = s.polled := rfl

/-! ## modLaunch -/

@[simp] theorem State.modLaunch_f (s : State) (k : Nat) (h : Launch → Launch) : (s.modLaunch k h).f = s.f := rfl
@[simp] theorem State.modLaunch_firings (s : State) (k : Nat) (h : Launch → Launch) : (s.modLaunch k h).firings = s.firings := rfl
@[simp] theorem State.modLaunch_lcores (s : State) (k : Nat) (h : Launch → Launch) : (s.modLaunch k h).lcores = s.lcores := rfl
@[simp] theorem State.modLaunch_nextLaunch (s : State) (k : Nat) (h : Launch → Launch) : (s.modLaunch k h).nextLaunch = s.nextLaunch := rfl
@[simp] theorem State.modLaunch_pcores (s : State) (k : Nat) (h : Launch → Launch) : (s.modLaunch k h).pcores = s.pcores := rfl
@[simp] theorem State.modLaunch_octaves (s : State) (k : Nat) (h : Launch → Launch) : (s.modLaunch k h).octaves = s.octaves := rfl
@[simp] theorem State.modLaunch_tasks (s : State) (k : Nat) (h : Launch → Launch) : (s.modLaunch k h).tasks = s.tasks := rfl
@[simp] theorem State.modLaunch_streamers (s : State) (k : Nat) (h : Launch → Launch) : (s.modLaunch k h).streamers = s.streamers := rfl
@[simp] theorem State.modLaunch_tokenisers (s : State) (k : Nat) (h : Launch → Launch) : (s.modLaunch k h).tokenisers = s.tokenisers := rfl
@[simp] theorem State.modLaunch_detokenisers (s : State) (k : Nat) (h : Launch → Launch) : (s.modLaunch k h).detokenisers = s.detokenisers := rfl
@[simp] theorem State.modLaunch_contexts (s : State) (k : Nat) (h : Launch → Launch) : (s.modLaunch k h).contexts = s.contexts := rfl
@[simp] theorem State.modLaunch_lastStart (s : State) (k : Nat) (h : Launch → Launch) : (s.modLaunch k h).lastStart = s.lastStart := rfl
@[simp] theorem State.modLaunch_mem (s : State) (k : Nat) (h : Launch → Launch) : (s.modLaunch k h).mem = s.mem := rfl
@[simp] theorem State.modLaunch_net (s : State) (k : Nat) (h : Launch → Launch) : (s.modLaunch k h).net = s.net := rfl
@[simp] theorem State.modLaunch_tcache (s : State) (k : Nat) (h : Launch → Launch) : (s.modLaunch k h).tcache = s.tcache := rfl
@[simp] theorem State.modLaunch_cycle (s : State) (k : Nat) (h : Launch → Launch) : (s.modLaunch k h).cycle = s.cycle := rfl
@[simp] theorem State.modLaunch_pkg (s : State) (k : Nat) (h : Launch → Launch) : (s.modLaunch k h).pkg = s.pkg := rfl
@[simp] theorem State.modLaunch_agenda (s : State) (k : Nat) (h : Launch → Launch) : (s.modLaunch k h).agenda = s.agenda := rfl
@[simp] theorem State.modLaunch_subject (s : State) (k : Nat) (h : Launch → Launch) : (s.modLaunch k h).subject = s.subject := rfl
@[simp] theorem State.modLaunch_polled (s : State) (k : Nat) (h : Launch → Launch) : (s.modLaunch k h).polled = s.polled := rfl

/-! ## modPCore -/

@[simp] theorem State.modPCore_f (s : State) (k : Nat) (h : PCore → PCore) : (s.modPCore k h).f = s.f := rfl
@[simp] theorem State.modPCore_firings (s : State) (k : Nat) (h : PCore → PCore) : (s.modPCore k h).firings = s.firings := rfl
@[simp] theorem State.modPCore_lcores (s : State) (k : Nat) (h : PCore → PCore) : (s.modPCore k h).lcores = s.lcores := rfl
@[simp] theorem State.modPCore_launches (s : State) (k : Nat) (h : PCore → PCore) : (s.modPCore k h).launches = s.launches := rfl
@[simp] theorem State.modPCore_nextLaunch (s : State) (k : Nat) (h : PCore → PCore) : (s.modPCore k h).nextLaunch = s.nextLaunch := rfl
@[simp] theorem State.modPCore_octaves (s : State) (k : Nat) (h : PCore → PCore) : (s.modPCore k h).octaves = s.octaves := rfl
@[simp] theorem State.modPCore_tasks (s : State) (k : Nat) (h : PCore → PCore) : (s.modPCore k h).tasks = s.tasks := rfl
@[simp] theorem State.modPCore_streamers (s : State) (k : Nat) (h : PCore → PCore) : (s.modPCore k h).streamers = s.streamers := rfl
@[simp] theorem State.modPCore_tokenisers (s : State) (k : Nat) (h : PCore → PCore) : (s.modPCore k h).tokenisers = s.tokenisers := rfl
@[simp] theorem State.modPCore_detokenisers (s : State) (k : Nat) (h : PCore → PCore) : (s.modPCore k h).detokenisers = s.detokenisers := rfl
@[simp] theorem State.modPCore_contexts (s : State) (k : Nat) (h : PCore → PCore) : (s.modPCore k h).contexts = s.contexts := rfl
@[simp] theorem State.modPCore_lastStart (s : State) (k : Nat) (h : PCore → PCore) : (s.modPCore k h).lastStart = s.lastStart := rfl
@[simp] theorem State.modPCore_mem (s : State) (k : Nat) (h : PCore → PCore) : (s.modPCore k h).mem = s.mem := rfl
@[simp] theorem State.modPCore_net (s : State) (k : Nat) (h : PCore → PCore) : (s.modPCore k h).net = s.net := rfl
@[simp] theorem State.modPCore_tcache (s : State) (k : Nat) (h : PCore → PCore) : (s.modPCore k h).tcache = s.tcache := rfl
@[simp] theorem State.modPCore_cycle (s : State) (k : Nat) (h : PCore → PCore) : (s.modPCore k h).cycle = s.cycle := rfl
@[simp] theorem State.modPCore_pkg (s : State) (k : Nat) (h : PCore → PCore) : (s.modPCore k h).pkg = s.pkg := rfl
@[simp] theorem State.modPCore_agenda (s : State) (k : Nat) (h : PCore → PCore) : (s.modPCore k h).agenda = s.agenda := rfl
@[simp] theorem State.modPCore_subject (s : State) (k : Nat) (h : PCore → PCore) : (s.modPCore k h).subject = s.subject := rfl
@[simp] theorem State.modPCore_polled (s : State) (k : Nat) (h : PCore → PCore) : (s.modPCore k h).polled = s.polled := rfl

/-! ## modContext -/

@[simp] theorem State.modContext_f (s : State) (k : Nat) (h : Context → Context) : (s.modContext k h).f = s.f := rfl
@[simp] theorem State.modContext_firings (s : State) (k : Nat) (h : Context → Context) : (s.modContext k h).firings = s.firings := rfl
@[simp] theorem State.modContext_lcores (s : State) (k : Nat) (h : Context → Context) : (s.modContext k h).lcores = s.lcores := rfl
@[simp] theorem State.modContext_launches (s : State) (k : Nat) (h : Context → Context) : (s.modContext k h).launches = s.launches := rfl
@[simp] theorem State.modContext_nextLaunch (s : State) (k : Nat) (h : Context → Context) : (s.modContext k h).nextLaunch = s.nextLaunch := rfl
@[simp] theorem State.modContext_pcores (s : State) (k : Nat) (h : Context → Context) : (s.modContext k h).pcores = s.pcores := rfl
@[simp] theorem State.modContext_octaves (s : State) (k : Nat) (h : Context → Context) : (s.modContext k h).octaves = s.octaves := rfl
@[simp] theorem State.modContext_tasks (s : State) (k : Nat) (h : Context → Context) : (s.modContext k h).tasks = s.tasks := rfl
@[simp] theorem State.modContext_streamers (s : State) (k : Nat) (h : Context → Context) : (s.modContext k h).streamers = s.streamers := rfl
@[simp] theorem State.modContext_tokenisers (s : State) (k : Nat) (h : Context → Context) : (s.modContext k h).tokenisers = s.tokenisers := rfl
@[simp] theorem State.modContext_detokenisers (s : State) (k : Nat) (h : Context → Context) : (s.modContext k h).detokenisers = s.detokenisers := rfl
@[simp] theorem State.modContext_lastStart (s : State) (k : Nat) (h : Context → Context) : (s.modContext k h).lastStart = s.lastStart := rfl
@[simp] theorem State.modContext_mem (s : State) (k : Nat) (h : Context → Context) : (s.modContext k h).mem = s.mem := rfl
@[simp] theorem State.modContext_net (s : State) (k : Nat) (h : Context → Context) : (s.modContext k h).net = s.net := rfl
@[simp] theorem State.modContext_tcache (s : State) (k : Nat) (h : Context → Context) : (s.modContext k h).tcache = s.tcache := rfl
@[simp] theorem State.modContext_cycle (s : State) (k : Nat) (h : Context → Context) : (s.modContext k h).cycle = s.cycle := rfl
@[simp] theorem State.modContext_pkg (s : State) (k : Nat) (h : Context → Context) : (s.modContext k h).pkg = s.pkg := rfl
@[simp] theorem State.modContext_agenda (s : State) (k : Nat) (h : Context → Context) : (s.modContext k h).agenda = s.agenda := rfl
@[simp] theorem State.modContext_subject (s : State) (k : Nat) (h : Context → Context) : (s.modContext k h).subject = s.subject := rfl
@[simp] theorem State.modContext_polled (s : State) (k : Nat) (h : Context → Context) : (s.modContext k h).polled = s.polled := rfl

/-! ## modOctave -/

@[simp] theorem State.modOctave_f (s : State) (k : Nat) (h : Octave → Octave) : (s.modOctave k h).f = s.f := rfl
@[simp] theorem State.modOctave_firings (s : State) (k : Nat) (h : Octave → Octave) : (s.modOctave k h).firings = s.firings := rfl
@[simp] theorem State.modOctave_lcores (s : State) (k : Nat) (h : Octave → Octave) : (s.modOctave k h).lcores = s.lcores := rfl
@[simp] theorem State.modOctave_launches (s : State) (k : Nat) (h : Octave → Octave) : (s.modOctave k h).launches = s.launches := rfl
@[simp] theorem State.modOctave_nextLaunch (s : State) (k : Nat) (h : Octave → Octave) : (s.modOctave k h).nextLaunch = s.nextLaunch := rfl
@[simp] theorem State.modOctave_pcores (s : State) (k : Nat) (h : Octave → Octave) : (s.modOctave k h).pcores = s.pcores := rfl
@[simp] theorem State.modOctave_tasks (s : State) (k : Nat) (h : Octave → Octave) : (s.modOctave k h).tasks = s.tasks := rfl
@[simp] theorem State.modOctave_streamers (s : State) (k : Nat) (h : Octave → Octave) : (s.modOctave k h).streamers = s.streamers := rfl
@[simp] theorem State.modOctave_tokenisers (s : State) (k : Nat) (h : Octave → Octave) : (s.modOctave k h).tokenisers = s.tokenisers := rfl
@[simp] theorem State.modOctave_detokenisers (s : State) (k : Nat) (h : Octave → Octave) : (s.modOctave k h).detokenisers = s.detokenisers := rfl
@[simp] theorem State.modOctave_contexts (s : State) (k : Nat) (h : Octave → Octave) : (s.modOctave k h).contexts = s.contexts := rfl
@[simp] theorem State.modOctave_lastStart (s : State) (k : Nat) (h : Octave → Octave) : (s.modOctave k h).lastStart = s.lastStart := rfl
@[simp] theorem State.modOctave_mem (s : State) (k : Nat) (h : Octave → Octave) : (s.modOctave k h).mem = s.mem := rfl
@[simp] theorem State.modOctave_net (s : State) (k : Nat) (h : Octave → Octave) : (s.modOctave k h).net = s.net := rfl
@[simp] theorem State.modOctave_tcache (s : State) (k : Nat) (h : Octave → Octave) : (s.modOctave k h).tcache = s.tcache := rfl
@[simp] theorem State.modOctave_cycle (s : State) (k : Nat) (h : Octave → Octave) : (s.modOctave k h).cycle = s.cycle := rfl
@[simp] theorem State.modOctave_pkg (s : State) (k : Nat) (h : Octave → Octave) : (s.modOctave k h).pkg = s.pkg := rfl
@[simp] theorem State.modOctave_agenda (s : State) (k : Nat) (h : Octave → Octave) : (s.modOctave k h).agenda = s.agenda := rfl
@[simp] theorem State.modOctave_subject (s : State) (k : Nat) (h : Octave → Octave) : (s.modOctave k h).subject = s.subject := rfl
@[simp] theorem State.modOctave_polled (s : State) (k : Nat) (h : Octave → Octave) : (s.modOctave k h).polled = s.polled := rfl

/-! ## modStreamer -/

@[simp] theorem State.modStreamer_f (s : State) (k : Nat) (h : Streamer → Streamer) : (s.modStreamer k h).f = s.f := rfl
@[simp] theorem State.modStreamer_firings (s : State) (k : Nat) (h : Streamer → Streamer) : (s.modStreamer k h).firings = s.firings := rfl
@[simp] theorem State.modStreamer_lcores (s : State) (k : Nat) (h : Streamer → Streamer) : (s.modStreamer k h).lcores = s.lcores := rfl
@[simp] theorem State.modStreamer_launches (s : State) (k : Nat) (h : Streamer → Streamer) : (s.modStreamer k h).launches = s.launches := rfl
@[simp] theorem State.modStreamer_nextLaunch (s : State) (k : Nat) (h : Streamer → Streamer) : (s.modStreamer k h).nextLaunch = s.nextLaunch := rfl
@[simp] theorem State.modStreamer_pcores (s : State) (k : Nat) (h : Streamer → Streamer) : (s.modStreamer k h).pcores = s.pcores := rfl
@[simp] theorem State.modStreamer_octaves (s : State) (k : Nat) (h : Streamer → Streamer) : (s.modStreamer k h).octaves = s.octaves := rfl
@[simp] theorem State.modStreamer_tasks (s : State) (k : Nat) (h : Streamer → Streamer) : (s.modStreamer k h).tasks = s.tasks := rfl
@[simp] theorem State.modStreamer_tokenisers (s : State) (k : Nat) (h : Streamer → Streamer) : (s.modStreamer k h).tokenisers = s.tokenisers := rfl
@[simp] theorem State.modStreamer_detokenisers (s : State) (k : Nat) (h : Streamer → Streamer) : (s.modStreamer k h).detokenisers = s.detokenisers := rfl
@[simp] theorem State.modStreamer_contexts (s : State) (k : Nat) (h : Streamer → Streamer) : (s.modStreamer k h).contexts = s.contexts := rfl
@[simp] theorem State.modStreamer_lastStart (s : State) (k : Nat) (h : Streamer → Streamer) : (s.modStreamer k h).lastStart = s.lastStart := rfl
@[simp] theorem State.modStreamer_mem (s : State) (k : Nat) (h : Streamer → Streamer) : (s.modStreamer k h).mem = s.mem := rfl
@[simp] theorem State.modStreamer_net (s : State) (k : Nat) (h : Streamer → Streamer) : (s.modStreamer k h).net = s.net := rfl
@[simp] theorem State.modStreamer_tcache (s : State) (k : Nat) (h : Streamer → Streamer) : (s.modStreamer k h).tcache = s.tcache := rfl
@[simp] theorem State.modStreamer_cycle (s : State) (k : Nat) (h : Streamer → Streamer) : (s.modStreamer k h).cycle = s.cycle := rfl
@[simp] theorem State.modStreamer_pkg (s : State) (k : Nat) (h : Streamer → Streamer) : (s.modStreamer k h).pkg = s.pkg := rfl
@[simp] theorem State.modStreamer_agenda (s : State) (k : Nat) (h : Streamer → Streamer) : (s.modStreamer k h).agenda = s.agenda := rfl
@[simp] theorem State.modStreamer_subject (s : State) (k : Nat) (h : Streamer → Streamer) : (s.modStreamer k h).subject = s.subject := rfl
@[simp] theorem State.modStreamer_polled (s : State) (k : Nat) (h : Streamer → Streamer) : (s.modStreamer k h).polled = s.polled := rfl

/-! ## setTaskQueue -/

@[simp] theorem State.setTaskQueue_f (s : State) (k : Nat) (l : List QPip) : (s.setTaskQueue k l).f = s.f := rfl
@[simp] theorem State.setTaskQueue_firings (s : State) (k : Nat) (l : List QPip) : (s.setTaskQueue k l).firings = s.firings := rfl
@[simp] theorem State.setTaskQueue_lcores (s : State) (k : Nat) (l : List QPip) : (s.setTaskQueue k l).lcores = s.lcores := rfl
@[simp] theorem State.setTaskQueue_launches (s : State) (k : Nat) (l : List QPip) : (s.setTaskQueue k l).launches = s.launches := rfl
@[simp] theorem State.setTaskQueue_nextLaunch (s : State) (k : Nat) (l : List QPip) : (s.setTaskQueue k l).nextLaunch = s.nextLaunch := rfl
@[simp] theorem State.setTaskQueue_pcores (s : State) (k : Nat) (l : List QPip) : (s.setTaskQueue k l).pcores = s.pcores := rfl
@[simp] theorem State.setTaskQueue_octaves (s : State) (k : Nat) (l : List QPip) : (s.setTaskQueue k l).octaves = s.octaves := rfl
@[simp] theorem State.setTaskQueue_streamers (s : State) (k : Nat) (l : List QPip) : (s.setTaskQueue k l).streamers = s.streamers := rfl
@[simp] theorem State.setTaskQueue_tokenisers (s : State) (k : Nat) (l : List QPip) : (s.setTaskQueue k l).tokenisers = s.tokenisers := rfl
@[simp] theorem State.setTaskQueue_detokenisers (s : State) (k : Nat) (l : List QPip) : (s.setTaskQueue k l).detokenisers = s.detokenisers := rfl
@[simp] theorem State.setTaskQueue_contexts (s : State) (k : Nat) (l : List QPip) : (s.setTaskQueue k l).contexts = s.contexts := rfl
@[simp] theorem State.setTaskQueue_lastStart (s : State) (k : Nat) (l : List QPip) : (s.setTaskQueue k l).lastStart = s.lastStart := rfl
@[simp] theorem State.setTaskQueue_mem (s : State) (k : Nat) (l : List QPip) : (s.setTaskQueue k l).mem = s.mem := rfl
@[simp] theorem State.setTaskQueue_net (s : State) (k : Nat) (l : List QPip) : (s.setTaskQueue k l).net = s.net := rfl
@[simp] theorem State.setTaskQueue_tcache (s : State) (k : Nat) (l : List QPip) : (s.setTaskQueue k l).tcache = s.tcache := rfl
@[simp] theorem State.setTaskQueue_cycle (s : State) (k : Nat) (l : List QPip) : (s.setTaskQueue k l).cycle = s.cycle := rfl
@[simp] theorem State.setTaskQueue_pkg (s : State) (k : Nat) (l : List QPip) : (s.setTaskQueue k l).pkg = s.pkg := rfl
@[simp] theorem State.setTaskQueue_agenda (s : State) (k : Nat) (l : List QPip) : (s.setTaskQueue k l).agenda = s.agenda := rfl
@[simp] theorem State.setTaskQueue_subject (s : State) (k : Nat) (l : List QPip) : (s.setTaskQueue k l).subject = s.subject := rfl
@[simp] theorem State.setTaskQueue_polled (s : State) (k : Nat) (l : List QPip) : (s.setTaskQueue k l).polled = s.polled := rfl

/-! ## raise -/

@[simp] theorem State.raise_f (s : State) (n : Nat) : (s.raise n).f = s.f := rfl
@[simp] theorem State.raise_firings (s : State) (n : Nat) : (s.raise n).firings = s.firings := rfl
@[simp] theorem State.raise_lcores (s : State) (n : Nat) : (s.raise n).lcores = s.lcores := rfl
@[simp] theorem State.raise_launches (s : State) (n : Nat) : (s.raise n).launches = s.launches := rfl
@[simp] theorem State.raise_nextLaunch (s : State) (n : Nat) : (s.raise n).nextLaunch = s.nextLaunch := rfl
@[simp] theorem State.raise_pcores (s : State) (n : Nat) : (s.raise n).pcores = s.pcores := rfl
@[simp] theorem State.raise_octaves (s : State) (n : Nat) : (s.raise n).octaves = s.octaves := rfl
@[simp] theorem State.raise_tasks (s : State) (n : Nat) : (s.raise n).tasks = s.tasks := rfl
@[simp] theorem State.raise_streamers (s : State) (n : Nat) : (s.raise n).streamers = s.streamers := rfl
@[simp] theorem State.raise_tokenisers (s : State) (n : Nat) : (s.raise n).tokenisers = s.tokenisers := rfl
@[simp] theorem State.raise_detokenisers (s : State) (n : Nat) : (s.raise n).detokenisers = s.detokenisers := rfl
@[simp] theorem State.raise_contexts (s : State) (n : Nat) : (s.raise n).contexts = s.contexts := rfl
@[simp] theorem State.raise_lastStart (s : State) (n : Nat) : (s.raise n).lastStart = s.lastStart := rfl
@[simp] theorem State.raise_mem (s : State) (n : Nat) : (s.raise n).mem = s.mem := rfl
@[simp] theorem State.raise_net (s : State) (n : Nat) : (s.raise n).net = s.net := rfl
@[simp] theorem State.raise_tcache (s : State) (n : Nat) : (s.raise n).tcache = s.tcache := rfl
@[simp] theorem State.raise_cycle (s : State) (n : Nat) : (s.raise n).cycle = s.cycle := rfl
@[simp] theorem State.raise_agenda (s : State) (n : Nat) : (s.raise n).agenda = s.agenda := rfl
@[simp] theorem State.raise_subject (s : State) (n : Nat) : (s.raise n).subject = s.subject := rfl
@[simp] theorem State.raise_polled (s : State) (n : Nat) : (s.raise n).polled = s.polled := rfl

/-! ## setFiring -/

@[simp] theorem State.setFiring_lcores (s : State) (k : Nat) (g : Firing) : (s.setFiring k g).lcores = s.lcores := by unfold State.setFiring; split <;> rfl
@[simp] theorem State.setFiring_launches (s : State) (k : Nat) (g : Firing) : (s.setFiring k g).launches = s.launches := by unfold State.setFiring; split <;> rfl
@[simp] theorem State.setFiring_nextLaunch (s : State) (k : Nat) (g : Firing) : (s.setFiring k g).nextLaunch = s.nextLaunch := by unfold State.setFiring; split <;> rfl
@[simp] theorem State.setFiring_pcores (s : State) (k : Nat) (g : Firing) : (s.setFiring k g).pcores = s.pcores := by unfold State.setFiring; split <;> rfl
@[simp] theorem State.setFiring_octaves (s : State) (k : Nat) (g : Firing) : (s.setFiring k g).octaves = s.octaves := by unfold State.setFiring; split <;> rfl
@[simp] theorem State.setFiring_tasks (s : State) (k : Nat) (g : Firing) : (s.setFiring k g).tasks = s.tasks := by unfold State.setFiring; split <;> rfl
@[simp] theorem State.setFiring_streamers (s : State) (k : Nat) (g : Firing) : (s.setFiring k g).streamers = s.streamers := by unfold State.setFiring; split <;> rfl
@[simp] theorem State.setFiring_tokenisers (s : State) (k : Nat) (g : Firing) : (s.setFiring k g).tokenisers = s.tokenisers := by unfold State.setFiring; split <;> rfl
@[simp] theorem State.setFiring_detokenisers (s : State) (k : Nat) (g : Firing) : (s.setFiring k g).detokenisers = s.detokenisers := by unfold State.setFiring; split <;> rfl
@[simp] theorem State.setFiring_contexts (s : State) (k : Nat) (g : Firing) : (s.setFiring k g).contexts = s.contexts := by unfold State.setFiring; split <;> rfl
@[simp] theorem State.setFiring_lastStart (s : State) (k : Nat) (g : Firing) : (s.setFiring k g).lastStart = s.lastStart := by unfold State.setFiring; split <;> rfl
@[simp] theorem State.setFiring_mem (s : State) (k : Nat) (g : Firing) : (s.setFiring k g).mem = s.mem := by unfold State.setFiring; split <;> rfl
@[simp] theorem State.setFiring_net (s : State) (k : Nat) (g : Firing) : (s.setFiring k g).net = s.net := by unfold State.setFiring; split <;> rfl
@[simp] theorem State.setFiring_tcache (s : State) (k : Nat) (g : Firing) : (s.setFiring k g).tcache = s.tcache := by unfold State.setFiring; split <;> rfl
@[simp] theorem State.setFiring_cycle (s : State) (k : Nat) (g : Firing) : (s.setFiring k g).cycle = s.cycle := by unfold State.setFiring; split <;> rfl
@[simp] theorem State.setFiring_pkg (s : State) (k : Nat) (g : Firing) : (s.setFiring k g).pkg = s.pkg := by unfold State.setFiring; split <;> rfl
@[simp] theorem State.setFiring_agenda (s : State) (k : Nat) (g : Firing) : (s.setFiring k g).agenda = s.agenda := by unfold State.setFiring; split <;> rfl
@[simp] theorem State.setFiring_subject (s : State) (k : Nat) (g : Firing) : (s.setFiring k g).subject = s.subject := by unfold State.setFiring; split <;> rfl
@[simp] theorem State.setFiring_polled (s : State) (k : Nat) (g : Firing) : (s.setFiring k g).polled = s.polled := by unfold State.setFiring; split <;> rfl

/-! ## modFiring -/

@[simp] theorem State.modFiring_lcores (s : State) (k : Nat) (h : Firing → Firing) : (s.modFiring k h).lcores = s.lcores := State.setFiring_lcores s k _
@[simp] theorem State.modFiring_launches (s : State) (k : Nat) (h : Firing → Firing) : (s.modFiring k h).launches = s.launches := State.setFiring_launches s k _
@[simp] theorem State.modFiring_nextLaunch (s : State) (k : Nat) (h : Firing → Firing) : (s.modFiring k h).nextLaunch = s.nextLaunch := State.setFiring_nextLaunch s k _
@[simp] theorem State.modFiring_pcores (s : State) (k : Nat) (h : Firing → Firing) : (s.modFiring k h).pcores = s.pcores := State.setFiring_pcores s k _
@[simp] theorem State.modFiring_octaves (s : State) (k : Nat) (h : Firing → Firing) : (s.modFiring k h).octaves = s.octaves := State.setFiring_octaves s k _
@[simp] theorem State.modFiring_tasks (s : State) (k : Nat) (h : Firing → Firing) : (s.modFiring k h).tasks = s.tasks := State.setFiring_tasks s k _
@[simp] theorem State.modFiring_streamers (s : State) (k : Nat) (h : Firing → Firing) : (s.modFiring k h).streamers = s.streamers := State.setFiring_streamers s k _
@[simp] theorem State.modFiring_tokenisers (s : State) (k : Nat) (h : Firing → Firing) : (s.modFiring k h).tokenisers = s.tokenisers := State.setFiring_tokenisers s k _
@[simp] theorem State.modFiring_detokenisers (s : State) (k : Nat) (h : Firing → Firing) : (s.modFiring k h).detokenisers = s.detokenisers := State.setFiring_detokenisers s k _
@[simp] theorem State.modFiring_contexts (s : State) (k : Nat) (h : Firing → Firing) : (s.modFiring k h).contexts = s.contexts := State.setFiring_contexts s k _
@[simp] theorem State.modFiring_lastStart (s : State) (k : Nat) (h : Firing → Firing) : (s.modFiring k h).lastStart = s.lastStart := State.setFiring_lastStart s k _
@[simp] theorem State.modFiring_mem (s : State) (k : Nat) (h : Firing → Firing) : (s.modFiring k h).mem = s.mem := State.setFiring_mem s k _
@[simp] theorem State.modFiring_net (s : State) (k : Nat) (h : Firing → Firing) : (s.modFiring k h).net = s.net := State.setFiring_net s k _
@[simp] theorem State.modFiring_tcache (s : State) (k : Nat) (h : Firing → Firing) : (s.modFiring k h).tcache = s.tcache := State.setFiring_tcache s k _
@[simp] theorem State.modFiring_cycle (s : State) (k : Nat) (h : Firing → Firing) : (s.modFiring k h).cycle = s.cycle := State.setFiring_cycle s k _
@[simp] theorem State.modFiring_pkg (s : State) (k : Nat) (h : Firing → Firing) : (s.modFiring k h).pkg = s.pkg := State.setFiring_pkg s k _
@[simp] theorem State.modFiring_agenda (s : State) (k : Nat) (h : Firing → Firing) : (s.modFiring k h).agenda = s.agenda := State.setFiring_agenda s k _
@[simp] theorem State.modFiring_subject (s : State) (k : Nat) (h : Firing → Firing) : (s.modFiring k h).subject = s.subject := State.setFiring_subject s k _
@[simp] theorem State.modFiring_polled (s : State) (k : Nat) (h : Firing → Firing) : (s.modFiring k h).polled = s.polled := State.setFiring_polled s k _

/-! ## Reading a unit after an update -/

theorem State.lc_setLc (s : State) (k j : Nat) (c : LCore) : (s.setLc k c).lc j = if j = k then c else s.lc j := Tbl.get_set ..

theorem State.lc_modLc (s : State) (k j : Nat) (h : LCore → LCore) : (s.modLc k h).lc j = if j = k then h (s.lc k) else s.lc j := Tbl.get_set ..

theorem State.launch_setLaunch (s : State) (k j : Nat) (l : Launch) : (s.setLaunch k l).launch j = if j = k then l else s.launch j := Tbl.get_set ..

theorem State.launch_modLaunch (s : State) (k j : Nat) (h : Launch → Launch) : (s.modLaunch k h).launch j = if j = k then h (s.launch k) else s.launch j := Tbl.get_set ..

theorem State.pcore_modPCore (s : State) (k j : Nat) (h : PCore → PCore) : (s.modPCore k h).pcore j = if j = k then h (s.pcore k) else s.pcore j := Tbl.get_set ..

theorem State.context_modContext (s : State) (k j : Nat) (h : Context → Context) : (s.modContext k h).context j = if j = k then h (s.context k) else s.context j := Tbl.get_set ..

theorem State.octave_modOctave (s : State) (k j : Nat) (h : Octave → Octave) : (s.modOctave k h).octave j = if j = k then h (s.octave k) else s.octave j := Tbl.get_set ..

theorem State.streamer_modStreamer (s : State) (k j : Nat) (h : Streamer → Streamer) : (s.modStreamer k h).streamer j = if j = k then h (s.streamer k) else s.streamer j := Tbl.get_set ..

theorem State.taskQueue_setTaskQueue (s : State) (k j : Nat) (l : List QPip) : (s.setTaskQueue k l).taskQueue j = if j = k then l else s.taskQueue j := Tbl.get_set ..

@[simp] theorem State.modLaunch_eq (s : State) (k : Nat) (h : Launch → Launch) : s.modLaunch k h = s.setLaunch k (h (s.launch k)) := rfl

/-- The key of the firing set must be the context it is set in; of the issuing one its own. -/
theorem State.firing_setFiring (s : State) (k j : Nat) (g : Firing) (h : g.key = k) :
    (s.setFiring k g).firing j = if j = k then g else s.firing j := by
  by_cases e : k = s.f.key
  · simp only [State.setFiring, State.firing, if_pos e]; subst h; rw [← e]; split <;> rfl
  · simp only [State.setFiring, State.firing, if_neg e, Tbl.get_set]
    by_cases i : j = k
    · subst i; simp only [if_neg e, if_true]; cases g; simp_all
    · simp only [if_neg i]

theorem State.firing_modFiring (s : State) (k j : Nat) (h : Firing → Firing) (hk : (h (s.firing k)).key = k) :
    (s.modFiring k h).firing j = if j = k then h (s.firing k) else s.firing j :=
  s.firing_setFiring k j _ hk

@[simp] theorem State.firing_key (s : State) (k : Nat) : (s.firing k).key = k := by unfold State.firing; split <;> simp_all

@[simp] theorem State.firing_self (s : State) : s.firing s.f.key = s.f := by simp [State.firing]

/-! ## The issuing firing after a register write, a retirement -/

@[simp] theorem Firing.setSreg_key (g : Firing) (d : BitVec 6) (v : Word) : (g.setSreg d v).key = g.key := by unfold Firing.setSreg; split <;> rfl
@[simp] theorem Firing.setSreg_st (g : Firing) (d : BitVec 6) (v : Word) : (g.setSreg d v).st = g.st := by unfold Firing.setSreg; split <;> rfl
@[simp] theorem Firing.setSreg_wait (g : Firing) (d : BitVec 6) (v : Word) : (g.setSreg d v).wait = g.wait := by unfold Firing.setSreg; split <;> rfl
@[simp] theorem Firing.setSreg_vregs (g : Firing) (d : BitVec 6) (v : Word) : (g.setSreg d v).vregs = g.vregs := by unfold Firing.setSreg; split <;> rfl
@[simp] theorem Firing.setSreg_kregs (g : Firing) (d : BitVec 6) (v : Word) : (g.setSreg d v).kregs = g.kregs := by unfold Firing.setSreg; split <;> rfl
@[simp] theorem Firing.setSreg_guards (g : Firing) (d : BitVec 6) (v : Word) : (g.setSreg d v).guards = g.guards := by unfold Firing.setSreg; split <;> rfl
@[simp] theorem Firing.setSreg_poly (g : Firing) (d : BitVec 6) (v : Word) : (g.setSreg d v).poly = g.poly := by unfold Firing.setSreg; split <;> rfl
@[simp] theorem Firing.setSreg_flags (g : Firing) (d : BitVec 6) (v : Word) : (g.setSreg d v).flags = g.flags := by unfold Firing.setSreg; split <;> rfl
@[simp] theorem Firing.setSreg_round (g : Firing) (d : BitVec 6) (v : Word) : (g.setSreg d v).round = g.round := by unfold Firing.setSreg; split <;> rfl
@[simp] theorem Firing.setSreg_yleft (g : Firing) (d : BitVec 6) (v : Word) : (g.setSreg d v).yleft = g.yleft := by unfold Firing.setSreg; split <;> rfl
@[simp] theorem Firing.setSreg_pc (g : Firing) (d : BitVec 6) (v : Word) : (g.setSreg d v).pc = g.pc := by unfold Firing.setSreg; split <;> rfl
@[simp] theorem Firing.setSreg_cause (g : Firing) (d : BitVec 6) (v : Word) : (g.setSreg d v).cause = g.cause := by unfold Firing.setSreg; split <;> rfl
@[simp] theorem Firing.setSreg_epc (g : Firing) (d : BitVec 6) (v : Word) : (g.setSreg d v).epc = g.epc := by unfold Firing.setSreg; split <;> rfl
@[simp] theorem Firing.setSreg_faddr (g : Firing) (d : BitVec 6) (v : Word) : (g.setSreg d v).faddr = g.faddr := by unfold Firing.setSreg; split <;> rfl
@[simp] theorem Firing.setSreg_drawc (g : Firing) (d : BitVec 6) (v : Word) : (g.setSreg d v).drawc = g.drawc := by unfold Firing.setSreg; split <;> rfl
@[simp] theorem Firing.setSreg_regseq (g : Firing) (d : BitVec 6) (v : Word) : (g.setSreg d v).regseq = g.regseq := by unfold Firing.setSreg; split <;> rfl
@[simp] theorem Firing.setSreg_regstat (g : Firing) (d : BitVec 6) (v : Word) : (g.setSreg d v).regstat = g.regstat := by unfold Firing.setSreg; split <;> rfl
@[simp] theorem Firing.setSreg_gstat (g : Firing) (d : BitVec 6) (v : Word) : (g.setSreg d v).gstat = g.gstat := by unfold Firing.setSreg; split <;> rfl
@[simp] theorem Firing.setSreg_region (g : Firing) (d : BitVec 6) (v : Word) : (g.setSreg d v).region = g.region := by unfold Firing.setSreg; split <;> rfl
@[simp] theorem Firing.setSreg_prio (g : Firing) (d : BitVec 6) (v : Word) : (g.setSreg d v).prio = g.prio := by unfold Firing.setSreg; split <;> rfl
@[simp] theorem Firing.setSreg_pinned (g : Firing) (d : BitVec 6) (v : Word) : (g.setSreg d v).pinned = g.pinned := by unfold Firing.setSreg; split <;> rfl
@[simp] theorem Firing.setSreg_service (g : Firing) (d : BitVec 6) (v : Word) : (g.setSreg d v).service = g.service := by unfold Firing.setSreg; split <;> rfl
@[simp] theorem Firing.setSreg_pip (g : Firing) (d : BitVec 6) (v : Word) : (g.setSreg d v).pip = g.pip := by unfold Firing.setSreg; split <;> rfl
@[simp] theorem Firing.setSreg_source (g : Firing) (d : BitVec 6) (v : Word) : (g.setSreg d v).source = g.source := by unfold Firing.setSreg; split <;> rfl
@[simp] theorem Firing.setSreg_seqno (g : Firing) (d : BitVec 6) (v : Word) : (g.setSreg d v).seqno = g.seqno := by unfold Firing.setSreg; split <;> rfl
@[simp] theorem Firing.setSreg_outer (g : Firing) (d : BitVec 6) (v : Word) : (g.setSreg d v).outer = g.outer := by unfold Firing.setSreg; split <;> rfl
@[simp] theorem Firing.setSreg_slot (g : Firing) (d : BitVec 6) (v : Word) : (g.setSreg d v).slot = g.slot := by unfold Firing.setSreg; split <;> rfl
@[simp] theorem Firing.setSreg_away (g : Firing) (d : BitVec 6) (v : Word) : (g.setSreg d v).away = g.away := by unfold Firing.setSreg; split <;> rfl
@[simp] theorem Firing.setSreg_ticket (g : Firing) (d : BitVec 6) (v : Word) : (g.setSreg d v).ticket = g.ticket := by unfold Firing.setSreg; split <;> rfl
@[simp] theorem Firing.setSreg_pfAddr (g : Firing) (d : BitVec 6) (v : Word) : (g.setSreg d v).pfAddr = g.pfAddr := by unfold Firing.setSreg; split <;> rfl
@[simp] theorem Firing.setSreg_pfAccess (g : Firing) (d : BitVec 6) (v : Word) : (g.setSreg d v).pfAccess = g.pfAccess := by unfold Firing.setSreg; split <;> rfl
@[simp] theorem Firing.setSreg_waited (g : Firing) (d : BitVec 6) (v : Word) : (g.setSreg d v).waited = g.waited := by unfold Firing.setSreg; split <;> rfl
@[simp] theorem Firing.setSreg_waitNo (g : Firing) (d : BitVec 6) (v : Word) : (g.setSreg d v).waitNo = g.waitNo := by unfold Firing.setSreg; split <;> rfl
@[simp] theorem Firing.setSreg_probes (g : Firing) (d : BitVec 6) (v : Word) : (g.setSreg d v).probes = g.probes := by unfold Firing.setSreg; split <;> rfl
@[simp] theorem State.setSreg_f (s : State) (d : BitVec 6) (v : Word) : (s.setSreg d v).f = s.f.setSreg d v := rfl

@[simp] theorem Firing.setVreg_key (g : Firing) (d : BitVec 5) (v : VWord) : (g.setVreg d v).key = g.key := rfl
@[simp] theorem Firing.setVreg_st (g : Firing) (d : BitVec 5) (v : VWord) : (g.setVreg d v).st = g.st := rfl
@[simp] theorem Firing.setVreg_wait (g : Firing) (d : BitVec 5) (v : VWord) : (g.setVreg d v).wait = g.wait := rfl
@[simp] theorem Firing.setVreg_regs (g : Firing) (d : BitVec 5) (v : VWord) : (g.setVreg d v).regs = g.regs := rfl
@[simp] theorem Firing.setVreg_kregs (g : Firing) (d : BitVec 5) (v : VWord) : (g.setVreg d v).kregs = g.kregs := rfl
@[simp] theorem Firing.setVreg_guards (g : Firing) (d : BitVec 5) (v : VWord) : (g.setVreg d v).guards = g.guards := rfl
@[simp] theorem Firing.setVreg_poly (g : Firing) (d : BitVec 5) (v : VWord) : (g.setVreg d v).poly = g.poly := rfl
@[simp] theorem Firing.setVreg_flags (g : Firing) (d : BitVec 5) (v : VWord) : (g.setVreg d v).flags = g.flags := rfl
@[simp] theorem Firing.setVreg_round (g : Firing) (d : BitVec 5) (v : VWord) : (g.setVreg d v).round = g.round := rfl
@[simp] theorem Firing.setVreg_yleft (g : Firing) (d : BitVec 5) (v : VWord) : (g.setVreg d v).yleft = g.yleft := rfl
@[simp] theorem Firing.setVreg_pc (g : Firing) (d : BitVec 5) (v : VWord) : (g.setVreg d v).pc = g.pc := rfl
@[simp] theorem Firing.setVreg_cause (g : Firing) (d : BitVec 5) (v : VWord) : (g.setVreg d v).cause = g.cause := rfl
@[simp] theorem Firing.setVreg_epc (g : Firing) (d : BitVec 5) (v : VWord) : (g.setVreg d v).epc = g.epc := rfl
@[simp] theorem Firing.setVreg_faddr (g : Firing) (d : BitVec 5) (v : VWord) : (g.setVreg d v).faddr = g.faddr := rfl
@[simp] theorem Firing.setVreg_drawc (g : Firing) (d : BitVec 5) (v : VWord) : (g.setVreg d v).drawc = g.drawc := rfl
@[simp] theorem Firing.setVreg_regseq (g : Firing) (d : BitVec 5) (v : VWord) : (g.setVreg d v).regseq = g.regseq := rfl
@[simp] theorem Firing.setVreg_regstat (g : Firing) (d : BitVec 5) (v : VWord) : (g.setVreg d v).regstat = g.regstat := rfl
@[simp] theorem Firing.setVreg_gstat (g : Firing) (d : BitVec 5) (v : VWord) : (g.setVreg d v).gstat = g.gstat := rfl
@[simp] theorem Firing.setVreg_region (g : Firing) (d : BitVec 5) (v : VWord) : (g.setVreg d v).region = g.region := rfl
@[simp] theorem Firing.setVreg_prio (g : Firing) (d : BitVec 5) (v : VWord) : (g.setVreg d v).prio = g.prio := rfl
@[simp] theorem Firing.setVreg_pinned (g : Firing) (d : BitVec 5) (v : VWord) : (g.setVreg d v).pinned = g.pinned := rfl
@[simp] theorem Firing.setVreg_service (g : Firing) (d : BitVec 5) (v : VWord) : (g.setVreg d v).service = g.service := rfl
@[simp] theorem Firing.setVreg_pip (g : Firing) (d : BitVec 5) (v : VWord) : (g.setVreg d v).pip = g.pip := rfl
@[simp] theorem Firing.setVreg_source (g : Firing) (d : BitVec 5) (v : VWord) : (g.setVreg d v).source = g.source := rfl
@[simp] theorem Firing.setVreg_seqno (g : Firing) (d : BitVec 5) (v : VWord) : (g.setVreg d v).seqno = g.seqno := rfl
@[simp] theorem Firing.setVreg_outer (g : Firing) (d : BitVec 5) (v : VWord) : (g.setVreg d v).outer = g.outer := rfl
@[simp] theorem Firing.setVreg_slot (g : Firing) (d : BitVec 5) (v : VWord) : (g.setVreg d v).slot = g.slot := rfl
@[simp] theorem Firing.setVreg_away (g : Firing) (d : BitVec 5) (v : VWord) : (g.setVreg d v).away = g.away := rfl
@[simp] theorem Firing.setVreg_ticket (g : Firing) (d : BitVec 5) (v : VWord) : (g.setVreg d v).ticket = g.ticket := rfl
@[simp] theorem Firing.setVreg_pfAddr (g : Firing) (d : BitVec 5) (v : VWord) : (g.setVreg d v).pfAddr = g.pfAddr := rfl
@[simp] theorem Firing.setVreg_pfAccess (g : Firing) (d : BitVec 5) (v : VWord) : (g.setVreg d v).pfAccess = g.pfAccess := rfl
@[simp] theorem Firing.setVreg_waited (g : Firing) (d : BitVec 5) (v : VWord) : (g.setVreg d v).waited = g.waited := rfl
@[simp] theorem Firing.setVreg_waitNo (g : Firing) (d : BitVec 5) (v : VWord) : (g.setVreg d v).waitNo = g.waitNo := rfl
@[simp] theorem Firing.setVreg_probes (g : Firing) (d : BitVec 5) (v : VWord) : (g.setVreg d v).probes = g.probes := rfl
@[simp] theorem State.setVreg_f (s : State) (d : BitVec 5) (v : VWord) : (s.setVreg d v).f = s.f.setVreg d v := rfl

@[simp] theorem Firing.setKreg_key (g : Firing) (d : BitVec 4) (v : PWord) : (g.setKreg d v).key = g.key := by unfold Firing.setKreg; split <;> rfl
@[simp] theorem Firing.setKreg_st (g : Firing) (d : BitVec 4) (v : PWord) : (g.setKreg d v).st = g.st := by unfold Firing.setKreg; split <;> rfl
@[simp] theorem Firing.setKreg_wait (g : Firing) (d : BitVec 4) (v : PWord) : (g.setKreg d v).wait = g.wait := by unfold Firing.setKreg; split <;> rfl
@[simp] theorem Firing.setKreg_regs (g : Firing) (d : BitVec 4) (v : PWord) : (g.setKreg d v).regs = g.regs := by unfold Firing.setKreg; split <;> rfl
@[simp] theorem Firing.setKreg_vregs (g : Firing) (d : BitVec 4) (v : PWord) : (g.setKreg d v).vregs = g.vregs := by unfold Firing.setKreg; split <;> rfl
@[simp] theorem Firing.setKreg_guards (g : Firing) (d : BitVec 4) (v : PWord) : (g.setKreg d v).guards = g.guards := by unfold Firing.setKreg; split <;> rfl
@[simp] theorem Firing.setKreg_poly (g : Firing) (d : BitVec 4) (v : PWord) : (g.setKreg d v).poly = g.poly := by unfold Firing.setKreg; split <;> rfl
@[simp] theorem Firing.setKreg_flags (g : Firing) (d : BitVec 4) (v : PWord) : (g.setKreg d v).flags = g.flags := by unfold Firing.setKreg; split <;> rfl
@[simp] theorem Firing.setKreg_round (g : Firing) (d : BitVec 4) (v : PWord) : (g.setKreg d v).round = g.round := by unfold Firing.setKreg; split <;> rfl
@[simp] theorem Firing.setKreg_yleft (g : Firing) (d : BitVec 4) (v : PWord) : (g.setKreg d v).yleft = g.yleft := by unfold Firing.setKreg; split <;> rfl
@[simp] theorem Firing.setKreg_pc (g : Firing) (d : BitVec 4) (v : PWord) : (g.setKreg d v).pc = g.pc := by unfold Firing.setKreg; split <;> rfl
@[simp] theorem Firing.setKreg_cause (g : Firing) (d : BitVec 4) (v : PWord) : (g.setKreg d v).cause = g.cause := by unfold Firing.setKreg; split <;> rfl
@[simp] theorem Firing.setKreg_epc (g : Firing) (d : BitVec 4) (v : PWord) : (g.setKreg d v).epc = g.epc := by unfold Firing.setKreg; split <;> rfl
@[simp] theorem Firing.setKreg_faddr (g : Firing) (d : BitVec 4) (v : PWord) : (g.setKreg d v).faddr = g.faddr := by unfold Firing.setKreg; split <;> rfl
@[simp] theorem Firing.setKreg_drawc (g : Firing) (d : BitVec 4) (v : PWord) : (g.setKreg d v).drawc = g.drawc := by unfold Firing.setKreg; split <;> rfl
@[simp] theorem Firing.setKreg_regseq (g : Firing) (d : BitVec 4) (v : PWord) : (g.setKreg d v).regseq = g.regseq := by unfold Firing.setKreg; split <;> rfl
@[simp] theorem Firing.setKreg_regstat (g : Firing) (d : BitVec 4) (v : PWord) : (g.setKreg d v).regstat = g.regstat := by unfold Firing.setKreg; split <;> rfl
@[simp] theorem Firing.setKreg_gstat (g : Firing) (d : BitVec 4) (v : PWord) : (g.setKreg d v).gstat = g.gstat := by unfold Firing.setKreg; split <;> rfl
@[simp] theorem Firing.setKreg_region (g : Firing) (d : BitVec 4) (v : PWord) : (g.setKreg d v).region = g.region := by unfold Firing.setKreg; split <;> rfl
@[simp] theorem Firing.setKreg_prio (g : Firing) (d : BitVec 4) (v : PWord) : (g.setKreg d v).prio = g.prio := by unfold Firing.setKreg; split <;> rfl
@[simp] theorem Firing.setKreg_pinned (g : Firing) (d : BitVec 4) (v : PWord) : (g.setKreg d v).pinned = g.pinned := by unfold Firing.setKreg; split <;> rfl
@[simp] theorem Firing.setKreg_service (g : Firing) (d : BitVec 4) (v : PWord) : (g.setKreg d v).service = g.service := by unfold Firing.setKreg; split <;> rfl
@[simp] theorem Firing.setKreg_pip (g : Firing) (d : BitVec 4) (v : PWord) : (g.setKreg d v).pip = g.pip := by unfold Firing.setKreg; split <;> rfl
@[simp] theorem Firing.setKreg_source (g : Firing) (d : BitVec 4) (v : PWord) : (g.setKreg d v).source = g.source := by unfold Firing.setKreg; split <;> rfl
@[simp] theorem Firing.setKreg_seqno (g : Firing) (d : BitVec 4) (v : PWord) : (g.setKreg d v).seqno = g.seqno := by unfold Firing.setKreg; split <;> rfl
@[simp] theorem Firing.setKreg_outer (g : Firing) (d : BitVec 4) (v : PWord) : (g.setKreg d v).outer = g.outer := by unfold Firing.setKreg; split <;> rfl
@[simp] theorem Firing.setKreg_slot (g : Firing) (d : BitVec 4) (v : PWord) : (g.setKreg d v).slot = g.slot := by unfold Firing.setKreg; split <;> rfl
@[simp] theorem Firing.setKreg_away (g : Firing) (d : BitVec 4) (v : PWord) : (g.setKreg d v).away = g.away := by unfold Firing.setKreg; split <;> rfl
@[simp] theorem Firing.setKreg_ticket (g : Firing) (d : BitVec 4) (v : PWord) : (g.setKreg d v).ticket = g.ticket := by unfold Firing.setKreg; split <;> rfl
@[simp] theorem Firing.setKreg_pfAddr (g : Firing) (d : BitVec 4) (v : PWord) : (g.setKreg d v).pfAddr = g.pfAddr := by unfold Firing.setKreg; split <;> rfl
@[simp] theorem Firing.setKreg_pfAccess (g : Firing) (d : BitVec 4) (v : PWord) : (g.setKreg d v).pfAccess = g.pfAccess := by unfold Firing.setKreg; split <;> rfl
@[simp] theorem Firing.setKreg_waited (g : Firing) (d : BitVec 4) (v : PWord) : (g.setKreg d v).waited = g.waited := by unfold Firing.setKreg; split <;> rfl
@[simp] theorem Firing.setKreg_waitNo (g : Firing) (d : BitVec 4) (v : PWord) : (g.setKreg d v).waitNo = g.waitNo := by unfold Firing.setKreg; split <;> rfl
@[simp] theorem Firing.setKreg_probes (g : Firing) (d : BitVec 4) (v : PWord) : (g.setKreg d v).probes = g.probes := by unfold Firing.setKreg; split <;> rfl
@[simp] theorem State.setKreg_f (s : State) (d : BitVec 4) (v : PWord) : (s.setKreg d v).f = s.f.setKreg d v := rfl

@[simp] theorem Firing.retireTo_key (g : Firing) (pc : Word) : (g.retireTo pc).key = g.key := rfl
@[simp] theorem Firing.retireTo_st (g : Firing) (pc : Word) : (g.retireTo pc).st = g.st := rfl
@[simp] theorem Firing.retireTo_regs (g : Firing) (pc : Word) : (g.retireTo pc).regs = g.regs := rfl
@[simp] theorem Firing.retireTo_vregs (g : Firing) (pc : Word) : (g.retireTo pc).vregs = g.vregs := rfl
@[simp] theorem Firing.retireTo_kregs (g : Firing) (pc : Word) : (g.retireTo pc).kregs = g.kregs := rfl
@[simp] theorem Firing.retireTo_guards (g : Firing) (pc : Word) : (g.retireTo pc).guards = g.guards := rfl
@[simp] theorem Firing.retireTo_poly (g : Firing) (pc : Word) : (g.retireTo pc).poly = g.poly := rfl
@[simp] theorem Firing.retireTo_flags (g : Firing) (pc : Word) : (g.retireTo pc).flags = g.flags := rfl
@[simp] theorem Firing.retireTo_round (g : Firing) (pc : Word) : (g.retireTo pc).round = g.round := rfl
@[simp] theorem Firing.retireTo_cause (g : Firing) (pc : Word) : (g.retireTo pc).cause = g.cause := rfl
@[simp] theorem Firing.retireTo_epc (g : Firing) (pc : Word) : (g.retireTo pc).epc = g.epc := rfl
@[simp] theorem Firing.retireTo_faddr (g : Firing) (pc : Word) : (g.retireTo pc).faddr = g.faddr := rfl
@[simp] theorem Firing.retireTo_drawc (g : Firing) (pc : Word) : (g.retireTo pc).drawc = g.drawc := rfl
@[simp] theorem Firing.retireTo_regseq (g : Firing) (pc : Word) : (g.retireTo pc).regseq = g.regseq := rfl
@[simp] theorem Firing.retireTo_regstat (g : Firing) (pc : Word) : (g.retireTo pc).regstat = g.regstat := rfl
@[simp] theorem Firing.retireTo_gstat (g : Firing) (pc : Word) : (g.retireTo pc).gstat = g.gstat := rfl
@[simp] theorem Firing.retireTo_prio (g : Firing) (pc : Word) : (g.retireTo pc).prio = g.prio := rfl
@[simp] theorem Firing.retireTo_pinned (g : Firing) (pc : Word) : (g.retireTo pc).pinned = g.pinned := rfl
@[simp] theorem Firing.retireTo_service (g : Firing) (pc : Word) : (g.retireTo pc).service = g.service := rfl
@[simp] theorem Firing.retireTo_pip (g : Firing) (pc : Word) : (g.retireTo pc).pip = g.pip := rfl
@[simp] theorem Firing.retireTo_source (g : Firing) (pc : Word) : (g.retireTo pc).source = g.source := rfl
@[simp] theorem Firing.retireTo_seqno (g : Firing) (pc : Word) : (g.retireTo pc).seqno = g.seqno := rfl
@[simp] theorem Firing.retireTo_outer (g : Firing) (pc : Word) : (g.retireTo pc).outer = g.outer := rfl
@[simp] theorem Firing.retireTo_slot (g : Firing) (pc : Word) : (g.retireTo pc).slot = g.slot := rfl
@[simp] theorem Firing.retireTo_away (g : Firing) (pc : Word) : (g.retireTo pc).away = g.away := rfl
@[simp] theorem Firing.retireTo_ticket (g : Firing) (pc : Word) : (g.retireTo pc).ticket = g.ticket := rfl
@[simp] theorem Firing.retireTo_pfAddr (g : Firing) (pc : Word) : (g.retireTo pc).pfAddr = g.pfAddr := rfl
@[simp] theorem Firing.retireTo_pfAccess (g : Firing) (pc : Word) : (g.retireTo pc).pfAccess = g.pfAccess := rfl
@[simp] theorem Firing.retireTo_waited (g : Firing) (pc : Word) : (g.retireTo pc).waited = g.waited := rfl
@[simp] theorem Firing.retireTo_waitNo (g : Firing) (pc : Word) : (g.retireTo pc).waitNo = g.waitNo := rfl
@[simp] theorem Firing.retireTo_probes (g : Firing) (pc : Word) : (g.retireTo pc).probes = g.probes := rfl
@[simp] theorem State.retireTo_f (s : State) (pc : Word) : (s.retireTo pc).f = s.f.retireTo pc := rfl

@[simp] theorem Firing.retireTo_pc (g : Firing) (pc : Word) : (g.retireTo pc).pc = pc := rfl
@[simp] theorem Firing.retireTo_yleft (g : Firing) (pc : Word) : (g.retireTo pc).yleft = g.yleft - 1 := rfl
@[simp] theorem Firing.retireTo_wait (g : Firing) (pc : Word) : (g.retireTo pc).wait = .none := rfl

end Sys2Proof.Machine
end

