-- ==== Sys2Proof/Laws/Alive.lean ====
section
/-! SUPPORT. A write at home and the test of what waits on it leave the issuing firing what it is, so that neither frees it. -/

namespace Sys2Proof.Machine

open Sys2Proof

theorem foldl_f {α : Type} (g : State → α → State) (l : List α) (s : State) (h : ∀ t a, (g t a).f = t.f) : (l.foldl g s).f = s.f := by
  induction l generalizing s with
  | nil => rfl
  | cons a r ih => rw [List.foldl_cons, ih, h]

/-! ## What waits -/

@[simp] theorem State.addLive_f (s : State) (launch n : Nat) : (s.addLive launch n).f = s.f := rfl
@[simp] theorem State.fireTriggers_f (s : State) (lk : Nat) : (s.fireTriggers lk).f = s.f := by
  unfold State.fireTriggers; simp only []; split <;> simp
@[simp] theorem State.readyActors_f (s : State) (lk : Nat) : (s.readyActors lk).f = s.f := by
  unfold State.readyActors; simp only []; split <;> simp

theorem State.runnable_alive (s : State) (fk : Nat) (w : Wait) (h : s.f.st ≠ .free) : (s.runnable fk w).f.st ≠ .free := by
  simp only [State.runnable, State.modLc_f, State.modFiring, State.setFiring]
  split
  · simp
  · exact h

theorem State.settleWaits_alive (s : State) (h : s.f.st ≠ .free) : s.settleWaits.f.st ≠ .free := by
  unfold State.settleWaits
  generalize s.allFirings = l
  induction l generalizing s with
  | nil => exact h
  | cons g r ih =>
    rw [List.foldl_cons]
    apply ih
    split
    · split
      · exact State.runnable_alive _ _ _ h
      · exact h
    · exact h

/-- The test of what waits frees no issuing firing. -/
theorem State.settle_alive (s : State) (h : s.f.st ≠ .free) : s.settle.f.st ≠ .free := by
  refine State.settleWaits_alive _ ?_
  rwa [State.settleTriggers, foldl_f _ _ _ fun _ _ => State.fireTriggers_f .., State.settleActors, foldl_f _ _ _ fun t a => ?_]
  split <;> simp

/-! ## What is written -/

@[simp] theorem State.mscRequest_f (s : State) (l : Nat) (need : BitVec 64) : (s.mscRequest l need).f = s.f := by
  unfold State.mscRequest; simp only []; (repeat' split) <;> rfl
@[simp] theorem State.l2Clean_f (s : State) (g : Nat) : (s.l2Clean g).f = s.f := by
  unfold State.l2Clean State.mscDirty; (repeat' split) <;> simp
@[simp] theorem State.l2Fill_f (s : State) (g : Nat) (need : BitVec 2) : (s.l2Fill g need).f = s.f := by
  unfold State.l2Fill State.l2Drop State.newStamp
  split
  · split <;> simp
  · simp only [State.mscRequest_f]
    (repeat' split) <;> simp
@[simp] theorem State.l2Written_f (s : State) (g : Nat) (need : BitVec 2) : (s.l2Written g need).f = s.f := by
  simp [State.l2Written, State.newStamp]
@[simp] theorem State.faultEntry_f (s : State) (kind : Nat) (who : Option Nat) (outside : Bool) (pa : Nat) : (s.faultEntry kind who outside pa).f = s.f := by
  unfold State.faultEntry; simp only []; (repeat' split) <;> rfl
@[simp] theorem State.memError_f (s : State) (kind : Nat) (who : Option Nat) (pa : Nat) : (s.memError kind who pa).f = s.f := by
  unfold State.memError; split <;> simp

@[simp] theorem State.writeGranule_f (s : State) (who : Option Nat) (host : Bool) (pa : Nat) (bs : List Byte) : (s.writeGranule who host pa bs).f = s.f := by
  unfold State.writeGranule State.clearPoison; (repeat' split) <;> simp

/-- The pieces of a store that reaches no device register free no issuing firing. -/
theorem State.storeSpots_alive (q : Asker) (l : List (Spot × List Byte)) (s : State)
    (hl : ∀ e ∈ l, (e.1.win.isNone && !e.1.host && isDeviceReg e.1.pa) = false) (h : s.f.st ≠ .free) : (s.storeSpots q l).f.st ≠ .free := by
  induction l generalizing s with
  | nil => exact h
  | cons e r ih =>
    refine ih _ (fun x hx => hl x (List.mem_cons_of_mem _ hx)) (State.settle_alive _ ?_)
    simp only [State.storeSpot, hl e (List.mem_cons_self ..), Bool.false_eq_true, if_false]
    rw [apply_ite State.f]
    simpa [State.l1Update] using h

theorem mem_dealBytes (ps : List Spot) (bs : List Byte) (e : Spot × List Byte) (h : e ∈ dealBytes ps bs) : e.1 ∈ ps := by
  induction ps generalizing bs with
  | nil => simp [dealBytes] at h
  | cons p r ih =>
    rcases List.mem_cons.mp h with rfl | h
    · exact List.mem_cons_self ..
    · exact List.mem_cons_of_mem _ (ih _ h)

/-- A deposit that is located off the device registers is made, and leaves the issuing firing alive. -/
theorem State.depositBytes_alive {s : State} {q : Asker} {va : Nat} {bs : List Byte} {ps : List Spot} {ts : List Trans}
    (hl : s.locate q .store (pieces va bs.length) = .ok (ps, ts)) (hp : ∀ p ∈ ps, (p.win.isNone && !p.host && isDeviceReg p.pa) = false)
    (h : (s.reach q ps ts).f.st ≠ .free) : ∃ u, s.depositBytes q va bs = .ok u ∧ u.settle.f.st ≠ .free :=
  ⟨_, by rw [State.depositBytes, hl], State.settle_alive _ (State.storeSpots_alive q _ _ (fun e he => hp _ (mem_dealBytes _ _ _ he)) h)⟩

end Sys2Proof.Machine
end

