-- ==== Sys2Proof/Laws/Elements.lean ====
section
/-! SUPPORT. Laws of lists of elements: unpacking, packing, sweeping and merging. -/

namespace Sys2Proof.Machine

open Sys2Proof

@[simp] theorem unpack_length (w n x : Nat) : (unpack w n x).length = n := by
  induction n generalizing x with
  | zero => rfl
  | succ n ih => simp [unpack, ih]

/-- Field `k` of what is unpacked. -/
theorem unpack_getD (w n x k : Nat) (h : k < n) : (unpack w n x).getD k 0 = x / 2 ^ (w * k) % 2 ^ w := by
  induction n generalizing x k with
  | zero => omega
  | succ n ih =>
    cases k with
    | zero => simp [unpack]
    | succ k =>
      have e := ih (x / 2 ^ w) k (by omega)
      simp only [unpack, List.getD_cons_succ, e, Nat.div_div_eq_div_mul, ← Nat.pow_add]
      congr 3; ring

theorem pack_lt (w : Nat) (xs : List Nat) : pack w xs < 2 ^ (w * xs.length) := by
  induction xs with
  | nil => simp [pack]
  | cons x r ih =>
    have h : x % 2 ^ w < 2 ^ w := Nat.mod_lt _ (by positivity)
    have e : 2 ^ (w * (x :: r).length) = 2 ^ w * 2 ^ (w * r.length) := by
      rw [← Nat.pow_add, List.length_cons]; congr 1; ring
    simp only [pack]; rw [e]
    calc x % 2 ^ w + 2 ^ w * pack w r < 2 ^ w * (pack w r + 1) := by rw [Nat.mul_add]; omega
      _ ≤ 2 ^ w * 2 ^ (w * r.length) := Nat.mul_le_mul_left _ ih

/-- Field `k` of what is packed. -/
theorem pack_field (w : Nat) (xs : List Nat) (k : Nat) : pack w xs / 2 ^ (w * k) % 2 ^ w = xs.getD k 0 % 2 ^ w := by
  induction xs generalizing k with
  | nil => simp [pack]
  | cons x r ih =>
    have h : x % 2 ^ w < 2 ^ w := Nat.mod_lt _ (by positivity)
    cases k with
    | zero => simp [pack]
    | succ k =>
      have e : (x % 2 ^ w + 2 ^ w * pack w r) / 2 ^ w = pack w r := by
        rw [Nat.add_mul_div_left _ _ (by positivity), Nat.div_eq_of_lt h, Nat.zero_add]
      have p : w * (k + 1) = w + w * k := by ring
      simp only [pack, List.getD_cons_succ]
      rw [p, Nat.pow_add, ← Nat.div_div_eq_div_mul, e, ih]

@[simp] theorem elems_length (w : Nat) (v : VWord) : (elems w v).length = 4096 / w := unpack_length ..

theorem elems_getD (w : Nat) (v : VWord) (k : Nat) (h : k < 4096 / w) :
    (elems w v).getD k 0 = v.toNat / 2 ^ (w * k) % 2 ^ w := unpack_getD _ _ _ _ h

/-- Element `k` of a register that was packed from a full list of elements. -/
theorem packV_field (w : Nat) (xs : List Nat) (k : Nat) (h : w * xs.length = 4096) :
    (packV w xs).toNat / 2 ^ (w * k) % 2 ^ w = xs.getD k 0 % 2 ^ w := by
  have e : (packV w xs).toNat = pack w xs := by
    simp only [packV, BitVec.toNat_ofNat]
    exact Nat.mod_eq_of_lt (h ▸ pack_lt w xs)
  rw [e, pack_field]

@[simp] theorem sweep_length (draw : Nat → Nat) (used : Nat) (l : List (Bool × (Nat → Res))) :
    (sweep draw used l).out.length = l.length := by
  induction l generalizing used with
  | nil => rfl
  | cons e r ih => obtain ⟨a, f⟩ := e; cases a <;> simp [sweep, ih]

@[simp] theorem mergeElems_length (z : Bool) (out : List (Option Nat)) (olds : List Nat) :
    (mergeElems z out olds).length = out.length := by
  induction out generalizing olds with
  | nil => rfl
  | cons o r ih => cases o <;> simp [mergeElems, ih]

/-- Element `k` after a merge: the result where there is one, else the old element or zero. -/
theorem mergeElems_getD (z : Bool) (out : List (Option Nat)) (olds : List Nat) (k : Nat) (h : k < out.length) :
    (mergeElems z out olds).getD k 0 = (out.getD k none).getD (if z then 0 else olds.getD k 0) := by
  induction out generalizing olds k with
  | nil => simp at h
  | cons o r ih =>
    cases k with
    | zero => cases o <;> cases olds <;> simp [mergeElems]
    | succ k =>
      have e := ih (olds.drop 1) k (by simpa using h)
      cases o <;> cases olds <;> simpa [mergeElems] using e

/-- With every element active, a sweep gives the result of each. -/
theorem sweep_active (draw : Nat → Nat) (used : Nat) (l : List (Nat → Res)) :
    (sweep draw used (l.map fun f => (true, f))).out = l.zipIdx.map (fun e => some (e.1 (draw (used + e.2))).pat) := by
  induction l generalizing used with
  | nil => rfl
  | cons f r ih =>
    simp only [List.map_cons, sweep, if_true, ih, List.zipIdx_cons, Nat.add_zero]
    congr 1
    rw [List.zipIdx_succ]
    simp [Function.comp_def, Nat.add_assoc, Nat.add_comm 1]

/-! ## Bytes (R2) -/

@[simp] theorem leBytes_length (n x : Nat) : (leBytes n x).length = n := by
  induction n generalizing x with
  | zero => rfl
  | succ n ih => simp [leBytes, ih]

/-- The bytes of a value give the value back, below their width. -/
theorem leNat_leBytes (n x : Nat) : leNat (leBytes n x) = x % 256 ^ n := by
  induction n generalizing x with
  | zero => simp [leNat, leBytes, Nat.mod_one]
  | succ n ih =>
    simp only [leNat, leBytes, ih, BitVec.toNat_ofNat]
    rw [show (2 : Nat) ^ 8 = 256 from rfl, Nat.pow_succ, Nat.mul_comm (256 ^ n), Nat.mod_mul]

theorem leNat_lt (b : List Byte) : leNat b < 256 ^ b.length := by
  induction b with
  | nil => simp [leNat]
  | cons x r ih =>
    have h : x.toNat < 256 := x.isLt
    simp only [leNat, List.length_cons, Nat.pow_succ]
    omega

end Sys2Proof.Machine
end

