-- ==== Sys2Proof/Laws/Frames.lean ====
section
/-! SUPPORT. The operations that touch no memory: what one of them leaves has the memory that it found. -/

namespace Sys2Proof.Machine

open Sys2Proof

@[simp] theorem foldl_mem {α : Type} (g : State → α → State) (l : List α) (s : State) (h : ∀ t a, (g t a).mem = t.mem) : (l.foldl g s).mem = s.mem := by
  induction l generalizing s with
  | nil => rfl
  | cons a r ih => rw [List.foldl_cons, ih, h]
theorem foldl_mem₂ {α β : Type} (g : β × State → α → β × State) (l : List α) (q : β × State) (h : ∀ q a, (g q a).2.mem = q.2.mem) :
    (l.foldl g q).2.mem = q.2.mem := by
  induction l generalizing q with
  | nil => rfl
  | cons a r ih => rw [List.foldl_cons, ih, h]
@[simp] theorem State.pruneQueues_mem (n : Nat) (s : State) (lk : Nat) (hd : ∀ (s : State) k, (s.discardGuarded lk k).mem = s.mem) : (s.pruneQueues lk n).mem = s.mem := by
  induction n generalizing s with
  | zero => rfl
  | succ n ih => unfold State.pruneQueues; simp only []; split <;> simp [ih, hd]

@[simp] theorem State.faultEntry_mem (s : State) (kind : Nat) (who : Option Nat) (outside : Bool) (pa : Nat) : (State.faultEntry s kind who outside pa).mem = s.mem := by
  unfold State.faultEntry; simp only []; (repeat' split) <;> rfl
@[simp] theorem State.memError_mem (s : State) (kind : Nat) (who : Option Nat) (pa : Nat) : (State.memError s kind who pa).mem = s.mem := by
  unfold State.memError; split <;> simp
@[simp] theorem State.freeSlot_mem (s : State) (fk : Nat) (gone : Bool) : (State.freeSlot s fk gone).mem = s.mem := by
  unfold State.freeSlot; simp
@[simp] theorem State.runnable_mem (s : State) (fk : Nat) (w : Wait) : (State.runnable s fk w).mem = s.mem := by
  unfold State.runnable; simp
@[simp] theorem State.settleWaits_mem (s : State) : (State.settleWaits s).mem = s.mem := by
  unfold State.settleWaits; exact foldl_mem _ _ _ fun t a => by (repeat' split) <;> simp
@[simp] theorem State.addLive_mem (s : State) (launch : Nat) (n : Nat) : (State.addLive s launch n).mem = s.mem := rfl
@[simp] theorem State.fireTriggers_mem (s : State) (lk : Nat) : (State.fireTriggers s lk).mem = s.mem := by
  unfold State.fireTriggers; simp only []; (repeat' split) <;> rfl
@[simp] theorem State.settleTriggers_mem (s : State) : (State.settleTriggers s).mem = s.mem := by
  unfold State.settleTriggers; simp
@[simp] theorem State.readyActors_mem (s : State) (lk : Nat) : (State.readyActors s lk).mem = s.mem := by
  unfold State.readyActors; simp only []; (repeat' split) <;> rfl
@[simp] theorem State.settleActors_mem (s : State) : (State.settleActors s).mem = s.mem := by
  unfold State.settleActors; exact foldl_mem _ _ _ fun t a => by split <;> simp
@[simp] theorem State.settle_mem (s : State) : (State.settle s).mem = s.mem := by
  unfold State.settle; simp
@[simp] theorem State.releaseBarrier_mem (s : State) (ctx team : Nat) : (State.releaseBarrier s ctx team).mem = s.mem := by
  unfold State.releaseBarrier; exact foldl_mem _ _ _ fun t a => by (repeat' split) <;> simp
@[simp] theorem State.completeGeneration_mem (s : State) (ctx team : Nat) : (State.completeGeneration s ctx team).mem = s.mem := by
  unfold State.completeGeneration; simp
@[simp] theorem State.emit_mem (s : State) (fs : List Flit) : (State.emit s fs).mem = s.mem := by
  unfold State.emit; exact foldl_mem _ _ _ fun t a => rfl
@[simp] theorem State.spanRelease_mem (s : State) (ctx team : Nat) (tag : BitVec 32) : (State.spanRelease s ctx team tag).mem = s.mem := by
  unfold State.spanRelease; simp [apply_ite State.mem]
@[simp] theorem State.spanStage_mem (s : State) (ctx team : Nat) (tag : BitVec 32) : (State.spanStage s ctx team tag).mem = s.mem := by
  unfold State.spanStage; simp only []; (repeat' split) <;> simp
@[simp] theorem State.checkBarrier_mem (s : State) (ctx team : Nat) : (State.checkBarrier s ctx team).mem = s.mem := by
  unfold State.checkBarrier; simp only []; (repeat' split) <;> simp
@[simp] theorem State.leaveTeam_mem (s : State) (ctx team lk : Nat) : (State.leaveTeam s ctx team lk).mem = s.mem := by
  unfold State.leaveTeam; simp only []; (repeat' split) <;> simp
@[simp] theorem State.noteTrans_mem (s : State) (pcore : Nat) (t : Trans) : (State.noteTrans s pcore t).mem = s.mem := rfl
@[simp] theorem State.noteAll_mem (s : State) (q : Asker) (ts : List Trans) : (State.noteAll s q ts).mem = s.mem := by
  unfold State.noteAll; exact foldl_mem _ _ _ fun t a => by simp
@[simp] theorem State.dropL1_mem (s : State) (pcore : Nat) (host : Bool) (line : Nat) : (State.dropL1 s pcore host line).mem = s.mem := rfl
@[simp] theorem State.l1Fill_mem (s : State) (pcore : Nat) (host : Bool) (line : Nat) : (State.l1Fill s pcore host line).mem = s.mem := rfl
@[simp] theorem State.l1Update_mem (s : State) (pcore : Nat) (host : Bool) (pa : Nat) (bs : List Byte) :
    (State.l1Update s pcore host pa bs).mem = s.mem := rfl
@[simp] theorem State.emptyL1_mem (s : State) (pcore : Nat) : (State.emptyL1 s pcore).mem = s.mem := rfl
@[simp] theorem State.acquire_mem (s : State) (scope : Nat) : (State.acquire s scope).mem = s.mem := by
  unfold State.acquire; split <;> simp
@[simp] theorem State.unuse_mem (s : State) (lk : Nat) (w : Work) : (State.unuse s lk w).mem = s.mem := by
  unfold State.unuse; simp only []; split <;> rfl
@[simp] theorem State.discardGuarded_mem (s : State) (lk : Nat) (k : Cmd) : (State.discardGuarded s lk k).mem = s.mem := by
  unfold State.discardGuarded; simp only []; (repeat' split) <;> simp
@[simp] theorem State.prune_mem (s : State) (lk : Nat) : (State.prune s lk).mem = s.mem := by
  unfold State.prune; simp
@[simp] theorem State.resolveGuard_mem (s : State) (fk : Nat) (n : Nat) (b : Bool) : (State.resolveGuard s fk n b).mem = s.mem := by
  unfold State.resolveGuard; simp
@[simp] theorem State.resolveAll_mem (s : State) (fk : Nat) : (State.resolveAll s fk).mem = s.mem := by
  unfold State.resolveAll; exact foldl_mem _ _ _ fun t a => by split <;> simp
@[simp] theorem State.stopFiring_mem (s : State) (fk : Nat) : (State.stopFiring s fk).mem = s.mem := by
  unfold State.stopFiring; simp
@[simp] theorem State.clearCore_mem (s : State) (lk : Nat) : (State.clearCore s lk).mem = s.mem := rfl
@[simp] theorem State.clearRequests_mem (s : State) (launch : Nat) : (State.clearRequests s launch).mem = s.mem := by
  unfold State.clearRequests; exact foldl_mem _ _ _ fun t a => by simp
@[simp] theorem State.clearTiles_mem (s : State) (launch : Nat) : (State.clearTiles s launch).mem = s.mem := foldl_mem _ _ _ fun _ _ => rfl
@[simp] theorem State.leaveAll_mem (s : State) (ctx : Nat) (lks : List Nat) : (State.leaveAll s ctx lks).mem = s.mem := by
  unfold State.leaveAll; simp
@[simp] theorem State.removeLaunch_mem (s : State) (launch : Nat) : (State.removeLaunch s launch).mem = s.mem := by
  unfold State.removeLaunch; simp only []; (repeat' split) <;> simp
@[simp] theorem State.waitFor_mem (s : State) (w : Wait) : (State.waitFor s w).mem = s.mem := by
  unfold State.waitFor; split <;> simp
@[simp] theorem State.startService_mem (s : State) (record : Nat) : (State.startService s record).mem = s.mem := by
  unfold State.startService; split <;> rfl
@[simp] theorem State.advanceDraws_mem (s : State) (n : Nat) : (State.advanceDraws s n).mem = s.mem := rfl
@[simp] theorem State.rounded_mem (s : State) (md : Mode) (n : Nat) (fl : BitVec 5) : (State.rounded s md n fl).mem = s.mem := by
  unfold State.rounded; split <;> simp
@[simp] theorem State.updateAmax_mem (s : State) (lk : Nat) (xs : List FVal) : (State.updateAmax s lk xs).mem = s.mem := rfl
@[simp] theorem State.writeGroup_mem (s : State) (p : Pfx) (q w : Nat) (d : BitVec 5) (out : List (Option Nat)) : (State.writeGroup s p q w d out).mem = s.mem := by
  unfold State.writeGroup; exact foldl_mem _ _ _ fun t a => by simp
@[simp] theorem State.writeElems_mem (s : State) (p : Pfx) (w : Nat) (d : BitVec 5) (out : List (Option Nat)) : (State.writeElems s p w d out).mem = s.mem := rfl
@[simp] theorem State.addItem_mem (s : State) (lk : Nat) (o : Out) : (State.addItem s lk o).mem = s.mem := rfl
@[simp] theorem State.dropItem_mem (s : State) (lk num : Nat) : (State.dropItem s lk num).mem = s.mem := by
  unfold State.dropItem; split <;> simp
@[simp] theorem State.decideItem_mem (s : State) (lk num : Nat) (m : Msg) (code : Nat) : (State.decideItem s lk num m code).mem = s.mem := by
  unfold State.decideItem; simp only []; (repeat' split) <;> simp
@[simp] theorem State.placeItem_mem (s : State) (lk : Nat) (o : Out) : (State.placeItem s lk o).mem = s.mem := by
  unfold State.placeItem; (repeat' split) <;> simp
@[simp] theorem State.consume_mem (s : State) (lk : Nat) (a : Actor) : (State.consume s lk a).mem = s.mem := by
  unfold State.consume
  refine foldl_mem _ _ _ fun t a => ?_
  simp only []; (repeat' split) <;> rfl
@[simp] theorem State.setEvents_mem (s : State) (ctx : Nat) (m : BitVec 256) : (State.setEvents s ctx m).mem = s.mem := rfl
@[simp] theorem State.clearEvents_mem (s : State) (ctx : Nat) (m : BitVec 256) : (State.clearEvents s ctx m).mem = s.mem := rfl
@[simp] theorem State.modQueue_mem (s : State) (ctx n : Nat) (f : LQueue → LQueue) : (State.modQueue s ctx n f).mem = s.mem := rfl
@[simp] theorem State.enqueue_mem (s : State) (q : Queue) (gn : BitVec 3) (w : Work) : (State.enqueue s q gn w).mem = s.mem := by
  unfold State.enqueue; split <;> simp
@[simp] theorem State.setSlot_mem (s : State) (oct n : Nat) (f : OpSlot → OpSlot) : (State.setSlot s oct n f).mem = s.mem := rfl
@[simp] theorem State.writeSlot_mem (s : State) (who : Option Nat) (oct n at_ : Nat) (r : Marked) : (State.writeSlot s who oct n at_ r).2.mem = s.mem := by
  unfold State.writeSlot; simp
@[simp] theorem State.claimSlot_mem (s : State) (t n : Nat) : (State.claimSlot s t n).mem = s.mem := rfl
@[simp] theorem State.turnTo_mem (s : State) (k : Nat) : (State.turnTo s k).mem = s.mem := by
  unfold State.turnTo; split <;> simp
@[simp] theorem State.sendComb_mem (s : State) (p : Combine) (dev : Option (BitVec 18)) : (State.sendComb s p dev).mem = s.mem := by
  unfold State.sendComb; (repeat' split) <;> rfl
@[simp] theorem State.putTile_mem (s : State) (t : Nat) (x : Tile) : (State.putTile s t x).mem = s.mem := rfl
@[simp] theorem State.modCmd_mem (s : State) (lk order : Nat) (h : Cmd → Cmd) : (State.modCmd s lk order h).mem = s.mem := rfl
@[simp] theorem State.retireCmd_mem (s : State) (lk : Nat) (k : Cmd) : (State.retireCmd s lk k).mem = s.mem := by
  unfold State.retireCmd; simp
@[simp] theorem State.takePath_mem (s : State) (oct lk : Nat) (k : Cmd) : (State.takePath s oct lk k).mem = s.mem := by
  unfold State.takePath; simp
@[simp] theorem State.leavePath_mem (s : State) (oct lk : Nat) (k : Cmd) : (State.leavePath s oct lk k).mem = s.mem := by
  unfold State.leavePath; simp
@[simp] theorem State.modTile_mem (s : State) (lk t : Nat) (h : Tile → Tile) : (State.modTile s lk t h).mem = s.mem := rfl
@[simp] theorem State.ofillStart_mem (s : State) (lk : Nat) (k : Cmd) : (State.ofillStart s lk k).mem = s.mem := by
  unfold State.ofillStart; split <;> simp
@[simp] theorem State.ofillDone_mem (s : State) (lk : Nat) (k : Cmd) : (State.ofillDone s lk k).mem = s.mem := by
  unfold State.ofillDone; split <;> simp
@[simp] theorem State.mmaskRun_mem (s : State) (lk : Nat) (k : Cmd) : (State.mmaskRun s lk k).mem = s.mem := by
  unfold State.mmaskRun; split <;> simp
@[simp] theorem State.adrainDone_mem (s : State) (lk : Nat) (k : Cmd) : (State.adrainDone s lk k).mem = s.mem := by
  unfold State.adrainDone; (repeat' split) <;> simp
@[simp] theorem State.acceptCmd_mem (s : State) (lk : Nat) (k : Cmd) : (State.acceptCmd s lk k).mem = s.mem := by
  unfold State.acceptCmd; simp
@[simp] theorem State.takeRequest_mem (s : State) (n q : Nat) (e : Nat × Cmd) : (State.takeRequest s n q e).mem = s.mem := rfl
@[simp] theorem State.modRunning_mem (s : State) (n lk order : Nat) (h : Cmd → Cmd) : (State.modRunning s n lk order h).mem = s.mem := rfl
@[simp] theorem State.retireCopy_mem (s : State) (n lk : Nat) (k : Cmd) : (State.retireCopy s n lk k).mem = s.mem := by
  unfold State.retireCopy; simp
@[simp] theorem State.startDest_mem (s : State) (lk : Nat) (p : Place) : (State.startDest s lk p).mem = s.mem := by
  unfold State.startDest; simp only []; (repeat' split) <;> rfl
@[simp] theorem State.notePoison_mem (s : State) (n lk : Nat) (k : Cmd) (p : Place) (bad : Bool) : (State.notePoison s n lk k p bad).mem = s.mem := by
  unfold State.notePoison; (repeat' split) <;> rfl
@[simp] theorem State.writeScales_mem (s : State) (lk : Nat) (p : Place) (scales : List (Nat × Marked)) : (State.writeScales s lk p scales).2.mem = s.mem := by
  unfold State.writeScales; split
  · rfl
  · exact foldl_mem₂ _ _ _ fun t a => by simp
@[simp] theorem State.haloStart_mem (s : State) (n lk : Nat) (k : Cmd) : (State.haloStart s n lk k).mem = s.mem := by
  unfold State.haloStart; simp only []; (repeat' split) <;> simp
@[simp] theorem State.setFull_mem (s : State) (lk num : Nat) (b : Bool) : (State.setFull s lk num b).mem = s.mem := rfl
@[simp] theorem State.noteLaunchFault_mem (s : State) (ctx va : Nat) : (State.noteLaunchFault s ctx va).mem = s.mem := rfl
@[simp] theorem State.advanceHead_mem (s : State) (ctx q : Nat) : (State.advanceHead s ctx q).mem = s.mem := rfl
@[simp] theorem State.resumeTicket_mem (s : State) (ctx : Nat) (ticket : Word) : (State.resumeTicket s ctx ticket).mem = s.mem := by
  unfold State.resumeTicket; split <;> simp
@[simp] theorem State.writeTail_mem (s : State) (ctx q : Nat) (v : Word) : (State.writeTail s ctx q v).mem = s.mem := rfl
@[simp] theorem State.runControl_mem (s : State) (pcore : Nat) (v : Word) : (State.runControl s pcore v).mem = s.mem := by
  unfold State.runControl; split <;> simp
@[simp] theorem State.modText_mem (s : State) (tok : Bool) (n : Nat) (h : TextEngine → TextEngine) : (State.modText s tok n h).mem = s.mem := by
  unfold State.modText; split <;> simp
@[simp] theorem State.holdEnd_mem (s : State) (lk chan : Nat) (b : Bool) : (State.holdEnd s lk chan b).mem = s.mem := rfl
@[simp] theorem State.writeRange_mem (s : State) (i w : Nat) (v : Word) : (State.writeRange s i w v).mem = s.mem := by
  unfold State.writeRange; (repeat' split) <;> rfl
@[simp] theorem State.invalidate_mem (s : State) (die ctx : Nat) (va len : Word) : (State.invalidate s die ctx va len).mem = s.mem := rfl
@[simp] theorem State.writePairing_mem (s : State) (ctx : Nat) (v : Word) : (State.writePairing s ctx v).mem = s.mem := by
  unfold State.writePairing; split <;> simp
@[simp] theorem State.modPort_mem (s : State) (p : Nat) (h : Port → Port) : (State.modPort s p h).mem = s.mem := rfl
@[simp] theorem State.ringIn_mem (s : State) (v : Word) : (State.ringIn s v).mem = s.mem := rfl
@[simp] theorem State.hold_mem (s : State) (mgmt : Bool) (pa : Nat) (bs : List Byte) : (State.hold s mgmt pa bs).mem = s.mem := rfl
@[simp] theorem State.retireFrame_mem (s : State) (cause pa : Nat) : (State.retireFrame s cause pa).mem = s.mem := by
  unfold State.retireFrame; simp only []; (repeat' split) <;> rfl
@[simp] theorem State.setSystemReg_mem (s : State) (n : Nat) (v : Word) : (State.setSystemReg s n v).mem = s.mem := by
  unfold State.setSystemReg; simp only []; (repeat' split) <;> rfl
@[simp] theorem State.matchYielded_mem (s : State) (lk : Nat) (q : QPip) : (State.matchYielded s lk q).mem = s.mem := by
  unfold State.matchYielded; split <;> simp
@[simp] theorem State.ageOthers_mem (s : State) (lk cls : Nat) : (State.ageOthers s lk cls).mem = s.mem := by
  unfold State.ageOthers; simp only [State.setTaskQueue_mem]; rw [foldl_mem _ _ _ fun t a => by simp]; rfl
@[simp] theorem State.removeItem_mem (s : State) (lk cls i : Nat) (q : QPip) : (State.removeItem s lk cls i q).mem = s.mem := by
  unfold State.removeItem; (repeat' split) <;> rfl
@[simp] theorem State.served_mem (s : State) (p lk : Nat) : (State.served s p lk).mem = s.mem := rfl
@[simp] theorem State.sendProbes_mem (s : State) (g : Firing) (key : BitVec 18 × Nat × Nat) (owner : Option Nat) (n : Nat) : (State.sendProbes s g key owner n).mem = s.mem := by
  unfold State.sendProbes; simp
@[simp] theorem State.countDrop_mem (s : State) (p : Nat) : (State.countDrop s p).mem = s.mem := rfl
@[simp] theorem State.dropFlit_mem (s : State) : (State.dropFlit s).mem = s.mem := rfl
@[simp] theorem State.farProbe_mem (s : State) (src : BitVec 18) (ctx team : Nat) (r : BitVec 32) (kdev : BitVec 18) (klc : BitVec 16) (kctx : BitVec 1) (n : Nat) :
    (State.farProbe s src ctx team r kdev klc kctx n).mem = s.mem := by
  unfold State.farProbe; simp only []; split <;> simp
@[simp] theorem State.resolvePending_mem (s : State) (fk : Nat) (seqno : BitVec 32) : (State.resolvePending s fk seqno).mem = s.mem := by
  unfold State.resolvePending; simp
@[simp] theorem State.retireFiring_mem (s : State) : (State.retireFiring s).mem = s.mem := by
  unfold State.retireFiring; simp
@[simp] theorem State.endLaunch_mem (s : State) (launch : Nat) (code : Code) : (s.endLaunch launch code).mem = s.mem := by
  unfold State.endLaunch
  split
  · rfl
  · split
    · rfl
    · simp only [State.clearTiles_mem, State.clearRequests_mem]
      rw [foldl_mem _ _ _ fun t a => t.clearCore_mem a, foldl_mem _ _ _ fun t a => t.stopFiring_mem a]; rfl
@[simp] theorem State.refuseTicket_mem (s : State) (ctx : Nat) (ticket : Word) : (State.refuseTicket s ctx ticket).mem = s.mem := by
  unfold State.refuseTicket; split <;> simp
@[simp] theorem State.setWindow_mem (s : State) (v : Word) (n : Nat) : (State.setWindow s v n).mem = s.mem := rfl
@[simp] theorem State.takeFault_mem (s : State) (code : Code) (m : BitVec 12) (addr : Word) (acc : BitVec 2) :
    (s.takeFault code m addr acc).mem = s.mem := by
  unfold State.takeFault
  simp only []
  split
  · rfl
  · split
    · simp
    · rw [State.endLaunch_mem, State.stopFiring_mem, State.resolveAll_mem]
      split <;> split <;> rfl
@[simp] theorem State.takeFlt_mem (s : State) (e : Flt) : (s.takeFlt e).mem = s.mem := s.takeFault_mem ..

/-- Validation says that each line of both sets is in its slice with the stamp that was recorded. -/
theorem State.validates_iff (s : State) (r : Region) : s.validates r = true ↔
    (∀ x ∈ r.reads, ∃ e, s.l2Line x.1 = some e ∧ e.stamp = x.2) ∧ ∀ h ∈ r.hold, ∃ e, s.l2Line h.line = some e ∧ e.stamp = h.stamp := by
  simp only [State.validates, Bool.and_eq_true, List.all_eq_true, Option.any_eq_true, beq_iff_eq]

end Sys2Proof.Machine
end

