-- ==== Sys2Proof/Laws/Memory.lean ====
section
/-! SUPPORT. Laws of byte memory: a byte reads what was written last and no other byte changes, and every memory operation keeps
the canonical form. -/

namespace Sys2Proof.Machine

open Sys2Proof

/-! ## Reading back -/

theorem Mem.get_append (m r : List Host.Cell) (x : Nat) :
    Mem.get (m ++ r) x = if m.any (fun c => c.1 == x) then Mem.get m x else Mem.get r x := by
  induction m with
  | nil => simp
  | cons c t ih => obtain ⟨k, v⟩ := c; simp only [List.cons_append, Mem.get, List.any_cons]; grind

theorem Mem.get_of_unlisted (m : List Host.Cell) (x : Nat) (h : m.any (fun c => c.1 == x) = false) : Mem.get m x = 0 := by
  induction m with
  | nil => rfl
  | cons c t ih => obtain ⟨k, v⟩ := c; simp only [Mem.get]; grind

theorem Mem.get_filter (m : List Host.Cell) (p : Nat → Bool) (x : Nat) :
    Mem.get (m.filter fun c => p c.1) x = if p x then Mem.get m x else 0 := by
  induction m with
  | nil => simp [Mem.get]
  | cons c t ih =>
    obtain ⟨k, v⟩ := c
    by_cases hk : p k
    · rw [List.filter_cons_of_pos (by simpa using hk)]; simp only [Mem.get]; grind
    · rw [List.filter_cons_of_neg (by simpa using hk)]; simp only [Mem.get]; grind

theorem Mem.any_filter (m : List Host.Cell) (p : Nat → Bool) (x : Nat) (h : p x = false) :
    (m.filter fun c => p c.1).any (fun c => c.1 == x) = false := by
  simp only [List.any_eq_false, List.mem_filter, beq_iff_eq]
  rintro c ⟨_, hc⟩ rfl
  simp [h] at hc

theorem Mem.get_cells (a : Nat) (bs : List Byte) (x : Nat) :
    Mem.get (Mem.cells a bs) x = if a ≤ x then (bs[x - a]?).getD 0 else 0 := by
  induction bs generalizing a with
  | nil => simp [Mem.cells, Mem.get]
  | cons b r ih =>
    simp only [Mem.cells]
    rcases Nat.lt_trichotomy x a with h | h | h
    · have : ¬ a + 1 ≤ x := by omega
      split <;> simp [Mem.get, ih, this, show ¬ a ≤ x by omega, show a ≠ x by omega]
    · subst h
      split <;> rename_i h0
      · simp [ih, h0]
      · simp [Mem.get]
    · obtain ⟨k, rfl⟩ : ∃ k, x = a + 1 + k := ⟨x - a - 1, by omega⟩
      have e : a + 1 + k - a = k + 1 := by omega
      split <;> simp [Mem.get, ih, e, show a + 1 ≤ a + 1 + k by omega, show a ≤ a + 1 + k by omega,
        show a ≠ a + 1 + k by omega]

theorem Mem.any_cells (a : Nat) (bs : List Byte) (x : Nat) (h : x < a ∨ a + bs.length ≤ x) :
    (Mem.cells a bs).any (fun c => c.1 == x) = false := by
  induction bs generalizing a with
  | nil => rfl
  | cons b r ih =>
    simp only [List.length_cons] at h
    have := ih (a + 1) (by omega)
    simp only [Mem.cells]
    split
    · exact this
    · simp only [List.any_cons, this, Bool.or_false]; simp; omega

/-- A write at `a` gives its bytes to the addresses it covers and leaves the others. -/
theorem Mem.get_write (m : List Host.Cell) (a : Nat) (bs : List Byte) (x : Nat) :
    Mem.get (Mem.write m a bs) x = if a ≤ x ∧ x < a + bs.length then (bs[x - a]?).getD 0 else Mem.get m x := by
  simp only [Mem.write]
  have f1 := Mem.get_filter m (fun k => decide (k < a)) x
  have f2 := Mem.get_filter m (fun k => decide (a + bs.length ≤ k)) x
  rcases Nat.lt_or_ge x a with h | h
  · have c := Mem.any_cells a bs x (.inl h)
    have z := Mem.any_filter m (fun k => decide (a + bs.length ≤ k)) x (by simp; omega)
    rw [Mem.get_append, List.any_append, c, Bool.or_false, Mem.get_append]
    simp only [f1, f2, Mem.get_of_unlisted _ _ c, show ¬ a ≤ x by omega, h, show ¬ (a + bs.length ≤ x) by omega]
    cases hm : (m.filter fun k => decide (k.1 < a)).any (fun k => k.1 == x) with
    | true => simp
    | false =>
      have := Mem.get_of_unlisted _ _ hm
      rw [f1] at this
      simpa [h] using this.symm
  · have z := Mem.any_filter m (fun k => decide (k < a)) x (by simp; omega)
    rw [List.append_assoc, Mem.get_append, z]
    simp only [Bool.false_eq_true, if_false]
    rw [Mem.get_append, Mem.get_cells]
    rcases Nat.lt_or_ge x (a + bs.length) with h' | h'
    · simp only [f2, h, h', show ¬ (a + bs.length ≤ x) by omega, and_self, if_true]
      cases hm : (Mem.cells a bs).any (fun k => k.1 == x) with
      | true => simp
      | false =>
        have := Mem.get_of_unlisted _ _ hm
        rw [Mem.get_cells] at this
        simpa [h] using this.symm
    · have c := Mem.any_cells a bs x (.inr h')
      simp [c, f2, h', show ¬ (x < a + bs.length) by omega]

theorem Mem.get_write_of_outside (m : List Host.Cell) {a x : Nat} (bs : List Byte) (h : x < a ∨ a + bs.length ≤ x) :
    Mem.get (Mem.write m a bs) x = Mem.get m x := by
  rw [Mem.get_write, if_neg (by omega)]

theorem Mem.get_set (m : List Host.Cell) (a : Nat) (b : Byte) (x : Nat) :
    Mem.get (Mem.set m a b) x = if x = a then b else Mem.get m x := by
  rw [Mem.set, Mem.get_write]
  by_cases h : x = a
  · subst h; simp
  · rw [if_neg (by simp; omega), if_neg h]

/-- Cleared addresses read zero; the others are unchanged. -/
theorem Mem.get_clear (m : List Host.Cell) (a n x : Nat) :
    Mem.get (Mem.clear m a n) x = if a ≤ x ∧ x < a + n then 0 else Mem.get m x := by
  rw [Mem.clear, Mem.get_filter m (fun k => !(decide (a ≤ k) && decide (k < a + n))) x]
  by_cases h : a ≤ x ∧ x < a + n
  · simp [h]
  · rw [if_neg h, if_pos (by simp; omega)]

/-- A read gives the bytes of its addresses. -/
theorem Mem.read_eq (m : List Host.Cell) (a n : Nat) : Mem.read m a n = (List.range n).map fun i => Mem.get m (a + i) := by
  simp only [Mem.read, Mem.within]
  refine List.map_congr_left fun i hi => ?_
  have hi := List.mem_range.mp hi
  rw [Mem.get_filter m (fun k => decide (a ≤ k) && decide (k < a + n))]
  simp; omega

@[simp] theorem Mem.read_length (m : List Host.Cell) (a n : Nat) : (Mem.read m a n).length = n := by simp [Mem.read]

/-- A read of what was just written gives it back. -/
theorem Mem.read_write_same (m : List Host.Cell) (a : Nat) (bs : List Byte) :
    Mem.read (Mem.write m a bs) a bs.length = bs := by
  apply List.ext_getElem
  · simp
  · intro i h1 h2
    simp [Mem.read_eq, Mem.get_write, h2]

/-- A read that a write does not meet is unchanged. -/
theorem Mem.read_write_of_disjoint (m : List Host.Cell) {a b n : Nat} (bs : List Byte) (h : b + n ≤ a ∨ a + bs.length ≤ b) :
    Mem.read (Mem.write m a bs) b n = Mem.read m b n := by
  simp only [Mem.read_eq]
  refine List.map_congr_left fun i hi => ?_
  have hi := List.mem_range.mp hi
  exact Mem.get_write_of_outside m bs (by omega)

/-! ## The canonical form -/

theorem Mem.above_iff (a : Nat) (m : List Host.Cell) : Mem.above a m = true ↔ ∀ c ∈ m, a < c.1 := by
  simp [Mem.above]

/-- The canonical form as a property: addresses rise strictly and no byte is zero. -/
theorem Mem.wf_iff (m : List Host.Cell) :
    Mem.wf m = true ↔ m.Pairwise (fun c d => c.1 < d.1) ∧ ∀ c ∈ m, c.2 ≠ 0 := by
  induction m with
  | nil => simp [Mem.wf]
  | cons c r ih =>
    obtain ⟨k, v⟩ := c
    simp only [Mem.wf, Bool.and_eq_true, ih, Mem.above_iff, List.pairwise_cons, List.mem_cons, forall_eq_or_imp]
    simp only [bne_iff_ne, ne_eq]
    tauto

theorem Mem.mem_cells {a : Nat} {bs : List Byte} {c : Host.Cell} (h : c ∈ Mem.cells a bs) :
    a ≤ c.1 ∧ c.1 < a + bs.length ∧ c.2 ≠ 0 := by
  induction bs generalizing a with
  | nil => simp [Mem.cells] at h
  | cons b r ih =>
    simp only [Mem.cells] at h
    simp only [List.length_cons]
    split at h
    · have := ih h; exact ⟨by omega, by omega, this.2.2⟩
    · rcases List.mem_cons.mp h with rfl | h
      · exact ⟨by simp, by simp, by assumption⟩
      · have := ih h; exact ⟨by omega, by omega, this.2.2⟩

theorem Mem.cells_pairwise (a : Nat) (bs : List Byte) : (Mem.cells a bs).Pairwise (fun c d => c.1 < d.1) := by
  induction bs generalizing a with
  | nil => simp [Mem.cells]
  | cons b r ih =>
    simp only [Mem.cells]
    split
    · exact ih _
    · refine List.pairwise_cons.mpr ⟨fun c hc => ?_, ih _⟩
      have := Mem.mem_cells hc
      simp; omega

theorem Mem.wf_filter {m : List Host.Cell} (p : Host.Cell → Bool) (h : Mem.wf m = true) : Mem.wf (m.filter p) = true := by
  rw [Mem.wf_iff] at *
  exact ⟨h.1.filter p, fun c hc => h.2 c (List.mem_filter.mp hc).1⟩

/-- A write keeps the canonical form. -/
theorem Mem.wf_write {m : List Host.Cell} (a : Nat) (bs : List Byte) (h : Mem.wf m = true) : Mem.wf (Mem.write m a bs) = true := by
  rw [Mem.wf_iff] at *
  have lo : ∀ c ∈ m.filter (fun c => decide (c.1 < a)), c.1 < a := fun c hc => by simpa using (List.mem_filter.mp hc).2
  have hi : ∀ c ∈ m.filter (fun c => decide (a + bs.length ≤ c.1)), a + bs.length ≤ c.1 := fun c hc => by
    simpa using (List.mem_filter.mp hc).2
  refine ⟨?_, ?_⟩
  · rw [Mem.write, List.pairwise_append, List.pairwise_append]
    refine ⟨⟨h.1.filter _, Mem.cells_pairwise _ _, fun c hc d hd => ?_⟩, h.1.filter _, fun c hc d hd => ?_⟩
    · have := lo c hc; have := Mem.mem_cells hd; omega
    · have := hi d hd
      rcases List.mem_append.mp hc with hc | hc
      · have := lo c hc; omega
      · have := Mem.mem_cells hc; omega
  · intro c hc
    simp only [Mem.write, List.mem_append] at hc
    rcases hc with (hc | hc) | hc
    · exact h.2 c (List.mem_filter.mp hc).1
    · exact (Mem.mem_cells hc).2.2
    · exact h.2 c (List.mem_filter.mp hc).1

theorem Mem.wf_set {m : List Host.Cell} (a : Nat) (b : Byte) (h : Mem.wf m = true) : Mem.wf (Mem.set m a b) = true :=
  Mem.wf_write a [b] h

theorem Mem.wf_clear {m : List Host.Cell} (a n : Nat) (h : Mem.wf m = true) : Mem.wf (Mem.clear m a n) = true :=
  Mem.wf_filter _ h

theorem Memories.wf_iff (m : Memories) :
    m.wf = true ↔ Mem.wf m.home = true ∧ Mem.wf m.side = true ∧ Mem.wf m.array = true ∧ Mem.wf m.host = true := by
  simp [Memories.wf, and_assoc]

theorem Memories.wf_empty : Memories.empty.wf = true := rfl

end Sys2Proof.Machine
end

