-- ==== Sys2Proof/Laws/Home.lean ====
section
/-! SUPPORT. Every operation on memory keeps its canonical form. -/

namespace Sys2Proof.Machine

open Sys2Proof

theorem foldl_wf {α : Type} (g : State → α → State) (l : List α) (s : State) (hs : s.mem.wf = true)
    (h : ∀ t a, t.mem.wf = true → (g t a).mem.wf = true) : (l.foldl g s).mem.wf = true := by
  induction l generalizing s with
  | nil => exact hs
  | cons a r ih => exact ih _ (h s a hs)

theorem Memories.foldl_wf {α : Type} (g : Memories → α → Memories) (l : List α) (m : Memories) (hm : m.wf = true)
    (h : ∀ n a, n.wf = true → (g n a).wf = true) : (l.foldl g m).wf = true := by
  induction l generalizing m with
  | nil => exact hm
  | cons a r ih => exact ih _ (h m a hm)

@[simp] theorem Memories.wf_msc (m : Memories) (x) : ({ m with msc := x } : Memories).wf = m.wf := rfl
@[simp] theorem Memories.wf_l2 (m : Memories) (x) : ({ m with l2 := x } : Memories).wf = m.wf := rfl
@[simp] theorem Memories.wf_stamps (m : Memories) (x) : ({ m with stamps := x } : Memories).wf = m.wf := rfl
@[simp] theorem Memories.wf_poison (m : Memories) (x) : ({ m with poison := x } : Memories).wf = m.wf := rfl
@[simp] theorem Memories.wf_soft (m : Memories) (x) : ({ m with soft := x } : Memories).wf = m.wf := rfl
@[simp] theorem Memories.wf_msc_predictor (m : Memories) (x y) : ({ m with msc := x, predictor := y } : Memories).wf = m.wf := rfl

theorem Memories.toArray_wf (m : Memories) (g : Nat) (h : m.wf = true) : (m.toArray g).wf = true := by
  grind [Memories.wf_iff, Memories.toArray, Mem.wf_write]

theorem Memories.toSide_wf (m : Memories) (g : Nat) (h : m.wf = true) : (m.toSide g).wf = true := by
  grind [Memories.wf_iff, Memories.toSide, Mem.wf_write]

theorem Memories.writeHome_wf (m : Memories) (a : Nat) (bs : List Byte) (h : m.wf = true) :
    ({ m with home := Mem.write m.home a bs } : Memories).wf = true := by grind [Memories.wf_iff, Mem.wf_write]

theorem Memories.writeHost_wf (m : Memories) (a : Nat) (bs : List Byte) (h : m.wf = true) :
    ({ m with host := Mem.write m.host a bs } : Memories).wf = true := by grind [Memories.wf_iff, Mem.wf_write]

theorem State.mscEvict_wf (s : State) (ln : MscLine) (h : s.mem.wf = true) : (s.mscEvict ln).mem.wf = true := by
  unfold State.mscEvict
  exact Memories.foldl_wf (fun m i => if ln.dirty.getLsbD i then m.toArray (32 * ln.line + i) else m) (List.range 32) s.mem h
    (by grind [Memories.toArray_wf])

theorem State.mscRequest_wf (s : State) (l : Nat) (need : BitVec 64) (h : s.mem.wf = true) : (s.mscRequest l need).mem.wf = true := by
  unfold State.mscRequest
  simp only []
  split
  · exact h
  · simp only [Memories.wf_msc]
    split
    · exact h
    · split
      · exact State.mscEvict_wf _ _ h
      · exact h

theorem State.mscDirty_wf (s : State) (pa : Nat) (h : s.mem.wf = true) : (s.mscDirty pa).mem.wf = true :=
  State.mscRequest_wf s _ _ h

theorem State.mscClean_wf (s : State) (pa : Nat) (h : s.mem.wf = true) : (s.mscClean pa).mem.wf = true :=
  Memories.toArray_wf _ _ h

theorem State.newStamp_wf (s : State) (g : Nat) (h : s.mem.wf = true) : (s.newStamp g).2.mem.wf = true := h

theorem State.l2Clean_wf (s : State) (g : Nat) (h : s.mem.wf = true) : (s.l2Clean g).mem.wf = true := by
  unfold State.l2Clean
  split
  · split
    · exact Memories.toSide_wf _ _ (s.mscDirty_wf _ h)
    · exact h
  · exact h

theorem State.l2Drop_wf (s : State) (g : Nat) (h : s.mem.wf = true) : (s.l2Drop g).mem.wf = true := s.l2Clean_wf g h

theorem State.l2Fill_wf (s : State) (g : Nat) (need : BitVec 2) (h : s.mem.wf = true) : (s.l2Fill g need).mem.wf = true := by
  unfold State.l2Fill
  split
  · split
    · exact h
    · exact State.mscRequest_wf _ _ _ h
  · simp only []
    refine State.mscRequest_wf _ _ _ ?_
    split
    · exact h
    · split
      · exact s.l2Drop_wf _ h
      · exact h

theorem State.lineStamp_wf (s : State) (g : Nat) (need : BitVec 2) (h : s.mem.wf = true) : (s.lineStamp g need).2.mem.wf = true :=
  s.l2Fill_wf g need h
theorem State.l2Written_wf (s : State) (g : Nat) (need : BitVec 2) (h : s.mem.wf = true) : (s.l2Written g need).mem.wf = true :=
  s.l2Fill_wf g need h
theorem State.cleanAll_wf (s : State) (h : s.mem.wf = true) : s.cleanAll.mem.wf = true :=
  foldl_wf _ _ _ h fun t a ht => t.l2Clean_wf a ht

theorem State.fillRange_wf (s : State) (pa n : Nat) (h : s.mem.wf = true) : (s.fillRange pa n).mem.wf = true := by
  unfold State.fillRange
  split
  · exact foldl_wf _ _ _ h fun t _ ht => t.l2Fill_wf _ _ ht
  · exact h

theorem State.writeGranule_wf (s : State) (who : Option Nat) (host : Bool) (pa : Nat) (bs : List Byte) (h : s.mem.wf = true) :
    (s.writeGranule who host pa bs).mem.wf = true := by
  unfold State.writeGranule
  split
  · exact h
  · split
    · exact Memories.writeHost_wf _ _ _ h
    · split
      · rw [State.memError_mem]
        split
        · exact s.l2Written_wf _ _ h
        · exact h
      · have h' : (if s.poisoned pa = true then s.clearPoison pa else s).mem.wf = true := by split <;> exact h
        simp only []
        split
        · exact State.l2Written_wf _ _ _ (Memories.writeHome_wf _ _ _ h')
        · exact Memories.writeHome_wf _ _ _ h'

theorem State.writePhys_wf (s : State) (who : Option Nat) (host : Bool) (pa : Nat) (bs : List Byte) (h : s.mem.wf = true) :
    (s.writePhys who host pa bs).mem.wf = true :=
  foldl_wf _ _ _ h fun t _ ht => t.writeGranule_wf _ _ _ _ ht

theorem State.settle_wf (s : State) (h : s.mem.wf = true) : s.settle.mem.wf = true := by rw [State.settle_mem]; exact h

theorem State.increment_wf (s : State) (who : Option Nat) (pa : Nat) (p : Bool) (h : s.mem.wf = true) :
    (s.increment who pa p).mem.wf = true := State.settle_wf _ (s.writePhys_wf _ _ _ _ h)

theorem State.dropL1_wf (s : State) (pc : Nat) (host : Bool) (line : Nat) (h : s.mem.wf = true) : (s.dropL1 pc host line).mem.wf = true := by
  rw [State.dropL1_mem]; exact h

theorem State.purge_wf (s : State) (base len : Word) (h : s.mem.wf = true) : (s.purge base len).mem.wf = true :=
  foldl_wf _ _ _ h fun t _ ht => t.l2Drop_wf _ ht

theorem State.completionVia_wf (s : State) (reg : State → Nat → Word → State) (ctx va : Nat) (v : Word) (h : s.mem.wf = true)
    (hr : ∀ t pa w, t.mem.wf = true → (reg t pa w).mem.wf = true) : (s.completionVia reg ctx va v).mem.wf = true := by
  unfold State.completionVia
  refine State.settle_wf _ ?_
  rw [State.raise_mem]
  split
  · rename_i t ht
    unfold State.unitWord at ht
    split at ht
    · cases ht
    · cases hl : s.unitLocate ctx true (pieces va 8) with
      | error e => rw [hl] at ht; cases ht
      | ok ps =>
        rw [hl] at ht
        obtain rfl := Except.ok.inj ht
        refine foldl_wf _ _ _ h fun u a hu => ?_
        split
        · exact hr _ _ _ hu
        · exact State.l2Clean_wf _ _ (u.writePhys_wf _ _ _ _ hu)
  · exact h

theorem State.removeRecords_wf (reg : State → Nat → Word → State) (hr : ∀ t pa w, t.mem.wf = true → (reg t pa w).mem.wf = true) (ctx q : Nat)
    (v : BitVec 32) (n : Nat) (s : State) (h : s.mem.wf = true) : (s.removeRecords reg ctx q v n).mem.wf = true := by
  induction n generalizing s with
  | zero => exact h
  | succ n ih =>
    unfold State.removeRecords
    simp only []
    split
    · exact h
    · refine ih _ ?_
      split
      · rw [State.advanceHead_mem]; exact h
      · exact State.completionVia_wf _ _ _ _ _ (by rw [State.advanceHead_mem]; exact h) hr

/-- What keeps the memories in their form as it writes the head of a queue. -/
def KeepsForm (head : State → Nat → Nat → Word → State) : Prop := ∀ s c q v, s.mem.wf = true → (head s c q v).mem.wf = true

theorem State.writeQueue_wf (s : State) (head) (hh : KeepsForm head) (c q w : Nat) (v : Word) (h : s.mem.wf = true) :
    (s.writeQueue head c q w v).mem.wf = true := by
  unfold State.writeQueue
  split
  · exact h
  · exact h
  · exact hh _ _ _ _ h
  · rw [State.writeTail_mem]; exact h
  · exact h

/-- A write of a device register keeps the memories in their form: it changes none but by a purge and by the completion words of a head write. -/
theorem State.writeBlock_wf (s : State) (head) (hh : KeepsForm head) (mgmt : Bool) (b : RegBlock) (v : Word) (h : s.mem.wf = true) :
    (s.writeBlock head mgmt b v).mem.wf = true := by
  unfold State.writeBlock
  cases b
  case queue c q w => exact s.writeQueue_wf _ hh _ _ _ _ h
  case purge w =>
    simp only []
    split
    · exact h
    · split
      · exact s.purge_wf _ _ h
      · exact h
  all_goals simp only []
  all_goals (repeat' split) <;> simp [h]

theorem writeHeadWithin_wf (n : Nat) : KeepsForm (State.writeHeadWithin n) := by
  induction n with
  | zero => exact fun _ _ _ _ h => h
  | succ n ih => exact fun s _ _ _ h => State.removeRecords_wf _ (fun t _ _ ht => t.writeBlock_wf _ ih _ _ _ ht) _ _ _ _ s h

theorem writeHead_wf : KeepsForm State.writeHead := fun s c q v h => by
  unfold State.writeHead; exact writeHeadWithin_wf (recordBound + 1) s c q v h

theorem State.writeReg_wf (s : State) (mgmt : Bool) (pa : Nat) (v : Word) (h : s.mem.wf = true) : (s.writeReg mgmt pa v).mem.wf = true := by
  unfold State.writeReg; exact s.writeBlock_wf _ writeHead_wf _ _ _ h

theorem State.completionWord_wf (s : State) (ctx va : Nat) (v : Word) (h : s.mem.wf = true) : (s.completionWord ctx va v).mem.wf = true :=
  s.completionVia_wf _ _ _ _ h fun t _ _ ht => t.writeReg_wf _ _ _ ht

theorem State.sendRegister_wf (s : State) (pa : Nat) (bs : List Byte) (h : s.mem.wf = true) : (s.sendRegister pa bs).mem.wf = true :=
  foldl_wf _ _ _ h fun t _ ht => t.writeReg_wf _ _ _ ht

theorem State.l1Update_wf (s : State) (pc : Nat) (host : Bool) (pa : Nat) (bs : List Byte) (h : s.mem.wf = true) :
    (s.l1Update pc host pa bs).mem.wf = true := by
  rw [State.l1Update_mem]; exact h

theorem State.writePut_wf (s : State) (p : PendingPut) (h : s.mem.wf = true) : (s.writePut p).mem.wf = true :=
  foldl_wf _ _ _ h fun t a ht => by
    refine State.settle_wf _ ?_
    split
    · exact t.sendRegister_wf _ _ ht
    · exact State.l1Update_wf _ _ _ _ _ (t.writeGranule_wf _ _ _ _ ht)

theorem State.setMirror_wf (s : State) (lk i n : Nat) (h : s.mem.wf = true) : (s.setMirror lk i n).mem.wf = true := by
  unfold State.setMirror; exact s.writePhys_wf _ _ _ _ h

theorem State.enterRing_wf (s : State) (e : ChanEntry) (h : s.mem.wf = true) : (s.enterRing e).mem.wf = true := by
  unfold State.enterRing
  split
  · exact h
  · refine State.settle_wf _ (State.setMirror_wf _ _ _ _ ?_)
    rw [State.modLc_mem]; exact s.writePhys_wf _ _ _ _ h

theorem State.enterOwn_wf (s : State) (fk : Nat) (h : s.mem.wf = true) : (s.enterOwn fk).mem.wf = true := by
  unfold State.enterOwn
  split
  · exact foldl_wf _ _ _ h fun t e ht => t.enterRing_wf e ht
  · exact h

theorem State.writePlain_wf (s : State) (who : Option Nat) (host : Bool) (pa : Nat) (bs : List Byte) (h : s.mem.wf = true) :
    (s.writePlain who host pa bs).mem.wf = true := by
  unfold State.writePlain
  split
  · exact s.sendRegister_wf _ _ h
  · exact s.writePhys_wf _ _ _ _ h

theorem State.raiseCounter_wf (s : State) (who : Option Nat) (pa : Nat) (p : Bool) (h : s.mem.wf = true) :
    (s.raiseCounter who pa p).mem.wf = true := State.settle_wf _ (s.writePlain_wf _ _ _ _ h)

theorem State.raisePut_wf (s : State) (p : PendingPut) (h : s.mem.wf = true) : (s.raisePut p).mem.wf = true := by
  have up (t : State) (c : Nat) (ht : t.mem.wf = true) :
      ((t.raiseCounter (some p.ctx) c false).l1Update p.pcore false c ((t.raiseCounter (some p.ctx) c false).readHome false c 8)).mem.wf = true :=
    State.l1Update_wf _ _ _ _ _ (t.raiseCounter_wf _ _ _ ht)
  unfold State.raisePut
  split
  · exact h
  · simp only []
    by_cases f : p.far = true
    · simp only [if_pos f]; exact State.l2Clean_wf _ _ (up _ _ (State.cleanAll_wf _ (s.enterOwn_wf _ h)))
    · simp only [if_neg f]; exact up _ _ (s.enterOwn_wf _ h)

theorem State.performAll_wf (s : State) (l : List PendingPut) (h : s.mem.wf = true) : (s.performAll l).mem.wf = true :=
  foldl_wf _ _ _ h fun t a ht => State.raisePut_wf _ _ (t.writePut_wf a ht)

theorem State.performFirst_wf (s : State) (fk n : Nat) (h : s.mem.wf = true) : (s.performFirst fk n).mem.wf = true := by
  unfold State.performFirst
  split
  · exact h
  · exact State.performAll_wf _ _ h

theorem State.drainPuts_wf (s : State) (pick : PendingPut → Bool) (h : s.mem.wf = true) : (s.drainPuts pick).mem.wf = true := by
  unfold State.drainPuts
  split
  · exact State.performAll_wf _ _ h
  · exact h

theorem State.drainOwn_wf (s : State) (q : Asker) (ps : List Spot) (h : s.mem.wf = true) : (s.drainOwn q ps).mem.wf = true := by
  unfold State.drainOwn
  split
  · refine State.performFirst_wf _ _ _ ?_
    split
    · exact s.enterOwn_wf _ h
    · exact h
  · exact h

theorem State.reach_wf (s : State) (q : Asker) (ps : List Spot) (ts : List Trans) (h : s.mem.wf = true) : (s.reach q ps ts).mem.wf = true :=
  State.drainOwn_wf _ _ _ (by rw [State.noteAll_mem]; exact h)

theorem State.storeSpot_wf (s : State) (q : Asker) (p : Spot) (bs : List Byte) (h : s.mem.wf = true) :
    (s.storeSpot q p bs).mem.wf = true := by
  unfold State.storeSpot
  simp only []
  split
  · exact State.sendRegister_wf _ _ _ h
  · split
    · exact State.l1Update_wf _ _ _ _ _ (State.writeGranule_wf _ _ _ _ _ h)
    · exact State.writeGranule_wf _ _ _ _ _ h

theorem State.storeSpots_wf (q : Asker) (l : List (Spot × List Byte)) (s : State) (h : s.mem.wf = true) :
    (s.storeSpots q l).mem.wf = true := by
  induction l generalizing s with
  | nil => exact h
  | cons e r ih => exact ih _ (State.settle_wf _ (s.storeSpot_wf q e.1 e.2 h))

theorem State.releaseDevice_wf (s : State) (h : s.mem.wf = true) : s.releaseDevice.mem.wf = true :=
  State.performFirst_wf _ _ _ (s.enterOwn_wf _ h)

theorem State.release_wf (s : State) (scope : Nat) (h : s.mem.wf = true) : (s.release scope).mem.wf = true := by
  unfold State.release
  split
  · exact State.cleanAll_wf _ (s.releaseDevice_wf h)
  · exact s.releaseDevice_wf h

theorem State.stntSpot_wf (s : State) (q : Asker) (p : Spot) (bs : List Byte) (h : s.mem.wf = true) :
    (s.stntSpot q p bs).mem.wf = true := by
  have h' := s.l1Update_wf q.pcore p.host p.pa bs h
  unfold State.stntSpot
  by_cases e : p.host = true
  · simp only [if_pos e]; exact State.writeGranule_wf _ _ _ _ _ h'
  · simp only [if_neg e]
    split
    · exact State.sendRegister_wf _ _ _ h'
    · split
      · exact State.writeGranule_wf _ _ _ _ _ h'
      · split
        · exact State.l2Clean_wf _ _ (State.writeGranule_wf _ _ _ _ _ h')
        · split
          · rw [State.memError_mem]; exact h'
          · exact Memories.toSide_wf _ _ (Memories.writeHome_wf _ _ _ (State.mscDirty_wf _ _ h'))

theorem State.enterGranule_wf (s : State) (who : Option Nat) (pa : Nat) (bs : List Byte) (h : s.mem.wf = true) :
    (s.enterGranule who pa bs).mem.wf = true := by
  have hd := s.l2Drop_wf (pa / 64) h
  unfold State.enterGranule
  simp only []
  split
  · rw [State.memError_mem]; exact hd
  · refine State.mscDirty_wf _ _ ?_
    have h' : ((s.l2Drop (pa / 64)).clearPoison pa).mem.wf = true := hd
    grind [Memories.wf_iff, Mem.wf_write]

theorem State.enterPhys_wf (s : State) (who : Option Nat) (pa : Nat) (bs : List Byte) (h : s.mem.wf = true) :
    (s.enterPhys who pa bs).mem.wf = true :=
  foldl_wf _ _ _ h fun t a ht => by
    split
    · exact State.settle_wf _ (t.enterGranule_wf _ _ _ ht)
    · split
      · exact State.settle_wf _ (t.writeGranule_wf _ _ _ _ ht)
      · exact ht

theorem placeBytes_wf (l : List (Spot × List Byte)) (m : Memories) (h : m.wf = true) : (placeBytes m l).wf = true := by
  induction l generalizing m with
  | nil => exact h
  | cons e r ih =>
    unfold placeBytes
    refine ih _ ?_
    split
    · exact Memories.writeHost_wf _ _ _ h
    · exact Memories.writeHome_wf _ _ _ h

end Sys2Proof.Machine
end

