-- ==== Sys2Proof/Laws/Issue.lean ====
section
/-! SUPPORT. What the frame of issue can do, what a fetch can find, and what the accesses of a firing change. -/

namespace Sys2Proof.Machine

open Sys2Proof

/-! ## The frame of issue (R79) -/

@[simp] theorem State.finish_retire (s t : State) (n : Nat) : s.finish n (.retire t) = t.retireTo (s.f.pc + BitVec.ofNat 64 n) := rfl
@[simp] theorem State.finish_jump (s t : State) (n : Nat) (pc : Word) : s.finish n (.jump t pc) = t.retireTo pc := rfl
@[simp] theorem State.finish_fault (s : State) (n : Nat) (c : Code) (a : Word) (x : BitVec 2) :
    s.finish n (.fault c a x) = s.takeFault c 0 a x := rfl
@[simp] theorem State.finish_wait (s t : State) (n : Nat) (w : Wait) : s.finish n (.wait t w) = t.waitFor w := rfl
@[simp] theorem State.finish_conflict (s : State) (n : Nat) : s.finish n .conflict = s.restart := rfl
@[simp] theorem State.finish_leave (s t : State) (n : Nat) : s.finish n (.leave t) = t := rfl
@[simp] theorem State.finish_ofFlt (s : State) (n : Nat) (e : Flt) : s.finish n (.ofFlt e) = s.takeFlt e := rfl

/-- An instruction that nothing holds back has its own effect. -/
theorem State.issue_of_ready (s : State) (h : How) (body : State → Eff) (hr : s.f.st = .running)
    (hs : h.service = true → s.f.service = true) (hy : s.f.yleft ≠ 0)
    (ho : s.f.region.isOpen = true → s.f.region.retired < 4096) :
    s.issue h body = .next (s.finish h.len (body s)) := by
  unfold State.issue
  have a : (h.service && !s.f.service) = false := by cases e : h.service <;> simp_all
  have b : (s.f.region.isOpen && decide (4096 ≤ s.f.region.retired)) = false := by cases e : s.f.region.isOpen <;> simp_all
  have c : (s.f.yleft == 0) = false := by simpa using hy
  simp only [a, b, hr, ne_eq, not_true, if_false, Bool.false_eq_true, Bool.false_and]
  simp only [hy, decide_false, Bool.false_and, Bool.false_eq_true, if_false]

/-- A firing that does not run issues nothing. -/
theorem State.issue_of_stopped (s : State) (h : How) (body : State → Eff) (hr : s.f.st ≠ .running) : s.issue h body = .fault .noFiring := by
  unfold State.issue; simp [hr]

/-- What an issue answers: it stops because the firing does not run, a fault of mode, deadline or limit, or the instruction's own effect. -/
theorem State.issue_cases (s : State) (h : How) (body : State → Eff) :
    s.issue h body = .fault .noFiring ∨ (∃ c ∈ [(0x05 : Code), 0x10, 0x0E], s.issue h body = .next (s.takeFault c 0 0 0)) ∨
      s.issue h body = .next (s.finish h.len (body s)) := by
  unfold State.issue; (repeat' split) <;> simp

/-- With YLEFT 0 an instruction outside service rules that does not end the run is fault 0x10. -/
theorem State.issue_of_deadline (s : State) (h : How) (body : State → Eff) (hr : s.f.st = .running)
    (hs : (h.service && !s.f.service) = false) (hy : s.f.yleft = 0) (he : h.ends = false) :
    s.issue h body = .next (s.takeFault 0x10 0 0 0) := by
  unfold State.issue; simp [hr, hs, hy, he]

@[simp] theorem State.outside_of_closed (s : State) (body : Eff) (h : s.f.region.isOpen = false) : s.outside body = body := by
  simp [State.outside, h]
@[simp] theorem State.outside_of_open (s : State) (body : Eff) (h : s.f.region.isOpen = true) : s.outside body = .fault 0x0E 0 0 := by
  simp [State.outside, h]

/-- Every state that an effect carries has its memories in canonical form. -/
def Eff.keepsForm (e : Eff) : Prop :=
  match e with
  | .retire t | .jump t _ | .wait t _ | .leave t => t.mem.wf = true
  | .fault _ _ _ | .conflict => True

theorem State.finish_wf (s : State) (n : Nat) (e : Eff) (h : s.mem.wf = true) (he : e.keepsForm) : (s.finish n e).mem.wf = true := by
  cases e with
  | retire t => exact he
  | jump t pc => exact he
  | fault c a x => rw [State.finish_fault, State.takeFault_mem]; exact h
  | wait t w => rw [State.finish_wait, State.waitFor_mem]; exact he
  | conflict => exact h
  | leave t => exact he

/-- An instruction whose effect keeps the form of memory keeps it when it issues. -/
theorem State.issue_wf (s t : State) (h : How) (body : State → Eff) (hw : s.mem.wf = true) (hb : (body s).keepsForm)
    (hn : s.issue h body = .next t) : t.mem.wf = true := by
  obtain e | ⟨c, -, e⟩ | e := s.issue_cases h body <;> rw [e] at hn
  · cases hn
  · cases hn; rw [State.takeFault_mem]; exact hw
  · cases hn; exact s.finish_wf _ _ hw hb

theorem State.outside_keepsForm (s : State) (e : Eff) (h : e.keepsForm) : (s.outside e).keepsForm := by
  unfold State.outside; split
  · trivial
  · exact h

/-! ## Noting translations: only the translation caches change -/

@[simp] theorem State.noteAll_f (s : State) (q : Asker) (ts : List Trans) : (s.noteAll q ts).f = s.f := by
  unfold State.noteAll; induction ts generalizing s with | nil => rfl | cons t r ih => exact ih _
@[simp] theorem State.noteAll_firings (s : State) (q : Asker) (ts : List Trans) : (s.noteAll q ts).firings = s.firings := by
  unfold State.noteAll; induction ts generalizing s with | nil => rfl | cons t r ih => exact ih _
@[simp] theorem State.noteAll_lcores (s : State) (q : Asker) (ts : List Trans) : (s.noteAll q ts).lcores = s.lcores := by
  unfold State.noteAll; induction ts generalizing s with | nil => rfl | cons t r ih => exact ih _
@[simp] theorem State.noteAll_launches (s : State) (q : Asker) (ts : List Trans) : (s.noteAll q ts).launches = s.launches := by
  unfold State.noteAll; induction ts generalizing s with | nil => rfl | cons t r ih => exact ih _
@[simp] theorem State.noteAll_nextLaunch (s : State) (q : Asker) (ts : List Trans) : (s.noteAll q ts).nextLaunch = s.nextLaunch := by
  unfold State.noteAll; induction ts generalizing s with | nil => rfl | cons t r ih => exact ih _
@[simp] theorem State.noteAll_octaves (s : State) (q : Asker) (ts : List Trans) : (s.noteAll q ts).octaves = s.octaves := by
  unfold State.noteAll; induction ts generalizing s with | nil => rfl | cons t r ih => exact ih _
@[simp] theorem State.noteAll_tasks (s : State) (q : Asker) (ts : List Trans) : (s.noteAll q ts).tasks = s.tasks := by
  unfold State.noteAll; induction ts generalizing s with | nil => rfl | cons t r ih => exact ih _
@[simp] theorem State.noteAll_streamers (s : State) (q : Asker) (ts : List Trans) : (s.noteAll q ts).streamers = s.streamers := by
  unfold State.noteAll; induction ts generalizing s with | nil => rfl | cons t r ih => exact ih _
@[simp] theorem State.noteAll_tokenisers (s : State) (q : Asker) (ts : List Trans) : (s.noteAll q ts).tokenisers = s.tokenisers := by
  unfold State.noteAll; induction ts generalizing s with | nil => rfl | cons t r ih => exact ih _
@[simp] theorem State.noteAll_detokenisers (s : State) (q : Asker) (ts : List Trans) : (s.noteAll q ts).detokenisers = s.detokenisers := by
  unfold State.noteAll; induction ts generalizing s with | nil => rfl | cons t r ih => exact ih _
@[simp] theorem State.noteAll_contexts (s : State) (q : Asker) (ts : List Trans) : (s.noteAll q ts).contexts = s.contexts := by
  unfold State.noteAll; induction ts generalizing s with | nil => rfl | cons t r ih => exact ih _
@[simp] theorem State.noteAll_lastStart (s : State) (q : Asker) (ts : List Trans) : (s.noteAll q ts).lastStart = s.lastStart := by
  unfold State.noteAll; induction ts generalizing s with | nil => rfl | cons t r ih => exact ih _
@[simp] theorem State.noteAll_net (s : State) (q : Asker) (ts : List Trans) : (s.noteAll q ts).net = s.net := by
  unfold State.noteAll; induction ts generalizing s with | nil => rfl | cons t r ih => exact ih _
@[simp] theorem State.noteAll_cycle (s : State) (q : Asker) (ts : List Trans) : (s.noteAll q ts).cycle = s.cycle := by
  unfold State.noteAll; induction ts generalizing s with | nil => rfl | cons t r ih => exact ih _
@[simp] theorem State.noteAll_pkg (s : State) (q : Asker) (ts : List Trans) : (s.noteAll q ts).pkg = s.pkg := by
  unfold State.noteAll; induction ts generalizing s with | nil => rfl | cons t r ih => exact ih _
@[simp] theorem State.noteAll_agenda (s : State) (q : Asker) (ts : List Trans) : (s.noteAll q ts).agenda = s.agenda := by
  unfold State.noteAll; induction ts generalizing s with | nil => rfl | cons t r ih => exact ih _
@[simp] theorem State.noteAll_subject (s : State) (q : Asker) (ts : List Trans) : (s.noteAll q ts).subject = s.subject := by
  unfold State.noteAll; induction ts generalizing s with | nil => rfl | cons t r ih => exact ih _

theorem State.noteAll_wf (s : State) (q : Asker) (ts : List Trans) (h : s.mem.wf = true) : (s.noteAll q ts).mem.wf = true := by
  rw [State.noteAll_mem]; exact h

/-! ## Reading and writing the pieces of an access -/

/-- Outside a region a read that can be located and meets no poison reads its pieces one by one, its firing's own puts performed. -/
theorem State.readPieces_of_closed (s : State) (ps : List (Nat × Nat)) (plain : Bool) (sp : List Spot) (ts : List Trans)
    (ho : s.f.region.isOpen = false) (hl : s.locate s.asker .load ps = .ok (sp, ts)) (hp : (s.reach s.asker sp ts).poisonHit sp = none) :
    s.readPieces ps plain =
      .ok ((s.reach s.asker sp ts).loadSpots (s.reach s.asker sp ts).asker plain sp).1
        ((s.reach s.asker sp ts).loadSpots (s.reach s.asker sp ts).asker plain sp).2 := by
  unfold State.readPieces; simp [ho, hl, hp]

/-- Outside a region a write that can be located stores its pieces one by one, and what waits on their bytes is looked at. -/
theorem State.writePieces_of_closed (s : State) (ps : List (Nat × Nat)) (bs : List Byte) (sp : List Spot) (ts : List Trans)
    (ho : s.f.region.isOpen = false) (hl : s.locate s.asker .store ps = .ok (sp, ts)) :
    s.writePieces ps bs =
      .ok ((s.reach s.asker sp ts).storeSpots (s.reach s.asker sp ts).asker (dealBytes sp bs)).settle := by
  unfold State.writePieces; simp [ho, hl]

/-- A write outside a region keeps the form of memory. -/
theorem State.writePieces_wf (s t : State) (ps : List (Nat × Nat)) (bs : List Byte) (ho : s.f.region.isOpen = false)
    (h : s.mem.wf = true) (hk : s.writePieces ps bs = .ok t) : t.mem.wf = true := by
  unfold State.writePieces at hk
  simp only [ho, Bool.false_and, Bool.false_eq_true, if_false] at hk
  split at hk
  · cases hk
  · cases hk
    rw [State.settle_mem]
    exact State.storeSpots_wf _ _ _ (State.reach_wf _ _ _ _ h)

/-- A load that a cache may answer keeps the form of memory. -/
theorem State.cachedLoad_wf (s : State) (q : Asker) (plain : Bool) (p : Spot) (h : s.mem.wf = true) :
    (s.cachedLoad q plain p).2.mem.wf = true := by
  have fill (n : BitVec 2) : (if p.host then s else s.l2Fill (p.pa / 64) n).mem.wf = true := by
    split
    · exact h
    · exact s.l2Fill_wf _ _ h
  unfold State.cachedLoad
  simp only []
  split
  · split
    · exact h
    · exact fill _
  · exact fill _

/-- Reading a piece keeps the form of memory. -/
theorem State.loadSpot_wf (s : State) (q : Asker) (plain : Bool) (p : Spot) (h : s.mem.wf = true) :
    (s.loadSpot q plain p).2.mem.wf = true := by
  unfold State.loadSpot
  split
  · split <;> exact h
  · split
    · exact s.cachedLoad_wf q plain p h
    · split
      · exact h
      · split
        · exact State.settle_wf _ (by rw [State.memError_mem]; exact h)
        · split
          · exact s.cachedLoad_wf q plain p h
          · exact h

theorem State.loadSpots_wf (q : Asker) (plain : Bool) (l : List Spot) (s : State) (h : s.mem.wf = true) :
    (s.loadSpots q plain l).2.mem.wf = true := by
  induction l generalizing s with
  | nil => exact h
  | cons p r ih => exact ih _ (s.loadSpot_wf q plain p h)

end Sys2Proof.Machine
end

