-- ==== Sys2Proof/Laws/Words.lean ====
section
/-! SUPPORT. Laws of words and their fields: the bytes of a word give the word back, and a field of joined fields is a field of one. -/

namespace Sys2Proof

theorem join_bytes32 (w : BitVec 32) : w.extractLsb' 24 8 ++ w.extractLsb' 16 8 ++ w.extractLsb' 8 8 ++ w.extractLsb' 0 8 = w := by
  ext i hi
  simp
  grind

theorem join_bytes16 (h : BitVec 16) : h.extractLsb' 8 8 ++ h.extractLsb' 0 8 = h := by
  ext i hi
  simp
  grind

/-- A 32-bit word is decoded from its bytes. -/
theorem decode_word (w : BitVec 32) (rest : List Byte) (h : w.getLsbD 0 = true) :
    decode ((Words.two w).bytes ++ rest) = (decode32 w).map fun i => (i, rest) := by
  have e : (w.extractLsb' 0 8).getLsbD 0 = true := by simpa using h
  simp only [Words.bytes, List.cons_append, List.nil_append, decode]
  rw [if_pos e, join_bytes32]

/-- A halfword is decoded from its bytes. -/
theorem decode_half (x : BitVec 16) (rest : List Byte) (h : x.getLsbD 0 = false) :
    decode ((Words.one x).bytes ++ rest) = (decode16 x).map fun i => (i, rest) := by
  have e : (x.extractLsb' 0 8).getLsbD 0 ≠ true := by simpa using h
  simp only [Words.bytes, List.cons_append, List.nil_append, decode]
  rw [if_neg e, join_bytes16]

/-- A field that lies in the lower of two joined parts. -/
theorem extract_append_low {a b n k : Nat} (x : BitVec a) (y : BitVec b) (h : k + n ≤ b) :
    (x ++ y).extractLsb' k n = y.extractLsb' k n := by
  ext i hi
  simp [BitVec.getLsbD_append]; omega

/-- A field that lies in the upper of two joined parts. -/
theorem extract_append_high {a b n k : Nat} (x : BitVec a) (y : BitVec b) (h : b ≤ k) :
    (x ++ y).extractLsb' k n = x.extractLsb' (k - b) n := by
  ext i hi
  simp [BitVec.getLsbD_append]
  rw [if_neg (by omega)]; congr 1; omega

end Sys2Proof
end

