-- ==== Sys2Proof/Tests/Slice0.lean ====
section
/-! SUPPORT. Tests: ill-formed instructions, words written out from the encodings of the spec, single steps on small states, and for every
statement with hypotheses a state that meets them. -/

set_option Elab.async false

namespace Sys2Proof.Tests

open Sys2Proof Sys2Proof.Machine Sys2Proof.Claims

/-! ## Small states -/

/-- One logical core on core 0 whose firing stands at 0x20000; HBM below 1 GiB maps to itself (log 10). -/
def boot : State := State.reset.bootLaunch

/-- `boot` with three scalar registers. -/
def with3 (x y z : Word) : State := ((boot.setSreg 1 x).setSreg 2 y).setSreg 3 z

/-- `boot` with a region open. -/
def inRegion : State := { boot with f := { boot.f with region := { boot.f.region with isOpen := true, snap := boot.f.regs, resume := 0x20004 } } }

/-- What a next state shows. -/
def reads {α : Type} (o : Outcome) (g : State → α) : Option α := match o with | .next t => some (g t) | _ => none

/-- A next state of which `p` holds. -/
def gives (o : Outcome) (p : State → Bool) : Bool := match o with | .next t => p t | _ => false

/-- `Ready` as a computation. -/
def isReady (s : State) : Bool := decide (s.f.st = .running) && s.f.yleft != 0 && (!s.f.region.isOpen || decide (s.f.region.retired < 4096))

theorem ready_of {s : State} (h : isReady s = true) : Ready s := by
  simp only [isReady, Bool.and_eq_true, decide_eq_true_eq, bne_iff_ne, Bool.or_eq_true, Bool.not_eq_true'] at h
  exact ⟨h.1.1, h.1.2, fun o => by have := h.2; simp [o] at this; exact this⟩

theorem boot_ready : Ready boot := ready_of (by decide +kernel)

/-! ## Ill-formed terms: one for each check -/

theorem test_illegal_type : (Instr.vaddFloat 0 0 1 2 3).wellFormed = false := by decide
theorem test_bad_field : (Instr.vextract 6 1 2 3).wellFormed = true ∧ (Instr.vcmplt 6 16 1 2).wellFormed = false := by decide
theorem test_bad_group : (Instr.vquant 0 4 8 12).wellFormed = true ∧ (Instr.vquant 0 4 6 12).wellFormed = false := by decide
theorem test_wordless : (Instr.vmov16 0 0).wellFormed = false ∧ (Instr.pfx 0 0 0 7 0 1).wellFormed = false := by decide

/-! ## Words of the spec's examples, one for each family (R80, R82, R83 and the entries) -/

theorem test_decode_examples : ∀ e ∈ exampleWords, decode32 e.1 = .ok e.2 := by decide +kernel
theorem test_decode_vadd16 : decode16 0x1C76 = .ok (.vaddF3216 0 3 7) := by decide +kernel
theorem test_decode_fields : decode32 (0#7 ++ 11#6 ++ 10#6 ++ 9#6 ++ 0#6 ++ 1#1) = .ok (.add 9 10 11) := by decide +kernel
theorem test_decode_zero_half : decode16 0 = .error .illegalEncoding := by decide +kernel
theorem test_decode_more : decode32 0x1000A3C9 = .ok (.srw 7 5) ∧ decode32 0x04490323 = .ok (.mflush 6 8 9) ∧
    decode32 0x06490023 = .ok (.cinv 8 9) ∧ decode32 0x0000C239 = .ok (.oclaim 4 6) ∧ decode32 0x1050843B = .ok (.cpyt 0 8 4 10) ∧
    decode32 0x600000B9 = .ok (.azero 0 1) := by decide +kernel
theorem test_decode_pair : (decode [0xFF, 0x19, 0x04, 0x80, 0x2D, 0x52, 0x8C, 0x0D]) = .ok (.pfx 0 1 8 1 1 3, [0x2D, 0x52, 0x8C, 0x0D]) := by
  decide +kernel
theorem test_table_word : decodeTableWord 32 0x00594481 = some (.add 9 10 11) := by decide +kernel
theorem test_reserved_field : decode32 0x00800023 = .error .reservedField := by decide +kernel

/-! ## Scalar instructions -/

theorem witness_ScalarIntegerResults : Ready (with3 5 7 0) ∧ aluResult (with3 5 7 0) (.add 3 1 2) = some (3, 12) ∧
    mulDivResult (with3 5 0 0) (.divu 3 1 2) = some (3, BitVec.allOnes 64) :=
  ⟨ready_of (by decide +kernel), by decide +kernel, by decide +kernel⟩
theorem witness_majors : (OfMajor 0x00594481 0 ∧ OfMajor 0xFE012483 1 ∧ OfMajor 0x5 2 ∧ OfMajor 0x7 3 ∧ OfMajor 0x9 4 ∧ OfMajor 0xB 5) ∧
    (OfMajor 0xFF001091 8 ∧ OfMajor 0x13 9 ∧ OfMajor 0x15 10 ∧ OfMajor 0x17 11 ∧ OfMajor 0x19 12) ∧
    fieldFn7 0xB ≤ 4 ∧ fieldFn7 0x0C00000B = 6 ∧ fieldFn7 0x1800000B = 12 ∧ (fieldFn7 0x1600000B = 11 ∧ fieldA 0x1600000B = 0) ∧
    (fieldFn7 0x1600200B = 11 ∧ fieldA 0x1600200B ≠ 0) := by
  simp only [OfMajor]; decide
theorem test_add_wraps : reads (exec (.add 3 1 2) (with3 (BitVec.allOnes 64) 2 0)) (fun t => (t.sreg 3, t.f.pc)) = some (1, 0x20004) := by
  decide +kernel
theorem test_write_s0 : reads (exec (.add 0 1 2) (with3 1 2 0)) (fun t => (t.sreg 0, t.f.pc)) = some (0, 0x20004) := by decide +kernel
theorem test_div_min : reads (exec (.div 3 1 2) (with3 (BitVec.intMin 64) (BitVec.allOnes 64) 0)) (fun t => t.sreg 3) =
    some (BitVec.intMin 64) := by decide +kernel
theorem test_rem_zero : reads (exec (.rem 3 1 2) (with3 9 0 0)) (fun t => t.sreg 3) = some 9 := by decide +kernel
theorem witness_BitOperationResults : Ready (with3 1 2 0) ∧ ∃ f, bitResult (with3 1 2 0) (.rotl 3 1 2) = some (3, f) :=
  ⟨ready_of (by decide +kernel), _, rfl⟩
theorem test_bins : reads (exec (.bins 3 1 2) (with3 0xFF 0x0408 0)) (fun t => t.sreg 3) = some 0xF00 := by decide +kernel
theorem test_clz_zero : reads (exec (.clz 3 1) (with3 0 0 0)) (fun t => t.sreg 3) = some 64 := by decide +kernel

theorem witness_BranchAndJumpResults : Ready (with3 1 2 3) ∧ (∃ p, branchOf (with3 1 2 3) (.beq 1 2 4) = some (p, 4) ∧ ¬p) ∧
    (∃ p, branchOf (with3 1 2 3) (.bne 1 2 4) = some (p, 4) ∧ p) ∧
    (BitVec.ofInt 64 (((with3 1 2 3).sreg 2).toInt + (0 : BitVec 13).toInt)).toNat % 2 = 0 ∧
    (BitVec.ofInt 64 (((with3 1 2 3).sreg 1).toInt + (0 : BitVec 13).toInt)).toNat % 2 = 1 :=
  ⟨ready_of (by decide +kernel), ⟨_, rfl, by decide +kernel⟩, ⟨_, rfl, by decide +kernel⟩, by decide +kernel, by decide +kernel⟩
theorem test_bne_back : reads (exec (.bne 1 2 (-4)) (with3 1 2 0)) (fun t => t.f.pc) = some 0x1FFF8 := by decide +kernel
theorem test_jalr_odd : reads (exec (.jalr 3 1 0) (with3 0x101 0 0)) (fun t => (t.f.cause.toNat, t.f.faddr, t.sreg 3)) = some (7, 0x101, 0) := by
  decide +kernel

theorem witness_ScalarRoundedResults : Ready (with3 0x3F800000 0x40000000 0) ∧
    roundedResult (with3 0x3F800000 0x40000000 0) .rne 0 (.fadd 3 1 2) = some (3, { pat := 0x40400000, flags := 0 }) ∧
    modeOf (with3 0x3F800000 0x40000000 0) = .rne :=
  ⟨ready_of (by decide +kernel), by decide +kernel, by decide +kernel⟩
/-- In an open region under STO the rounding instruction faults. -/
def stoRegion : State := { inRegion with f := { inRegion.f with round := 5 } }
theorem witness_ScalarRoundedResults_sto : Ready stoRegion ∧ modeOf stoRegion = .sto ∧ stoRegion.f.region.isOpen = true ∧
    (roundedResult stoRegion .sto (drawOf stoRegion .sto 0) (.fadd 3 1 2)).isSome = true :=
  ⟨ready_of (by decide +kernel), by decide +kernel, by decide +kernel, by decide +kernel⟩
theorem witness_ScalarPlainResults : Ready (with3 0x3F800000 0 0) ∧ (plainResult (with3 0x3F800000 0 0) (.fmax 3 1 2)).isSome = true :=
  ⟨ready_of (by decide +kernel), by decide +kernel⟩
theorem test_fadd_inexact : reads (exec (.fadd 3 1 2) (with3 0x3F800000 0x33000000 0)) (fun t => (t.sreg 3, t.f.flags)) =
    some (0x3F800000, flInexact) := by decide +kernel
/-- A number of each row of the tables of R66 to R69; 1/2 lies between them and 0 has an exact power. -/
theorem witness_ScalarPlainResults_rows :
    (Fmt.f32.value 0x7FC00000 = .nan false ∧ Fmt.f32.value 0x7F800001 = .nan true ∧ Fmt.f32.value 0x7F800000 = .inf false ∧
      Fmt.f32.value 0xFF800000 = .inf true ∧ Fmt.f32.value 0x80000000 = .zero true) ∧
    (ratOf (Fmt.f32.value 0x43000000) = some 128 ∧ ratOf (Fmt.f32.value 0xC3180000) = some (-152) ∧ (-152 : ℚ) < -151) ∧
    (ratOf (Fmt.f32.value 0x3F000000) = some (1 / 2) ∧ (0 : ℚ) < 1 / 2 ∧ (1 / 2 : ℚ) < 128 ∧ ¬ ∃ z : Int, (1 / 2 : ℚ) = z ∧ -149 ≤ z) ∧
    (ratOf (Fmt.f32.value 0) = some 0 ∧ ∃ z : Int, (0 : ℚ) = z ∧ -149 ≤ z) ∧ Tiny 0 ∧ ¬ Tiny (1 / 2) ∧ ¬ Tiny (-152) := by
  refine ⟨by decide +kernel, ⟨by decide +kernel, by decide +kernel, by norm_num⟩, ⟨by decide +kernel, by norm_num, by norm_num, ?_⟩,
    ⟨by decide +kernel, 0, by norm_num, by norm_num⟩, by norm_num [Tiny], by norm_num [Tiny], by norm_num [Tiny]⟩
  rintro ⟨z, h, -⟩
  have h2 : (2 * z : ℚ) = 1 := by rw [← h]; norm_num
  have h3 : 2 * z = 1 := by exact_mod_cast h2
  omega
/-- Operands of fmin and fmax: a lesser and a greater one, both zeros, equal ones, a NaN. -/
theorem witness_ScalarPlainResults_minmax : ((0x3C00 : Nat) < 2 ^ Fmt.f16.width ∧ (Fmt.f16.value 0x3C00).isNan = false) ∧
    (Fmt.f16.value 0x3C00).lt (Fmt.f16.value 0x4000) = true ∧ (Fmt.f16.value 0x8000 = .zero true ∧ Fmt.f16.value 0 = .zero false) ∧
    (Fmt.f16.value 0x7E00).isNan = true := by decide +kernel
/-- R66 to R69: 2^3 and log2 of 8 are exact; 1/1 and 1/√1 are estimated by 511/512 (from 512/256.5 and 2/√1.00390625). -/
theorem test_estimates : fexp2 0x40400000 = { pat := 0x41000000, flags := 0 } ∧ flog2 0x41000000 = { pat := 0x40400000, flags := 0 } ∧
    frcp 0x3F800000 = { pat := 0x3F7F8000, flags := 0 } ∧ frsqrt 0x3F800000 = { pat := 0x3F7F8000, flags := 0 } := by decide +kernel
/-- R70: 2 − 1 · 2 is −0 under RDN, (3 − 1 · 1) / 2 is 1. -/
theorem test_refinements : frcps .rdn 0 0x3F800000 0x40000000 = { pat := 0x80000000, flags := 0 } ∧
    frsqrts .rne 0 0x3F800000 0x3F800000 = { pat := 0x3F800000, flags := 0 } ∧ frcps .rne 0 0 0x7F800000 = { pat := 0x40000000, flags := 0 } := by
  decide +kernel
theorem witness_ExactBeforeRounding : ratOf (Fmt.f32.value 0x3F800000) = some 1 ∧ ratOf (Fmt.f32.value 0x40000000) = some 2 ∧ (2 : ℚ) ≠ 0 := by
  decide +kernel
/-- Numbers, one of them zero, a sum that is zero, a NaN, and a number below 2^200 with a root. -/
theorem witness_ExactBeforeRounding_special : IsNumber (.zero true) ∧ IsNumber (.fin 2 1) ∧ (FVal.fin 2 1).isZero = false ∧
    (ratOf (.fin 2 1) = some 2 ∧ ratOf (.fin (-2) 1) = some (-2) ∧ (2 : ℚ) + -2 = 0) ∧ (FVal.nan true).isNan = true ∧
    ((FVal.fin (-2) 1).isNeg = true ∧ (FVal.fin (-2) 1).isZero = false) ∧ (0 : ℚ) < 2 ∧ (2 : ℚ) < 2 ^ 200 :=
  ⟨trivial, ⟨by decide, by decide⟩, by decide, ⟨by decide +kernel, by decide +kernel, by norm_num⟩, by decide, by decide, by norm_num, by norm_num⟩
theorem witness_RoundingDirections : (0 : Nat) < 2 ∧ 4 % 2 = 0 ∧ 5 % 2 ≠ 0 ∧ |(roundNat .rne 0 false 5 2 : ℚ) - 5 / 2| = 1 / 2 :=
  ⟨by decide, by decide, by decide, by norm_num [show roundNat .rne 0 false 5 2 = 2 from by decide]⟩
/-- Values of each clause: a tie between subnormals, one that rounds up to the least normal, one beyond the greatest, and their results. -/
theorem witness_RoundingToFormats :
    ratOf (.fin 3 (2 ^ 25)) = some (3 / 2 ^ 25) ∧ ratOf (.fin (-65520) 1) = some (-65520) ∧ (Fmt.f16.value 0x7E00).isNan = true ∧
      (Fmt.f16.value 0x7C00).isNan = false ∧ (0x7C00 : Nat) < 2 ^ Fmt.f16.width := by
  refine ⟨?_, ?_, by decide, by decide, by decide⟩ <;> norm_num [ratOf]
/-- R54 to R56: 65,520 lies half-way beyond the greatest half, 3 · 2^-25 half-way between two subnormals; of the last two values,
which both round to the least normal, the first alone is tiny. -/
theorem test_rounding : Fmt.f16.round .rne 0 (.fin 65520 1) = { pat := 0x7C00, flags := flOverflow ||| flInexact } ∧
    Fmt.f16.round .rtz 0 (.fin 65520 1) = { pat := 0x7BFF, flags := flInexact } ∧
    Fmt.f16.round .rdn 0 (.fin 131072 1) = { pat := 0x7BFF, flags := flOverflow ||| flInexact } ∧
    Fmt.f16.round .rne 0 (.fin 3 (2 ^ 25)) = { pat := 2, flags := flUnderflow ||| flInexact } ∧
    Fmt.f16.round .rtz 0 (.fin (-3) (2 ^ 25)) = { pat := 0x8001, flags := flUnderflow ||| flInexact } ∧
    Fmt.f16.round .rne 0 (.fin 2047 (2 ^ 25)) = { pat := 0x0400, flags := flUnderflow ||| flInexact } ∧
    Fmt.f16.round .rne 0 (.fin 4095 (2 ^ 26)) = { pat := 0x0400, flags := flInexact } := by decide +kernel
theorem witness_compares : IsValue (.fin 2 1) ∧ IsValue (.zero true) ∧ IsValue (.nan true) ∧ Above (.fin 2 1) (.zero true) ∧ ¬ Above (.zero false) (.zero true) :=
  ⟨fun _ => ⟨by decide, by decide⟩, fun _ => trivial, fun h => (by cases h), ⟨2, 0, by decide +kernel, by decide +kernel, by norm_num⟩, by
    rintro ⟨a, b, ha, hb, h⟩
    obtain rfl : (0 : ℚ) = a := Option.some.inj ha
    obtain rfl : (0 : ℚ) = b := Option.some.inj hb
    exact lt_irrefl _ h⟩
theorem test_compares : compareVal 0 (.zero true) (.zero false) = (true, 0) ∧ compareVal 2 (.fin (-2) 1) (.zero true) = (true, 0) ∧
    compareVal 0 (.nan false) (.fin 2 1) = (false, 0) ∧ compareVal 0 (.nan true) (.fin 2 1) = (false, flInvalid) ∧
    compareVal 3 (.nan false) (.fin 2 1) = (false, flInvalid) ∧ compareVal 1 (.nan false) (.nan false) = (true, 0) := by decide +kernel

/-! ## Vector instructions -/

/-- `boot` with three vector registers. -/
def vec3 (x y z : VWord) : State := ((boot.setVreg 1 x).setVreg 2 y).setVreg 3 z

theorem witness_VectorIntegerResults : Ready (vec3 1 2 3) ∧ (Instr.vaddInt 4 0 3 1 2).wellFormed = true ∧
    ∃ v, vecResult (vec3 1 2 3) (.vaddInt 4 0 3 1 2) = some v :=
  ⟨ready_of (by decide +kernel), by decide, _, rfl⟩
theorem test_vadds_saturates : reads (exec (.vadds 0 0 3 1 2) (vec3 0x7F 0x01 0)) (fun t => t.vreg 3) = some 0x7F := by decide +kernel
theorem test_vslide_source_is_destination : reads (exec (.vmov16 3 1) (vec3 7 0 0)) (fun t => (t.vreg 3, t.f.pc)) = some (7, 0x20002) := by
  decide +kernel
theorem witness_VectorFloatResults : Ready (vec3 1 2 3) ∧ (Instr.vaddFloat 6 0 3 1 2).wellFormed = true ∧
    ∃ v, floatResult (vec3 1 2 3) (.vaddFloat 6 0 3 1 2) = some v ∧ v.rounds = true :=
  ⟨ready_of (by decide +kernel), by decide, _, rfl, rfl⟩
theorem witness_VectorFloatResults_sto : Ready stoRegion ∧ modeOf stoRegion = .sto ∧ stoRegion.f.region.isOpen = true ∧
    ∃ v, floatResult stoRegion (.vaddFloat 6 0 3 1 2) = some v ∧ v.rounds = true :=
  ⟨ready_of (by decide +kernel), by decide +kernel, by decide +kernel, _, rfl, rfl⟩
theorem witness_VectorCompareResults : Ready (vec3 1 2 3) ∧ (Instr.vcmplt 6 2 5 6).wellFormed = true ∧
    (compareParts (.vcmplt 6 2 5 6)).isSome = true := ⟨ready_of (by decide +kernel), by decide, by decide⟩
theorem witness_PredicateAndExtractResults : Ready (vec3 1 2 3) ∧ (Instr.vextract 6 1 2 3).wellFormed = true ∧
    (Instr.kand 1 2 3).wellFormed = true ∧ ∃ p, predResult (vec3 1 2 3) (.kand 1 2 3) = some (1, p) :=
  ⟨ready_of (by decide +kernel), by decide, by decide, _, rfl⟩
theorem test_k0_is_all_ones : reads (exec (.kpop 3 0) boot) (fun t => t.sreg 3) = some 512 := by decide +kernel
theorem witness_ConversionResults : Ready (vec3 1 2 3) ∧ (Instr.vcvt 7 6 2 4).wellFormed = true ∧ (cvtParts (.vcvt 7 6 2 4)).isSome = true ∧
    roundsInMode 7 6 = true ∧ Ready stoRegion ∧ modeOf stoRegion = .sto :=
  ⟨ready_of (by decide +kernel), by decide, by decide, by decide, ready_of (by decide +kernel), by decide +kernel⟩
theorem witness_QuantiseResults : Ready (vec3 1 2 3) ∧ (Instr.vquant 0 4 8 12).wellFormed = true ∧ (Instr.vamax 6 1).wellFormed = true :=
  ⟨ready_of (by decide +kernel), by decide, by decide⟩
theorem witness_QuantiseResults_scale : (∀ x ∈ [FVal.fin 300 1, .zero true, .fin (-2) 1], IsNumber x) ∧
    (∃ x ∈ [FVal.fin 300 1, .inf false], x.isFinite = false) ∧
    (∀ x ∈ [0x43960000, 0x7F7FFFFF].map (valueOf 6), x.isFinite = true) ∧ IsNumber (.fin 301 1) := by
  refine ⟨fun x h => ?_, ⟨.inf false, by decide, rfl⟩, by decide +kernel, ⟨by decide, by decide⟩⟩
  simp only [List.mem_cons, List.not_mem_nil, or_false] at h
  rcases h with rfl | rfl | rfl
  exacts [⟨by decide, by decide⟩, trivial, ⟨by decide, by decide⟩]
/-- The example of R62. -/
theorem test_block_scale : blockScale (quantTarget 0) [.fin 300 1, .fin 301 1, .fin (-2) 1] = 129 ∧
    (blockElem (quantTarget 0) 129 (.fin 301 1)).pat = 75 ∧ blockElem (quantTarget 0) 129 (.fin (-2) 1) = { pat := 0, flags := flInexact } ∧
    blockScale (quantTarget 0) [.zero false] = 0 ∧ blockScale (quantTarget 0) [.fin 300 1, .inf true] = 255 := by decide +kernel
theorem witness_AmaxBounds : (∀ p ∈ [0x3F800000, 0x7FC00000], p < 2 ^ 32) ∧ (0#33).toNat % 2 ^ 32 < 2 ^ 31 := by decide
theorem witness_ReductionResults : Ready (vec3 1 2 3) ∧ isIntType 4 = true ∧ (Instr.vredsum 4 1 2).wellFormed = true ∧ isFloatType 6 = true ∧
    (Instr.vredsum 6 1 2).wellFormed = true ∧ (∃ v, floatReduction (modeOf (vec3 1 2 3)) (.vredsum 6 1 2) = some v ∧ v.t = 6 ∧ v.mode = .rne) ∧
    Ready stoRegion ∧ (∃ v, floatReduction (modeOf stoRegion) (.vredsum 6 1 2) = some v ∧ v.mode = .sto) :=
  ⟨ready_of (by decide +kernel), by decide, by decide, by decide, by decide, ⟨_, rfl, rfl, by decide +kernel⟩, ready_of (by decide +kernel),
    ⟨_, rfl, by decide +kernel⟩⟩
theorem test_vredsum_wraps : reads (exec (.vredsum 0 3 1) (vec3 (BitVec.allOnes 4096) 0 0)) (fun t => t.vreg 3) = some 0 := by decide +kernel

/-- `boot` with tile 0 ready: eight words at offset 0 of the share. -/
def tiled (kind state : Nat) : State :=
  boot.modLc 0 fun c => { c with tiles := [(0, { Tile.undefined with kind := kind, state := state, size := 64, expected := 64, arrived := 64 })] }
/-- Tile 0 is ready and poisoned. -/
def badTile : State :=
  boot.modLc 0 fun c => { c with tiles := [(0, { Tile.undefined with kind := 1, state := 2, size := 64, expected := 64, arrived := 64, poison := true })] }
theorem witness_SampleResults : Ready boot ∧ (boot.sreg 2).getLsbD 26 = false ∧
    (let s := (tiled 1 2).setSreg 2 0x4000000
     Ready s ∧ (s.sreg 2).getLsbD 26 = true ∧ (s.me.tile (fld (s.sreg 2) 25 20)).kind = 1 ∧
       (s.me.tile (fld (s.sreg 2) 25 20)).state = 2 ∧ (s.me.tile (fld (s.sreg 2) 25 20)).poison = false) ∧
    (let s := (tiled 2 2).setSreg 2 0x4000000
     Ready s ∧ (s.sreg 2).getLsbD 26 = true ∧ (s.me.tile (fld (s.sreg 2) 25 20)).kind = 2) ∧
    (let s := (tiled 1 1).setSreg 2 0x4000000
     Ready s ∧ (s.sreg 2).getLsbD 26 = true ∧ (s.me.tile (fld (s.sreg 2) 25 20)).state ≠ 2) ∧
    (let s := badTile.setSreg 2 0x4000000
     Ready s ∧ (s.sreg 2).getLsbD 26 = true ∧ (s.me.tile (fld (s.sreg 2) 25 20)).state = 2 ∧
       (s.me.tile (fld (s.sreg 2) 25 20)).poison = true) :=
  ⟨boot_ready, by decide +kernel, ⟨ready_of (by decide +kernel), by decide +kernel⟩, ⟨ready_of (by decide +kernel), by decide +kernel⟩,
    ⟨ready_of (by decide +kernel), by decide +kernel⟩, ready_of (by decide +kernel), by decide +kernel⟩
theorem test_vsample_waits : reads (exec (.vsample 3 1 2) ((tiled 1 1).setSreg 2 0x4000000)) (fun t => (t.f.st, t.f.wait)) =
    some (.waiting, .need (.tileReady 0)) := by decide +kernel
theorem test_vsample_lowest : reads (exec (.vsample 3 1 2) (boot.setVreg 1 0)) (fun t => t.sreg 3) = some 0 := by decide +kernel

/-- An instruction behind a word at the program counter that masks with k1. -/
def masked (i : Instr) : State :=
  { (vec3 5 6 7).setSreg 1 0x100000 with mem := { boot.mem with home := Mem.write boot.mem.home 0x20004 (encode i).bytes } }
def mask1 (zeroing : BitVec 1) : Pfx := Pfx.ofFields 0 1 0 7 zeroing 1
def behind (z : BitVec 1) (i : Instr) : State := ((masked i).fetchPair (mask1 z) (mask1 z).bad).2
theorem prefixed_from {s : State} {z : BitVec 1} {i : Instr} (h : (decide (s.f.st = .running) &&
    decide ((s.fetchPair (mask1 z) (mask1 z).bad).1 = .ok i) && isReady (s.fetchPair (mask1 z) (mask1 z).bad).2 && i.wellFormed) = true) :
    Prefixed s (s.fetchPair (mask1 z) (mask1 z).bad).2 (mask1 z) i := by
  simp only [Bool.and_eq_true, decide_eq_true_eq] at h
  exact ⟨h.1.1.1, Prod.ext h.1.1.2 rfl, ready_of h.1.2, h.2⟩
theorem prefixed_of (z : BitVec 1) (i : Instr) (h : (decide ((masked i).f.st = .running) &&
    decide (((masked i).fetchPair (mask1 z) (mask1 z).bad).1 = .ok i) && isReady (behind z i) && i.wellFormed) = true) :
    Prefixed (masked i) (behind z i) (mask1 z) i := prefixed_from h
theorem witness_PrefixedInstructions_vector :
    Prefixed (masked (.vaddInt 4 0 3 1 2)) (behind 1 (.vaddInt 4 0 3 1 2)) (mask1 1) (.vaddInt 4 0 3 1 2) ∧
    (∃ v, prefixedVec (behind 1 (.vaddInt 4 0 3 1 2)) (mask1 1) (.vaddInt 4 0 3 1 2) = some v) ∧
    Prefixed (masked (.vsel 4 3 1 2)) (behind 0 (.vsel 4 3 1 2)) (mask1 0) (.vsel 4 3 1 2) ∧
    Prefixed (masked (.vfma 6 0 3 1 2)) (behind 1 (.vfma 6 0 3 1 2)) (mask1 1) (.vfma 6 0 3 1 2) ∧
    (∃ v, prefixedFloat (behind 1 (.vfma 6 0 3 1 2)) (mask1 1) (.vfma 6 0 3 1 2) = some v ∧ v.rounds = true) ∧
    Prefixed (masked (.vcvt 7 6 2 4)) (behind 1 (.vcvt 7 6 2 4)) (mask1 1) (.vcvt 7 6 2 4) ∧
    Prefixed (masked (.vcmplt 6 2 5 6)) (behind 1 (.vcmplt 6 2 5 6)) (mask1 1) (.vcmplt 6 2 5 6) :=
  ⟨prefixed_of _ _ (by decide +kernel), ⟨_, rfl⟩, prefixed_of _ _ (by decide +kernel), prefixed_of _ _ (by decide +kernel), ⟨_, rfl, rfl⟩,
    prefixed_of _ _ (by decide +kernel), prefixed_of _ _ (by decide +kernel)⟩
theorem witness_PrefixedInstructions_reductions :
    Prefixed (masked (.vredsum 4 3 1)) (behind 1 (.vredsum 4 3 1)) (mask1 1) (.vredsum 4 3 1) ∧
    Prefixed (masked (.vredmax 4 3 1)) (behind 1 (.vredmax 4 3 1)) (mask1 1) (.vredmax 4 3 1) ∧
    Prefixed (masked (.vredmin 4 3 1)) (behind 1 (.vredmin 4 3 1)) (mask1 1) (.vredmin 4 3 1) ∧
    Prefixed (masked (.vredsum 6 3 1)) (behind 1 (.vredsum 6 3 1)) (mask1 1) (.vredsum 6 3 1) ∧
    Prefixed (masked (.vquant 0 4 8 12)) (behind 1 (.vquant 0 4 8 12)) (mask1 1) (.vquant 0 4 8 12) ∧
    Prefixed (masked (.vamax 6 1)) (behind 1 (.vamax 6 1)) (mask1 1) (.vamax 6 1) ∧
    Prefixed (masked (.vsample 3 1 2)) (behind 1 (.vsample 3 1 2)) (mask1 1) (.vsample 3 1 2) ∧
    ((behind 1 (.vredmax 4 3 1)).kreg 1 = 0 ∧ (boot.setKreg 1 1).kreg 1 = 1 ∧ ((behind 1 (.vsample 3 1 2)).sreg 2).getLsbD 26 = false) :=
  ⟨prefixed_of _ _ (by decide +kernel), prefixed_of _ _ (by decide +kernel), prefixed_of _ _ (by decide +kernel),
    prefixed_of _ _ (by decide +kernel), prefixed_of _ _ (by decide +kernel), prefixed_of _ _ (by decide +kernel),
    prefixed_of _ _ (by decide +kernel), by decide +kernel⟩
/-- A masked vsample whose s2 names tile 0. -/
def sampling (kind state : Nat) (poison : Bool) : State :=
  ((masked (.vsample 3 1 2)).setSreg 2 0x4000000).modLc 0 fun c => { c with
    tiles := [(0, { Tile.undefined with kind := kind, state := state, size := 64, expected := 64, arrived := 64, poison := poison })] }
/-- What the masked vsample finds: s2 bit 26, the tile's kind and state, its poison bit, and whether a region is open. -/
def sampled (s : State) : Bool × Nat × Nat × Bool × Bool :=
  let u := (s.fetchPair (mask1 1) (mask1 1).bad).2
  let tile := u.me.tile (fld (u.sreg 2) 25 20)
  ((u.sreg 2).getLsbD 26, tile.kind, tile.state, tile.poison, u.f.region.isOpen)
/-- The pair stands in an open region. -/
def samplingIn : State :=
  let s := sampling 1 1 false
  { s with f := { s.f with region := inRegion.f.region } }
theorem witness_PrefixedInstructions_sample :
    (∀ s ∈ [sampling 0 0 false, sampling 2 2 false, sampling 1 1 false, sampling 1 2 true, sampling 1 2 false, samplingIn],
      ∃ u, Prefixed s u (mask1 1) (.vsample 3 1 2)) ∧
    [sampling 0 0 false, sampling 2 2 false, sampling 1 1 false, sampling 1 2 true, sampling 1 2 false, samplingIn].map sampled =
      [(true, 0, 0, false, false), (true, 2, 2, false, false), (true, 1, 1, false, false), (true, 1, 2, true, false), (true, 1, 2, false, false),
        (true, 1, 1, false, true)] := by
  refine ⟨fun s h => ?_, by decide +kernel⟩
  simp only [List.mem_cons, List.not_mem_nil, or_false] at h
  rcases h with rfl | rfl | rfl | rfl | rfl | rfl
  all_goals exact ⟨_, prefixed_from (by decide +kernel)⟩
theorem witness_PrefixedInstructions_memory :
    Prefixed (masked (.vld 3 1 0)) (behind 1 (.vld 3 1 0)) (mask1 1) (.vld 3 1 0) ∧
    Prefixed (masked (.vldTa6 3 1 0)) (behind 1 (.vldTa6 3 1 0)) (mask1 1) (.vldTa6 3 1 0) ∧
    Prefixed (masked (.vst 3 1 0)) (behind 0 (.vst 3 1 0)) (mask1 0) (.vst 3 1 0) ∧
    Prefixed (masked (.vgather 4 3 1 2)) (behind 1 (.vgather 4 3 1 2)) (mask1 1) (.vgather 4 3 1 2) ∧
    Prefixed (masked (.vscatter 4 3 1 2)) (behind 0 (.vscatter 4 3 1 2)) (mask1 0) (.vscatter 4 3 1 2) ∧
    (let u := behind 1 (.vld 3 1 0)
     (ea u 1 0).toNat % 64 = 0 ∧ activePieces (ea u 1 0).toNat ((List.range 512).map (active u (mask1 1) 8)) = [] ∧
       (match u.readPieces [] true with | .ok b _ => b == [] | _ => false) = true ∧ (match u.writePieces [] [] with | .ok _ => true | _ => false) = true ∧ u.f.region.isOpen = false ∧
       (u.checkElems .load 4 []).isOk = true) :=
  ⟨prefixed_of _ _ (by decide +kernel), prefixed_of _ _ (by decide +kernel), prefixed_of _ _ (by decide +kernel),
    prefixed_of _ _ (by decide +kernel), prefixed_of _ _ (by decide +kernel), by decide +kernel⟩
theorem test_prefix_zeroes : reads (exec (.pfx 0 1 0 7 1 1) (masked (.vaddInt 4 0 3 1 2))) (fun t => (t.vreg 3, t.f.pc)) = some (0, 0x20008) := by
  decide +kernel
theorem witness_DrawResults : Ready inRegion ∧ inRegion.f.region.isOpen = true ∧ Ready boot ∧ boot.f.region.isOpen = false :=
  ⟨ready_of (by decide +kernel), by decide +kernel, boot_ready, by decide +kernel⟩

/-! ## Memory instructions -/

/-- What the boot page allows, the translation it gives, and a piece of `n` bytes at an address of it. -/
def plain : Attrs := { host := false, ptrap := false, nt := false, sc := false, exec := true, write := true }
def page : Trans := { ctx := 0, va := 0, size := 0x40000000, pa := 0, attr := plain }
def spot (a n : Nat) : Spot := { va := a, n := n, pa := a, attr := plain, win := none, lk := 0 }
/-- Eight bytes of the scratchpad through its window. -/
def padSpot : Spot :=
  { va := 0x400000000000, n := 8, pa := 0x400000000000, attr := { plain with ptrap := true, exec := false }, win := some 0, lk := 0 }

/-- s1 names 0x100000, s2 holds 0x1122334455667788, s3 is 0x100001. -/
def mem3 : State := with3 0x100000 0x1122334455667788 0x100001
def mem3In : State := { inRegion with f := { mem3.f with region := inRegion.f.region } }

theorem mem3_ready : Ready mem3 := ready_of (by decide +kernel)
theorem mem3In_ready : Ready mem3In := ready_of (by decide +kernel)
theorem plain_spot (a n : Nat) (h : isHbm a = true) : PlainSpot mem3 (spot a n) :=
  ⟨rfl, rfl, h, by rfl, by decide +kernel⟩

/-- The bytes of a read that succeeds. -/
def gotBytes (g : Got) : Option (List Byte) := match g with | .ok b _ => some b | _ => none
def wrote (p : Put) : Bool := match p with | .ok _ => true | _ => false
theorem got_of {g : Got} {b : List Byte} (h : gotBytes g = some b) : ∃ t, g = .ok b t := by
  cases g with
  | ok c t => exact ⟨t, by simp only [gotBytes, Option.some.injEq] at h; rw [h]⟩
  | stop e => simp [gotBytes] at h
theorem put_of {p : Put} (h : wrote p = true) : ∃ t, p = .ok t := by cases p <;> simp_all [wrote]

theorem witness_LoadResults : Ready mem3 ∧ loadForm (.ld 2 1 0) = some (2, 1, 0, 8, false) ∧ (ea mem3 1 0).toNat % 8 = 0 ∧
    (∃ t, mem3.readPieces (pieces (ea mem3 1 0).toNat 8) true = .ok (List.replicate 8 0) t) ∧
    loadForm (.ld 2 3 0) = some (2, 3, 0, 8, false) ∧ (ea mem3 3 0).toNat % 8 ≠ 0 :=
  ⟨mem3_ready, by decide, by decide +kernel, got_of (by decide +kernel), by decide, by decide +kernel⟩
theorem witness_StoreResults : Ready mem3 ∧ storeForm (.st 2 1 0) = some (2, 1, 0, 8) ∧ (ea mem3 1 0).toNat % 8 = 0 ∧
    (∃ t, mem3.writePieces (pieces (ea mem3 1 0).toNat 8) (leBytes 8 (mem3.sreg 2).toNat) = .ok t) ∧ (ea mem3 3 0).toNat % 8 ≠ 0 :=
  ⟨mem3_ready, by decide, by decide +kernel, put_of (by decide +kernel), by decide +kernel⟩
theorem test_st_little_endian : reads (exec (.st32 2 1 1) mem3) (fun t => Mem.read t.mem.home 0x100003 6) =
    some [0, 0x88, 0x77, 0x66, 0x55, 0] := by decide +kernel
theorem test_ld_sign : reads (exec (.st8 2 1 0) mem3) (fun t => reads (exec (.ldI8 4 1 0) t) fun u => u.sreg 4) =
    some (some 0xFFFFFFFFFFFFFF88) := by decide +kernel
theorem test_ld_misaligned : reads (exec (.ld 2 3 0) mem3) (fun t => (t.f.cause.toNat, t.f.faddr, t.f.st)) = some (7, 0x100001, .free) := by
  decide +kernel

theorem witness_ReadsAndWritesOfMemory : boot.f.region.isOpen = false ∧ boot.f.st = .running ∧
    mem3.locate mem3.asker .load [(0x100000, 8)] = .ok ([spot 0x100000 8], [page]) ∧ PlainSpot mem3 (spot 0x100000 8) ∧
    mem3.locate mem3.asker .load [(0x400000000000, 8)] = .ok ([padSpot], []) ∧ padSpot.win = some 0 ∧
    mem3.poisoned padSpot.pa = false ∧ NothingSent mem3 ∧ isHbm padSpot.pa = false ∧
    mem3.locate mem3.asker .store [(0x100000, [(1 : Byte), 2, 3, 4, 5, 6, 7, 8].length)] = .ok ([spot 0x100000 8], [page]) ∧
    mem3.locate mem3.asker .store [(0x400000000000, [(1 : Byte), 2, 3, 4, 5, 6, 7, 8].length)] = .ok ([padSpot], []) :=
  ⟨by decide +kernel, by decide +kernel, by decide +kernel, plain_spot _ _ (by decide), by decide +kernel, rfl, by decide +kernel,
    by decide +kernel, by decide +kernel, by decide +kernel, by decide +kernel⟩
/-- `mem3` with a region open that has read the line at 0x100000 when its stamp was 5 (or, full, 64 lines), and holds its first byte. -/
def tracking (reads : List (Nat × Word)) (hold : List HoldLine) : State :=
  { mem3In with f := { mem3In.f with region := { mem3In.f.region with reads := reads, hold := hold } },
                mem := { mem3In.mem with l2 := [{ line := 0x4000, valid := 3, stamp := 5, dirty := false }] } }
theorem witness_ReadsAndWritesOfMemory_region :
    let s := tracking [(0x4000, 5)] [{ line := 0x4000, mask := 1, data := 7, stamp := 5 }]
    s.f.region.isOpen = true ∧ s.locate s.asker .load [(0x100000, 8)] = .ok ([spot 0x100000 8], [page]) ∧ PlainSpot s (spot 0x100000 8) ∧
      s.locate s.asker .store [(0x100000, [(1 : Byte)].length)] = .ok ([spot 0x100000 1], [page]) ∧ (spot 0x100000 8).attr.sc = false ∧
      (s.l2Line 0x4000).map (fun e => e.stamp) = some 5 ∧ (s.f.region.reads.find? fun x => x.1 = 0x4000) = some (0x4000, 5) ∧
      (tracking [(0x4000, 4)] []).f.region.reads = [(0x4000, 4)] ∧ (mem3In.l2Line 0x4000 = none ∧ Tbl.get 0 mem3In.mem.stamps 0 + 1 ≠ 5) ∧
      64 ≤ (tracking (List.replicate 64 (0, 0)) []).f.region.reads.length ∧ (mem3In.f.region.reads.find? fun x => x.1 = 0x4000) = none ∧
      (s.f.region.hold.any fun h => h.line = 0x4000) = true ∧ mem3In.f.region.hold.length < 16 ∧
      16 ≤ (tracking [] (List.replicate 16 { line := 0, mask := 1, data := 7, stamp := 5 })).f.region.hold.length :=
  ⟨by decide +kernel, by decide +kernel, ⟨rfl, rfl, by decide, by rfl, by decide +kernel⟩, by decide +kernel, rfl, by decide +kernel, by decide +kernel, by decide +kernel,
    by decide +kernel, by decide +kernel, by decide +kernel, by decide +kernel, by decide +kernel, by decide +kernel⟩
theorem test_region_reads_held : gotBytes ((tracking [(0x4000, 5)] [{ line := 0x4000, mask := 1, data := 7, stamp := 5 }]).readPieces [(0x100000, 2)] true) =
    some [7, 0] := by decide +kernel
theorem witness_AcquireLoads : Ready mem3In ∧ mem3In.f.region.isOpen = true ∧ Ready mem3 ∧
    acquireForm (.ldAcq 2 1 3 0) = some (2, 1, 0, 8, 3) ∧ (ea mem3 1 0).toNat % 8 = 0 ∧
    (∃ t, mem3.readPieces (pieces (ea mem3 1 0).toNat 8) true = .ok (List.replicate 8 0) t) :=
  ⟨mem3In_ready, by decide +kernel, mem3_ready, by decide, by decide +kernel, got_of (by decide +kernel)⟩
/-- The page is one of non-temporal stores (R166). -/
def mem3nt : State := { mem3 with mem := { mem3.mem with side := Mem.set mem3.mem.side 0x11000 0x2F } }
theorem witness_ReleaseStores : Ready mem3 ∧ releaseForm (.stRel 2 1 4 0) = some (2, 1, 0, 8, 4, false) ∧
    releaseForm (.stnt 2 1 0) = some (2, 1, 0, 8, 0, true) ∧ mem3.f.region.isOpen = false ∧ (ea mem3 1 0).toNat % 8 = 0 ∧
    mem3.locate mem3.asker .store (pieces (ea mem3 1 0).toNat 8) = .ok ([spot 0x100000 8], [page]) ∧
    PlainSpot mem3 (spot 0x100000 8) ∧ Ready mem3nt ∧ mem3nt.f.region.isOpen = false ∧
    (let p := { spot 0x100000 8 with attr := { plain with nt := true } }
     mem3nt.locate mem3nt.asker .stnt (pieces (ea mem3nt 1 0).toNat 8) = .ok ([p], [{ page with attr := p.attr }]) ∧ PlainSpot mem3nt p) :=
  ⟨mem3_ready, by decide, by decide, by decide +kernel, by decide +kernel, by decide +kernel, plain_spot _ _ (by decide),
    ready_of (by decide +kernel), by decide +kernel, by decide +kernel, rfl, rfl, by decide, rfl, by decide +kernel⟩
/-- Two puts are in flight: one of the issuing firing, which counts, and one of another. -/
def ownPut : PendingPut :=
  { fk := 0, seqno := 0, launch := 0, ctx := 0, pcore := 0, parts := [{ pa := 0x110000, host := false, sc := false, data := [7, 8] }],
    ctr := some (0x110040, false), far := false }
def inFlight (s : State) : State := { s with net := { s.net with puts := [ownPut, { ownPut with fk := 9, ctr := none }] } }
theorem plain_puts (s : State) (hp : s.mem.poison = []) (he : NoEntries s s.f.key) (h : ownPuts s = [ownPut]) : PlainPuts s := by
  refine { entries := he, poison := hp, plain := fun x hx => ?_ }
  rw [h, List.mem_singleton] at hx
  rw [hx]
  exact ⟨by decide, fun c sc e => by simp only [ownPut, Option.some.injEq, Prod.mk.injEq] at e; rw [← e.1]; decide⟩
theorem witness_ReleaseStores_puts :
    let s := inFlight mem3
    Ready s ∧ releaseForm (.stRel 2 1 4 0) = some (2, 1, 0, 8, 4, false) ∧ s.f.region.isOpen = false ∧ (ea s 1 0).toNat % 8 = 0 ∧
      s.locate s.asker .store (pieces (ea s 1 0).toNat 8) = .ok ([spot 0x100000 8], [page]) ∧ isHbm 0x100000 = true ∧ PlainPuts s ∧
      ownPuts s = [ownPut] ∧ otherPuts s = [{ ownPut with fk := 9, ctr := none }] :=
  ⟨ready_of (by decide +kernel), by decide, by decide +kernel, by decide +kernel, by decide +kernel, by decide, plain_puts _ rfl (by decide +kernel) (by decide +kernel),
    by decide +kernel, by decide +kernel⟩
theorem test_release_performs : gives (exec (.stRel 2 1 4 0) (inFlight mem3)) (fun t => decide (wordAt t 0x110040 = 1) &&
    decide (wordAt t 0x110000 = 0x807) && decide (wordAt t 0x100000 = 0x1122334455667788) && decide (t.net.puts.map (fun p => p.fk) = [9])) = true := by
  decide +kernel
theorem test_stnt_reaches_side : reads (exec (.stnt 2 1 0) mem3nt) (fun t => Mem.read t.mem.side 0x100000 8) =
    some (leBytes 8 0x1122334455667788) := by decide +kernel
theorem witness_FencesAndFlushes : Ready mem3In ∧ mem3In.f.region.isOpen = true ∧ Ready mem3 ∧ mem3.f.region.isOpen = false ∧
    NothingSent mem3 ∧ 32768 ≤ (mem3.sreg 2).toNat ∧ (mem3.sreg 0).toNat < 32768 ∧ mem3.mem.l2.Pairwise (fun x y => x.line ≠ y.line) ∧
    (rangeMeets 0x100000 64 0x100000 ∧ mem3.granulePA 0x100000 = some 0x100000) :=
  ⟨mem3In_ready, by decide +kernel, mem3_ready, by decide +kernel, by decide +kernel, by decide +kernel, by decide +kernel,
    (by rw [show mem3.mem.l2 = [] from by decide +kernel]; exact List.Pairwise.nil), ⟨by decide, by decide, by decide, by decide⟩,
    by decide +kernel⟩
theorem witness_FencesAndFlushes_puts : Ready (inFlight mem3) ∧ (inFlight mem3).f.region.isOpen = false ∧ PlainPuts (inFlight mem3) ∧
    (inFlight mem3).mem.l2 = [] ∧ ownPuts mem3 = [] ∧ ∀ x ∈ ownPuts (inFlight mem3), OffRegisters x :=
  ⟨ready_of (by decide +kernel), by decide +kernel, plain_puts _ rfl (by decide +kernel) (by decide +kernel), by decide +kernel, by decide +kernel, fun x h => by
    rw [show ownPuts (inFlight mem3) = [ownPut] from by decide +kernel, List.mem_singleton] at h
    rw [h]
    exact ⟨by decide, fun c sc e => by simp only [ownPut, Option.some.injEq, Prod.mk.injEq] at e; rw [← e.1]; decide⟩⟩
theorem test_fence_performs : gives (exec (.fence 1) (inFlight mem3)) (fun t => decide (wordAt t 0x110040 = 1) &&
    decide (t.net.puts.map (fun p => p.fk) = [9])) = true := by decide +kernel
/-- The line at 0x100000 is dirty in the L2, its first byte 9; s4 holds 64. -/
def dirty3 : State :=
  let s := mem3.setSreg 4 64
  { s with mem := { s.mem with home := Mem.set s.mem.home 0x100000 9, l2 := [{ line := 0x4000, valid := 3, stamp := 5, dirty := true }] } }
theorem witness_FencesAndFlushes_dirty : Ready dirty3 ∧ dirty3.f.region.isOpen = false ∧ ownPuts dirty3 = [] ∧
    (∃ e ∈ dirty3.mem.l2, e.line = 0x100000 / 64 ∧ e.dirty = true) ∧ rangeMeets (dirty3.sreg 1).toNat (Min.min (dirty3.sreg 4).toNat 0x100000) 0x100000 :=
  ⟨ready_of (by decide +kernel), by decide +kernel, by decide +kernel,
    ⟨{ line := 0x4000, valid := 3, stamp := 5, dirty := true }, by decide +kernel, by decide, rfl⟩, by unfold rangeMeets; decide +kernel⟩
theorem test_mflush_reaches_array : gives (exec (.mflush 5 1 4) dirty3) (fun t => decide (t.granulePA 0x100000 = some 0x100000) &&
    decide (Mem.read t.mem.array 0x100000 2 = [9, 0]) && decide (t.sreg 5 = 64)) = true := by decide +kernel
/-- The granule at 0x100000 is poisoned. -/
def poisoned3 : State := { mem3 with mem := { mem3.mem with poison := [0x100000 / 64] } }
theorem witness_AtomicResults : Ready mem3In ∧ mem3In.f.region.isOpen = true ∧ Ready mem3 ∧ mem3.f.region.isOpen = false ∧
    (∃ f, atomicForm mem3 (.amoaddI64 4 1 2 3) = some (4, 1, 3, 8, false, f)) ∧ (mem3.sreg 1).toNat % 8 = 0 ∧ (mem3.sreg 3).toNat % 8 ≠ 0 ∧
    mem3.locate mem3.asker (.atomic 8) (pieces (mem3.sreg 1).toNat 8) = .ok ([spot 0x100000 8], [page]) ∧
    PlainSpot mem3 (spot 0x100000 8) ∧ Ready poisoned3 ∧
    poisoned3.locate poisoned3.asker (.atomic 8) (pieces (poisoned3.sreg 1).toNat 8) = .ok ([spot 0x100000 8], [page]) ∧
    (poisoned3.reach poisoned3.asker [spot 0x100000 8] [page]).poisoned 0x100000 = true :=
  ⟨mem3In_ready, by decide +kernel, mem3_ready, by decide +kernel, ⟨_, rfl⟩, by decide +kernel, by decide +kernel, by decide +kernel,
    plain_spot _ _ (by decide), ready_of (by decide +kernel), by decide +kernel, by decide +kernel⟩
theorem test_amocas_fails : reads (exec (.amocas 4 1 2 3) (mem3.setSreg 4 9)) (fun t => (t.sreg 4, Mem.read t.mem.home 0x100000 8)) =
    some (0, List.replicate 8 0) := by decide +kernel
theorem witness_PutIssues : Ready mem3 ∧ mem3.f.region.isOpen = false ∧ (mem3.sreg 1).toNat % 8 = 0 ∧ (mem3.sreg 1).toNat % 64 = 0 ∧
    mem3.locate mem3.asker .put (pieces (mem3.sreg 1).toNat 8) = .ok ([spot 0x100000 8], [page]) ∧
    (mem3.locate mem3.asker .put (pieces (mem3.sreg 1).toNat 512)).isOk = true ∧
    mem3.locate mem3.asker .increment (pieces (mem3.sreg 1).toNat 8) = .ok ([spot 0x100000 8], [page]) :=
  ⟨mem3_ready, by decide +kernel, by decide +kernel, by decide +kernel, by decide +kernel, by decide +kernel, by decide +kernel⟩
theorem witness_VectorMemoryResults : Ready mem3 ∧ (ea mem3 1 (64 * (0 : BitVec 10).toInt)).toNat % 64 = 0 ∧
    (ea mem3 3 (64 * (0 : BitVec 10).toInt)).toNat % 64 ≠ 0 ∧
    (∃ t, mem3.readPieces (pieces 0x100000 512) true = .ok (List.replicate 512 0) t) ∧
    (∃ t, mem3.readPieces (pieces 0x100000 384) true = .ok (List.replicate 384 0) t) ∧
    (∃ t, mem3.writePieces (pieces 0x100000 512) (List.replicate 512 0) = .ok t) ∧
    (∃ t, mem3.writePieces (pieces 0x100000 384) (leBytes 384 0) = .ok t) ∧ 0 < 2 ^ 3072 :=
  ⟨mem3_ready, by decide +kernel, by decide +kernel, got_of (by decide +kernel), got_of (by decide +kernel), put_of (by decide +kernel),
    put_of (by decide +kernel), by positivity⟩
theorem witness_GatherScatterResults : Ready mem3 ∧ Ready mem3In ∧ (Instr.vgather 6 4 6 1).wellFormed = true ∧ mem3.f.region.isOpen = false ∧
    mem3In.f.region.isOpen = true ∧
    (mem3.checkElems .load 4 ((List.range 128).map (elementAddr mem3 32 6 1))).isOk = true ∧
    (mem3.checkElems .store 4 ((List.range 128).map (elementAddr mem3 32 6 1))).isOk = true ∧
    (mem3.checkElems .load 4 ((List.range 128).map (elementAddr mem3 32 6 3))).isOk = false ∧
    (mem3.checkElems .store 4 ((List.range 128).map (elementAddr mem3 32 6 3))).isOk = false :=
  ⟨mem3_ready, mem3In_ready, by decide, by decide +kernel, by decide +kernel, by decide +kernel, by decide +kernel, by decide +kernel,
    by decide +kernel⟩
theorem witness_RepresentableRoundsToItself : Fmt.f32 ∈ [Fmt.f32, Fmt.bf16, Fmt.f16] ∧ 0x3F800000 < 2 ^ Fmt.f32.width ∧
    (Fmt.f32.value 0x3F800000).isNan = false := by decide +kernel

/-! ## Polynomial accumulator, regions, system registers, traps -/

/-- Nothing of the firing but its pc, YLEFT and `d` changed. -/
def onlyReg (s u : State) (d : BitVec 6) (v : Word) : Bool :=
  decide ({ u.f with wait := .none, region := s.f.region } =
    { s.f.setSreg d v with pc := s.f.pc + 4, yleft := s.f.yleft - 1, wait := .none })
def noReg (s u : State) : Bool := onlyReg s u 0 0
/-- The firing waits for `w` without a slot and is otherwise as it was. -/
def waitsFor (s u : State) (w : Wait) : Bool :=
  decide ({ u.f with waited := 0, probes := 0 } =
    { s.f with st := .waiting, slot := none, wait := w, waited := 0, probes := 0, waitNo := s.f.waitNo + 1 })

theorem witness_PolynomialResults : Ready inRegion ∧ Ready mem3 ∧ mem3.f.region.isOpen = false ∧
    (∃ t, mem3.loadAt (mem3.sreg 1) 512 64 true = .ok (List.replicate 512 0) t) ∧
    (Poly.ofImage (List.replicate 512 0)).isSome = true ∧ (Poly.ofImage (List.replicate 512 1)).isSome = false ∧
    (∃ t, mem3.storeAt (mem3.sreg 1) 64 mem3.f.poly.image = .ok t) :=
  ⟨ready_of (by decide +kernel), mem3_ready, by decide +kernel, got_of (by decide +kernel), by decide +kernel, by decide +kernel, put_of (by decide +kernel)⟩
theorem witness_PolynomialResults_bad_image :
    let s : State := { mem3 with mem := { mem3.mem with home := Mem.write mem3.mem.home 0x100000 (List.replicate 512 1) } }
    Ready s ∧ (∃ t, s.loadAt (s.sreg 1) 512 64 true = .ok (List.replicate 512 1) t) ∧ Poly.ofImage (List.replicate 512 1) = none :=
  ⟨ready_of (by decide +kernel), got_of (by decide +kernel), by decide +kernel⟩
theorem test_pclr_pfac : reads (exec (.pfac 1 2) ((with3 0x3F800000 0x40000000 0))) (fun t => (t.f.poly.degree, t.f.poly.coeff[1])) =
    some (1, 0x40000000) := by decide +kernel
/-- 1 + z and 1 + 2z of degree 1, one with an infinity, one truncated. -/
def poly1 (a b : BitVec 32) (truncated : Bool) : Poly :=
  { Poly.one with coeff := (Poly.one.coeff.set 0 a).set 1 b, degree := 1, truncated := truncated }
theorem finite_of {p : Poly} {n : Nat} (h : ((List.range (n + 1)).all fun k => (Fmt.f32.value (p.coeff.toList.getD k 0).toNat).isFinite) = true) :
    finiteFrom p 0 n := fun k _ hk => List.all_eq_true.mp h k (List.mem_range.mpr (by omega))
theorem witness_PolynomialProducts :
    (finitePat 0x3F800000 ∧ finiteFrom (poly1 0x3F800000 0x40000000 false) 0 1) ∧ ¬ finitePat 0x7F800000 ∧
      (poly1 0x3F800000 0x40000000 true).truncated = true ∧ Poly.one.degree.toNat = 0 ∧
      ((poly1 0x3F800000 0x40000000 false).truncated = false ∧ (poly1 0x3F800000 0x40000000 false).degree.toNat ≠ 0) ∧
      (Fmt.f32.value 0).isZero = true ∧ (2 ^ 31 - 1 < (0x7FFFFFFF : BitVec 32).toInt + (1 : BitVec 32).toInt) ∧ 1 ≤ [(1 : Int), 2].length ∧
      (Poly.one.factor 0x3F800000 0x40000000).isOk = true ∧ ({ Poly.one with scale := 0x7FFFFFFF }.factor 0x7F000000 0).isOk = false :=
  ⟨⟨by unfold finitePat; decide +kernel, finite_of (by decide +kernel)⟩, by unfold finitePat; decide +kernel, rfl, rfl, ⟨rfl, by decide⟩,
    by decide +kernel, by decide, by decide, by decide +kernel, by decide +kernel⟩
def shape (r : PolyStep) : Option (List Nat × Nat × Int × Bool × Nat) := match r with
  | .ok (p, fl) => some ((p.coeff.toList.take 3).map fun c => c.toNat, p.degree.toNat, p.scale.toInt, p.inexact, fl.toNat)
  | .error _ => none
/-- The examples of R143 and R144, and the preconditions of pdiv. -/
theorem test_polynomial_examples :
    shape (Poly.one.factors 0 [(0x3F800000, 0x49800000), (0x3F800000, 0x49800000)]) = some ([0x2B800000, 0x36000000, 0x3F800000], 2, 40, false, 0) ∧
    shape (Poly.one.factors 0 [(0x3F400000, 0x3E800000), (0x3E800000, 0x3F400000)]) = some ([0x3E400000, 0x3F200000, 0x3E400000], 2, 0, false, 0) := by
  decide +kernel
theorem test_polynomial_quotient :
    (match Poly.one.factors 0 [(0x3F400000, 0x3E800000), (0x3E800000, 0x3F400000)] with
     | .ok (p, _) => shape (p.divide 0x3E800000 0x3F400000)
     | .error _ => none) = some ([0x3F400000, 0x3E800000, 0], 1, 0, false, 0) ∧
    Poly.one.divide 0x3F800000 0 = .error 0x0F ∧ (poly1 0x3F800000 0 false).divide 0 0x80000000 = .error 0x0F ∧
    (poly1 0x3F800000 0 true).divide 0x3F800000 0 = .error 0x0F := by decide +kernel
theorem test_polynomial_nonfinite :
    shape ((poly1 0x3F800000 0x7F800000 false).convolve Poly.one) = some ([0x7FC00000, 0x7FC00000, 0], 1, 0, false, 16) := by decide +kernel
theorem test_polynomial_product : polyMul [1, 2] [3, 4] = [3, 10, 8] := by decide
theorem witness_ImageRoundTrip : (∀ k, k < 64 → Poly.one.degree.toNat < k → Poly.one.coeff.toList.getD k 0 = 0) ∧
    (∀ k, k < 64 → Poly.one.coeff.toList.getD k 0 ≠ 0x80000000) ∧ Poly.one.coeff.toList.length = 64 ∧
    Poly.ofImage Poly.one.image = some Poly.one := by decide +kernel
/-- An image of degree 63, one of degree 64, and ones with a reserved flag bit or byte. -/
def imageOf (d fl last : Nat) : List Byte := List.replicate 256 0 ++ leBytes 4 5 ++ leBytes 1 d ++ leBytes 1 fl ++ List.replicate 249 0 ++ leBytes 1 last
theorem witness_ImageRoundTrip_fields : (imageOf 63 7 0).length = 512 ∧ ((Poly.ofImage (imageOf 63 7 0)).map fun p => (p.degree.toNat, p.scale,
      p.truncated, p.inexact, p.nonfinite)) = some (63, 5, true, true, true) ∧ (imageOf 64 0 0).length = 512 ∧ Poly.ofImage (imageOf 64 0 0) = none ∧
    Poly.ofImage (imageOf 0 8 0) = none ∧ Poly.ofImage (imageOf 0 0 1) = none := by decide +kernel

/-- `boot` in a launch without the uses-regions flag. -/
def noRegions : State := boot.modLaunch 0 fun l => { l with regions := false }
theorem witness_RegionBeginAndAbort : Ready boot ∧ boot.job.regions = true ∧ boot.f.region.isOpen = false ∧ boot.job.det = false ∧
    Ready noRegions ∧ noRegions.job.regions = false ∧ Ready inRegion ∧ inRegion.f.region.isOpen = true ∧ inRegion.job.regions = true ∧
    inRegion.job.det = false :=
  ⟨boot_ready, by decide +kernel, by decide +kernel, by decide +kernel, ready_of (by decide +kernel), by decide +kernel,
    ready_of (by decide +kernel), by decide +kernel, by decide +kernel, by decide +kernel⟩
theorem test_rbegin : reads (exec .rbegin boot) (fun t => (t.f.region.isOpen, t.f.regseq, fld t.f.regstat 2 0, fld t.f.regstat 31 16)) =
    some (true, 1, 1, 1) := by decide +kernel
/-- An open attempt that holds one line: its first byte is 7 under the stamp that home has, and one whose stamp has changed. -/
def holding (stamp : Word) : State :=
  { inRegion with
    f := { inRegion.f with region := { inRegion.f.region with
      hold := [{ line := 0x4000, mask := 1, data := 7, stamp := stamp }] } },
    mem := { boot.mem with l2 := [{ line := 0x4000, valid := 3, stamp := 5, dirty := false }] } }
theorem witness_RegionCommit : Ready (holding 5) ∧ (holding 5).f.region.isOpen = true ∧ (holding 5).job.det = false ∧
    StampsHold (holding 5) (holding 5).f.region ∧ NothingSent (holding 5) ∧
    (holding 5).f.st = .running ∧ (∀ h ∈ (holding 5).f.region.hold, h.line < 2 ^ 33 ∧ (holding 5).poisoned (64 * h.line) = false) ∧
    (holding 5).f.region.hold.Pairwise (fun g h => g.line ≠ h.line) ∧ Ready (holding 6) ∧ ¬ StampsHold (holding 6) (holding 6).f.region :=
  ⟨ready_of (by decide +kernel), by decide +kernel, by decide +kernel, (State.validates_iff _ _).mp (by decide +kernel), by decide +kernel,
    by decide +kernel, by decide +kernel, by decide +kernel, ready_of (by decide +kernel), fun h => absurd ((State.validates_iff _ _).mpr h) (by decide +kernel)⟩
theorem test_rcommit_accepts : reads (exec (.rcommit 6 2) ((holding 5).setSreg 2 0x3F800000))
    (fun t => (t.sreg 6, Mem.get t.mem.home 0x100000, Mem.get t.mem.home 0x100001, fld t.f.regstat 2 0)) = some (1, 7, 0, 3) := by
  decide +kernel
theorem test_rcommit_conflict : reads (exec (.rcommit 6 2) (holding 6)) (fun t => (t.f.pc, Mem.get t.mem.home 0x100000)) = some (0x20004, 0) := by
  decide +kernel
/-- A region that holds a line commits while a put of its firing is in flight. -/
theorem witness_RegionCommit_puts : Recorded (inFlight (holding 5)) 5 0 0 (inFlight (holding 5)) ∧ PlainPuts (inFlight (holding 5)) ∧
    ownPuts (inFlight (holding 5)) = [ownPut] := by
  refine ⟨?_, plain_puts _ rfl (by decide +kernel) (by decide +kernel), by decide +kernel⟩
  unfold Recorded
  rw [if_pos (by decide +kernel)]
  exact ⟨rfl, rfl⟩
theorem test_commit_performs : gives (exec (.rcommit 6 2) ((inFlight (holding 5)).setSreg 2 0x3F800000)) (fun t => decide (t.sreg 6 = 1) &&
    decide (Mem.get t.mem.home 0x100000 = 7) && decide (wordAt t 0x110000 = 0x807)) = true := by decide +kernel

/-- `boot` in a deterministic launch, record or replay, whose almanac at 0x300000 has `cap` entries, `n` written, the first of kind 1 and value 9. -/
def almanac (replay : Bool) (cap n : Word) : State :=
  let s := (boot.modLaunch 0 fun l => { l with det := true, replay := replay }).modContext 0 fun c =>
    { c with almBase := 0x300000, almCap := cap, almIndex := n }
  { s with mem := { s.mem with home := Mem.write s.mem.home 0x300000 (leBytes 8 (2 ^ 48) ++ leBytes 8 9) } }
theorem ok_of {α β : Type} {r : Except α β} (h : r.isOk = true) : ∃ u, r = .ok u := by cases r <;> simp_all [Except.isOk, Except.toBool]
theorem fetched_of {r : Except Flt (List Byte × State)} {b : List Byte} (h : (r.toOption.map fun e => e.1) = some b) : ∃ t, r = .ok (b, t) := by
  cases r with
  | error e => simp [Except.toOption] at h
  | ok e => exact ⟨e.2, by simp only [Except.toOption, Option.map_some, Option.some.injEq] at h; rw [← h]⟩
theorem almanac_next : nextEntry (almanac true 4 1) 0 (leBytes 8 (2 ^ 48) ++ leBytes 8 9) :=
  ⟨by decide +kernel, by decide +kernel, fetched_of (by decide +kernel), by unfold entryIsOurs; decide +kernel, fun j h => absurd h (Nat.not_lt_zero j)⟩
theorem witness_Recorded : (∃ w t, Recorded boot 1 0 w t) ∧ (∃ w t, Recorded (almanac false 4 0) 1 0 w t) ∧ (∃ w t, Recorded (almanac true 4 1) 1 0 w t) ∧
    almanacFull (almanac false 0 0) 1 ∧ almanacAstray (almanac true 4 1) 2 ∧ almanacAstray (almanac true 4 0) 1 ∧
    ¬ almanacFull (almanac false 4 0) 1 := by
  refine ⟨⟨0, boot, ?_⟩, ?_, ?_, by unfold almanacFull; decide +kernel, ?_, ?_, by unfold almanacFull; decide +kernel⟩
  · unfold Recorded
    rw [if_pos (by decide +kernel)]
    exact ⟨rfl, rfl⟩
  · obtain ⟨u, h⟩ := ok_of (r := (almanac false 4 0).depositBytes (almanac false 4 0).asker (almanacVA (almanac false 4 0) 0)
      (leBytes 8 (1 * 2 ^ 48 + (almanac false 4 0).f.seqno.toNat * 2 ^ 16 + (almanac false 4 0).me.index) ++ leBytes 8 0)) (by decide +kernel)
    refine ⟨0, u.modContext u.ctxId fun x => { x with almIndex := x.almIndex + 1 }, ?_⟩
    unfold Recorded
    rw [if_neg (by decide +kernel), if_pos (by decide +kernel)]
    exact ⟨rfl, u, h, rfl⟩
  · refine ⟨9, (almanac true 4 1).modContext (almanac true 4 1).ctxId fun x => { x with consumed := 0 :: x.consumed }, ?_⟩
    unfold Recorded
    rw [if_neg (by decide +kernel), if_neg (by decide +kernel)]
    exact ⟨0, _, almanac_next, by decide +kernel, rfl, rfl⟩
  · exact ⟨by decide +kernel, by decide +kernel, .inl ⟨0, _, almanac_next, by decide +kernel⟩⟩
  · exact ⟨by decide +kernel, by decide +kernel, .inr fun j h => absurd h (by
      rw [show Min.min ((almanac true 4 0).context (almanac true 4 0).ctxId).almIndex.toNat
        ((almanac true 4 0).context (almanac true 4 0).ctxId).almCap.toNat = 0 from by decide +kernel]
      exact Nat.not_lt_zero j)⟩
theorem test_replay_cycle : reads (exec (.srr 3 0x020) (almanac true 4 1)) (fun t => t.sreg 3) = some 9 := by decide +kernel
theorem test_record_full : reads (exec (.srr 3 0x020) (almanac false 0 0)) (fun t => t.f.cause.toNat) = some 0x13 := by decide +kernel
def waitingPip : QPip := { pip := Pip.zero, source := .trigger, launch := 0, prio := 0, pass := 0, age := 0 }
/-- A deterministic launch of two logical cores, the second with a pip but no region of its own yet. -/
def pairing : State :=
  let s := almanac false 4 0
  { s with lcores := s.lcores ++ [(1, { LCore.fresh with index := 1, pcore := 1, fired := [waitingPip] })], f := { s.f with regseq := 9, region := inRegion.f.region } }
theorem witness_RegionCommit_order : commitIsNext (almanac false 4 0) ∧ ¬ commitIsNext pairing ∧ Ready pairing ∧ pairing.f.region.isOpen = true ∧
    pairing.job.det = true := by
  refine ⟨fun k hk hn => ?_, fun h => ?_, ready_of (by decide +kernel), by decide +kernel, by decide +kernel⟩
  · rw [show (almanac false 4 0).coresOf (launchOfLc (almanac false 4 0).myLc) = [0] from by decide +kernel] at hk
    exact absurd (List.mem_singleton.mp hk) hn
  · obtain ⟨e, he⟩ := Option.isSome_iff_exists.mp (show (pairing.frontier 1).isSome = true from by decide +kernel)
    have h1 : ((pairing.frontier 1).getD (99, 99)).1 < 9 := by decide +kernel
    have h2 := h 1 (by decide +kernel) (by decide +kernel) e.1 e.2 he
    rw [he] at h1
    have h3 : pairing.f.regseq.toNat = 9 := by decide +kernel
    rw [h3] at h2
    exact absurd h2 (by simp at h1; omega)
theorem witness_RegionBeginAndAbort_det :
    let d := almanac false 4 0
    let o (s : State) : State := { s with f := { s.f with region := inRegion.f.region } }
    let r := d.modLc 0 fun c => { c with retired := true }
    Ready d ∧ d.job.det = true ∧ d.me.retired = false ∧ d.job.regions = true ∧ Ready r ∧ r.me.retired = true ∧ r.f.region.isOpen = false ∧
      Ready (o r) ∧ (o r).me.retired = true ∧ (o r).f.region.isOpen = true ∧ ¬ hasRegion (d.firing (firingKey d.myLc (1 - d.f.key % 2))) ∧
      Ready (o d) ∧ (o d).f.region.isOpen = true :=
  ⟨ready_of (by decide +kernel), by decide +kernel, by decide +kernel, by decide +kernel, ready_of (by decide +kernel), by decide +kernel,
    by decide +kernel, ready_of (by decide +kernel), by decide +kernel, by decide +kernel, fun h => absurd h.1 (by decide +kernel),
    ready_of (by decide +kernel), by decide +kernel⟩
theorem test_rabort_retires : reads (exec .rabort (almanac false 4 0)) (fun t => t.me.retired) = some true := by decide +kernel

theorem witness_SystemRegisterReads : Ready boot ∧ unassigned 0x006 ∧ plainRegister boot 0x004 = some 0 ∧ boot.job.det = false :=
  ⟨boot_ready, by unfold unassigned; decide, by decide +kernel, by decide +kernel⟩
theorem test_srr_cycle : reads (exec (.srr 3 0x020) { boot with cycle := 9 }) (fun t => t.sreg 3) = some 9 := by decide +kernel
/-- The trap service: its firing runs. -/
def serving : State := { boot with f := { boot.f with service := true } }
theorem witness_SystemRegisterWrites : Ready boot ∧ unassigned 0x7FF ∧ boot.f.service = false ∧ boot.f.region.isOpen = false ∧ Ready inRegion ∧
    inRegion.f.region.isOpen = true ∧ Ready serving ∧ serving.f.service = true ∧ serving.f.region.isOpen = false :=
  ⟨boot_ready, by unfold unassigned; decide, by decide +kernel, by decide +kernel, ready_of (by decide +kernel), by decide +kernel,
    ready_of (by decide +kernel), by decide +kernel, by decide +kernel⟩
theorem test_srw_reserved : reads (exec (.srw 1 0x001) (serving.setSreg 1 (BitVec.allOnes 64))) (fun t => t.f.cause) = some 0xFFF3F := by
  decide +kernel
theorem test_srw_privileged : reads (exec (.srw 1 0x001) boot) (fun t => t.f.cause.toNat) = some 5 := by decide +kernel

/-- A deposit is located off the device registers and reached. -/
theorem located_alive {s : State} {q : Asker} {va : Nat} {bs : List Byte}
    (h : (match s.locate q .store (pieces va bs.length) with
          | .ok (ps, ts) => (ps.all fun p => !(p.win.isNone && !p.host && isDeviceReg p.pa)) && decide ((s.reach q ps ts).f.st ≠ .free)
          | .error _ => false) = true) : ∃ u, s.depositBytes q va bs = .ok u ∧ u.settle.f.st ≠ .free := by
  split at h
  · rename_i ps ts e
    simp only [Bool.and_eq_true, decide_eq_true_eq, List.all_eq_true] at h
    exact State.depositBytes_alive e (fun p hp => by simpa only [Bool.not_eq_true'] using h.1 p hp) h.2
  · exact absurd h (by decide)
/-- `boot` with a trap service at 0x20100 and its record area at 0x200000. -/
def served : State := boot.modContext 0 fun c => { c with service := 0x20100, svcArg := 77, trapArea := 0x200000 }
theorem witness_TrapEntry : Ready boot ∧ boot.f.region.isOpen = false ∧ (boot.context boot.ctxId).service = 0 ∧ Ready served ∧
    served.f.region.isOpen = false ∧ served.f.service = false ∧ (served.context served.ctxId).service ≠ 0 ∧
    (let t : State := { served with f := (served.f.noteFault 0x15 0x123 0).retireTo (served.f.pc + 4) }
     ∃ u, t.releaseDevice.depositBytes t.asker 0x200000 (t.record t.f t.f.pc) = .ok u ∧ u.settle.f.st ≠ .free) :=
  ⟨boot_ready, by decide +kernel, by decide +kernel, ready_of (by decide +kernel), by decide +kernel, by decide +kernel, by decide +kernel,
    located_alive (by decide +kernel)⟩
theorem test_trap_without_service : reads (exec (.trap 0x123) boot) (fun t => (t.f.st, t.f.cause)) = some (.free, 0x12315) := by decide +kernel
theorem witness_TrapReturnHaltWait : Ready boot ∧ boot.f.service = false ∧ boot.f.region.isOpen = false ∧ boot.me.wake = false ∧ Ready serving ∧
    serving.f.service = true ∧ serving.f.region.isOpen = false ∧
    (serving.fetchBytes serving.asker (((serving.context serving.ctxId).trapArea.toNat + 20480 * (2 * serving.me.index + serving.f.key % 2)) % 2 ^ 64)
      20480).isOk = true ∧ (boot.modLc 0 fun c => { c with wake := true }).me.wake = true :=
  ⟨boot_ready, by decide +kernel, by decide +kernel, by decide +kernel, ready_of (by decide +kernel), by decide +kernel, by decide +kernel,
    by decide +kernel, by decide +kernel⟩
theorem test_waiti_waits : reads (exec .waiti boot) (fun t => (t.f.st, t.f.slot, t.f.pc)) = some (.waiting, none, 0x20000) := by decide +kernel
theorem witness_SaveRecordRoundTrip : boot.f.regs[0] = 0 ∧ boot.f.kregs[0] = BitVec.allOnes 512 ∧ boot.f.guards[0] = .isTrue ∧
    boot.f.cause &&& 0xFFF3F = boot.f.cause ∧ boot.f.round.toNat < 6 ∧ boot.f.gstat &&& 0xFF00FE = boot.f.gstat ∧
    boot.f.regstat &&& 0xFFF0 = 0 ∧ boot.f.poly.canon = boot.f.poly := by decide +kernel

/-! ## Tasks, tiles, counters, events -/

/-- The outcome is this fault. -/
def faults (o : Outcome) (s : State) (c : Code) (a : Word) (x : BitVec 2) : Bool := gives o fun t => decide (t = s.takeFault c 0 a x)
def onLc (s : State) (h : LCore → LCore) : State := s.modLc 0 h

theorem quiet_boot (s : State) (h : (s.lcores.all fun e => e.2.trigs.isEmpty && e.2.actors.isEmpty) = true) : Quiet s := by
  intro e he
  have := List.all_eq_true.mp h e he
  simpa [Bool.and_eq_true] using this
theorem legal_of (p : Pip) (n : Nat) (h : (fld p.w0 59 48 == 0 && (p.w0.getLsbD 61 || fld p.w3 63 48 == 0) && !p.w0.getLsbD 0 &&
    (!p.w0.getLsbD 61 || decide (fld p.w3 63 48 < n)) && (p.w0.getLsbD 60 || fld p.w3 47 0 == 0)) = true) : LegalPip p n := by
  simp only [Bool.and_eq_true, beq_iff_eq, Bool.or_eq_true, Bool.not_eq_true', decide_eq_true_eq] at h
  obtain ⟨⟨⟨⟨a, b⟩, c⟩, d⟩, f⟩ := h
  exact ⟨a, fun e => by rw [e] at b; simpa using b, c, fun e => by rw [e] at d; simpa using d, fun e => by rw [e] at f; simpa using f⟩

/-- The registers of a spawn: a pip of code 0x20040 for the cluster; with the join bit, and one whose cell is at 0x100000. -/
def spawning : State := with3 0x20040 0 0
def joining : State := (with3 (0x20040 ||| (1 <<< 60 : Word)) 0 0).setSreg 4 0x100000
theorem witness_TaskInstructions : Ready spawning ∧ spawning.f.region.isOpen = false ∧ spawning.f.wait = .none ∧
    spawning.me.outbound.length < 8 ∧ NothingSent spawning ∧ Quiet spawning ∧
    LegalPip { w0 := spawning.sreg 1, w1 := spawning.sreg 2, w2 := spawning.sreg 3, w3 := spawning.sreg (3 + 1) } spawning.job.ncore ∧
    (spawning.sreg 1).getLsbD 60 = false ∧ Ready joining ∧ (joining.sreg 1).getLsbD 60 = true ∧ Quiet joining ∧
    LegalPip { w0 := joining.sreg 1, w1 := joining.sreg 2, w2 := joining.sreg 3, w3 := joining.sreg (3 + 1) } joining.job.ncore ∧
    ((joining.locateCell (fld (joining.sreg 4) 47 0)).map fun e => e.1).toOption = some 0x100000 :=
  ⟨ready_of (by decide +kernel), by decide +kernel, by decide +kernel, by decide +kernel, by decide +kernel,
    quiet_boot _ (by decide +kernel), legal_of _ _ (by decide +kernel), by decide +kernel, ready_of (by decide +kernel), by decide +kernel,
    quiet_boot _ (by decide +kernel), legal_of _ _ (by decide +kernel), by decide +kernel⟩
theorem test_spawn : gives (exec (.spawn 1 2 3) spawning) (fun t => noReg spawning t && decide (t.job.live = 2) &&
    decide (t.me.outbound.map (fun o => o.num) = [0])) = true := by decide +kernel
theorem test_spawnj_counts : gives (exec (.spawnj 1 2 3) joining) (fun t => noReg joining t &&
    decide (wordAt t 0x100000 = 1)) = true := by decide +kernel
theorem witness_TaskInstructions_done : boot.f.st = .running ∧ boot.f.region.isOpen = false ∧ NothingSent boot ∧ Quiet boot ∧
    boot.f.service = false ∧ boot.f.pip.w0.getLsbD 60 = false ∧ boot.f.source ∈ [Source.pinned, .entry, .trigger, .free] ∧
    (∀ g ∈ boot.f.guards.toList, g ≠ .unresolved) :=
  ⟨by decide +kernel, by decide +kernel, by decide +kernel, quiet_boot _ (by decide +kernel), by decide +kernel, by decide +kernel,
    by decide +kernel, by decide +kernel⟩
/-- The issuing firing ends with a join: its cell at 0x100000 has a count and the pip of code `w0`. -/
def ending (src : Source) (w0 w3 : Word) (n : Word) (cell : Word) : State :=
  let s : State := { boot with f := { boot.f with source := src, pip := { boot.f.pip with w0 := w0, w3 := w3 } } }
  { s with mem := { s.mem with home := Mem.write s.mem.home 0x100000 (leBytes 8 n.toNat ++ List.replicate 24 0 ++ leBytes 8 cell.toNat) } }
theorem mayEnd_of (s : State) (h : (decide (s.f.st = .running) && !s.f.region.isOpen && decide (NothingSent s) && !s.f.service &&
    s.f.guards.toList.all fun g => g != .unresolved) = true) : MayEnd s := by
  simp only [Bool.and_eq_true, decide_eq_true_eq, Bool.not_eq_true', List.all_eq_true, bne_iff_ne] at h
  exact ⟨h.1.1.1.1, h.1.1.1.2, h.1.1.2, h.1.2, h.2⟩
theorem witness_TaskInstructions_join :
    let s := ending .pinned (1 <<< 60) 0x100000 1 0x20040
    let b := ending .pinned (1 <<< 60) 0x100000 1 (1 <<< 59)
    let o := ending .pinned (1 <<< 60) 0x100000 2 0
    MayEnd s ∧ Quiet s ∧ s.f.pip.w0.getLsbD 60 = true ∧ ((s.locateCell (fld s.f.pip.w3 47 0)).map fun e => e.1).toOption = some 0x100000 ∧
      isHbm 0x100000 = true ∧ 0x100000 % 64 = 0 ∧ wordAt s 0x100000 = 1 ∧ (cellPipAt s 0x100000).faulty s.job.ncore = false ∧
      (cellPipAt b 0x100000).faulty b.job.ncore = true ∧ wordAt o 0x100000 ≠ 1 ∧ s.me.joins = [] ∧ s.me.outbound.length < 8 ∧
      8 ≤ ((onLc s fun c => { c with outbound := List.replicate 8 { num := 0, what := .pip waitingPip none 0, full := false, decided := false } }).me.outbound.length) :=
  ⟨mayEnd_of _ (by decide +kernel), quiet_boot _ (by decide +kernel), by decide +kernel⟩
theorem test_done_join : gives (exec .done (ending .pinned (1 <<< 60) 0x100000 1 0x20040)) (fun t => decide (t.f.st = .free) &&
    decide (wordAt t 0x100000 = 0) && decide (t.job.live = 1) && decide (t.me.outbound.length = 1)) = true := by decide +kernel
/-- A handler of mailbox entry 3, and an actor that has taken two entries of in end 2. -/
def handling : State := onLc (ending (.message 3) 0 0 0 0) fun c => { c with mbox := [(3, { tag := 5, code := 0x20040, sender := 0, delivery := 0, epoch := 0 })] }
def acting : State := onLc (ending (.actor 1) 0 0 0 0) fun c =>
  { c with actors := [(1, { code := 0x20040, specs := [(false, 2, 2)], ready := false, alive := true, age := 0 })],
           ends := [(2, { isIn := true, ring := 0, logCap := 1, peer := 0, peerEnd := 3, moved := 3, freed := 0, held := true })] }
theorem witness_TaskInstructions_sources :
    MayEnd handling ∧ Quiet handling ∧ handling.f.source = .message 3 ∧ handling.f.pip.w0.getLsbD 60 = false ∧ handling.me.park = [] ∧
      handling.me.heldMsgs = [] ∧ MayEnd acting ∧ acting.f.source = .actor 1 ∧ acting.f.pip.w0.getLsbD 60 = false ∧
      (∃ a, Tbl.find acting.me.actors 1 = some a ∧ (a.specs.map fun x => x.2.1).Nodup) :=
  ⟨mayEnd_of _ (by decide +kernel), quiet_boot _ (by decide +kernel), by decide +kernel, by decide +kernel, by decide +kernel, by decide +kernel,
    mayEnd_of _ (by decide +kernel), by decide +kernel, by decide +kernel,
    ⟨_, show Tbl.find acting.me.actors 1 = some { code := 0x20040, specs := [(false, 2, 2)], ready := false, alive := true, age := 0 } from by
      decide +kernel, by decide⟩⟩
theorem test_done_actor : gives (exec .done acting) (fun t => decide (t.net.spaces = [(0, 3, 2)])) = true := by decide +kernel
theorem test_done : gives (exec .done boot) (fun t => decide (t.f.st = .free) && decide (t.f.slot = none) && decide (t.job.live = 0)) = true := by
  decide +kernel
theorem test_yield : gives (exec (.yield 1) (with3 5 0 0)) (fun t => decide (t.f.st = .yielded) && decide (t.f.yleft = 5) &&
    decide (t.f.pc = 0x20004)) = true := by decide +kernel

/-- A tile word for a scratchpad tile of 128 bytes at offset 64 of format 2, 64 bytes expected; and one for a slot. -/
def tileState (kind state uses : Nat) (w n : Word) : State :=
  onLc (with3 0 w n) fun c => { c with tiles := [(1, { Tile.undefined with kind := kind, state := state, uses := uses, size := 64, expected := 64 })] }
def padWord : Word := 64 ||| (128 <<< 18) ||| (2 <<< 49) ||| (1 <<< 54)
def slotWord : Word := (0 <<< 49) ||| (1 <<< 54 <<< 1) ||| (64 <<< 39)
theorem witness_TileInstructions_tset :
    let s := tileState 0 0 0 padWord 64
    Ready s ∧ s.f.region.isOpen = false ∧ s.f.wait = .none ∧ NothingSent s ∧ fld 64 63 24 = 0 ∧ fld padWord 63 56 = 0 ∧
      fld padWord 38 38 = 0 ∧ fld padWord 55 54 = 1 ∧ (s.me.tile 1).kind ≠ 2 ∧ fld padWord 17 0 % 64 = 0 ∧ fld padWord 37 18 = 128 ∧
      fld padWord 53 49 ≤ 15 ∧ fld padWord 47 39 = 0 ∧ padWord.getLsbD 48 = false ∧ 64 + 128 ≤ s.me.shareSize ∧ (s.me.tile 1).free = true ∧
      ((tileState 1 1 1 padWord 64).me.tile 1).free = false :=
  ⟨ready_of (by decide +kernel), by decide +kernel⟩
theorem test_tset : gives (exec (.tset 1 2 3) (tileState 0 0 0 padWord 64)) (fun t => decide (t.me.tile 1 =
    { Tile.undefined with kind := 1, fmt := 2, expected := 64, base := 64, size := 128 })) = true := by decide +kernel
theorem test_tset_waits : gives (exec (.tset 1 2 3) (tileState 1 1 1 padWord 64))
    (fun t => waitsFor (tileState 1 1 1 padWord 64) t (.need (.tileFree 1))) = true := by decide +kernel
theorem witness_TileInstructions_slot :
    let s := tileState 2 0 0 slotWord 64
    Ready s ∧ fld slotWord 63 56 = 0 ∧ fld slotWord 38 38 = 0 ∧ fld slotWord 55 54 = 2 ∧ (s.me.tile 1).kind = 2 ∧ fld slotWord 17 0 = 0 ∧
      fld slotWord 37 18 = 0 ∧ slotAllows (fld slotWord 53 49) (fld slotWord 47 39) (slotWord.getLsbD 48) = true ∧
      (s.me.tile 1).free = true :=
  ⟨ready_of (by decide +kernel), by decide +kernel⟩
theorem witness_TileInstructions_tmark :
    let s := tileState 1 0 0 64 0
    Ready s ∧ fld (s.sreg 2) 63 24 = 0 ∧ (s.me.tile 1).kind = 1 ∧ fld (s.sreg 2) 23 0 ≠ 0 ∧ (s.me.tile 1).state = 0 ∧
      (s.me.tile 1).arrived + fld (s.sreg 2) 23 0 ≤ (s.me.tile 1).expected ∧
      (s.me.tile 1).expected < (s.me.tile 1).arrived + fld ((tileState 1 0 0 65 0).sreg 2) 23 0 ∧
      fld ((tileState 1 0 0 0 0).sreg 2) 23 0 = 0 :=
  ⟨ready_of (by decide +kernel), by decide +kernel⟩
theorem test_tmark_ready : gives (exec (.tmark 1 2) (tileState 1 0 0 64 0)) (fun t => decide (t.me.tile 1 =
    { (tileState 1 0 0 64 0).me.tile 1 with state := 2, phase := true, arrived := 64 })) = true := by decide +kernel
theorem test_tmark_too_many : faults (exec (.tmark 1 2) (tileState 1 0 0 65 0)) (tileState 1 0 0 65 0) 0x0C 0 0 = true := by decide +kernel
theorem witness_TileInstructions_twait :
    let r := tileState 1 2 0 0 0
    let p := onLc r fun c => { c with tiles := [(1, { Tile.undefined with kind := 1, state := 2, poison := true })] }
    Ready r ∧ fld (r.sreg 2) 63 2 = 0 ∧ (r.me.tile 1).kind ≠ 0 ∧ (r.me.tile 1).state = 2 ∧ (r.sreg 2).getLsbD 1 = false ∧
      (r.me.tile 1).poison = false ∧ Ready p ∧ (p.me.tile 1).poison = true ∧ ((tileState 1 0 0 2 0).me.tile 1).state ≠ 2 ∧
      (r.me.tile 1).kind < 4 ∧ (r.me.tile 1).fmt < 32 ∧ (r.me.tile 1).arrived < 2 ^ 24 ∧ (r.me.tile 1).expected < 2 ^ 24 :=
  ⟨ready_of (by decide +kernel), by decide +kernel, by decide +kernel, by decide +kernel, by decide +kernel, by decide +kernel,
    ready_of (by decide +kernel), by decide +kernel⟩
theorem test_twait_waits : gives (exec (.twait 1 2) (tileState 1 0 0 2 0))
    (fun t => waitsFor (tileState 1 0 0 2 0) t (.tile 1 (some false))) = true := by decide +kernel
theorem test_tstat : gives (exec (.tstat 1 2) (tileState 1 2 0 0 0)) (fun t => decide (fld (t.sreg 2) 4 3 = 1) && decide (fld (t.sreg 2) 6 5 = 2) &&
    decide (fld (t.sreg 2) 63 40 = 64)) = true := by decide +kernel
theorem witness_TileInstructions_tclr : ((tileState 2 0 0 0 0).me.tile 1).kind = 2 ∧ ((tileState 0 0 0 0 0).me.tile 1).kind = 0 ∧
    ((tileState 1 0 0 0 0).me.tile 1).kind = 1 ∧ ((tileState 1 0 0 0 0).me.tile 1).free = true := by decide +kernel
theorem test_tclr_slot : faults (exec (.tclr 1) (tileState 2 0 0 0 0)) (tileState 2 0 0 0 0) 0x0D 0 0 = true := by decide +kernel
theorem witness_TileInstructions_busy : ((tileState 1 1 1 0 0).me.tile 1).kind ≠ 2 ∧ ((tileState 1 1 1 0 0).me.tile 1).free = false ∧
    ((tileState 1 2 1 0 0).me.tile 1).free = false ∧ ((tileState 1 0 1 0 0).me.tile 1).free = true ∧ ((tileState 1 2 0 0 0).me.tile 1).free = true := by
  decide +kernel
theorem test_tclr_waits : gives (exec (.tclr 1) (tileState 1 2 1 0 0)) (fun t => waitsFor (tileState 1 2 1 0 0) t (.need (.tileFree 1))) = true := by
  decide +kernel

/-- A counter at 0x100000 that holds `v`. -/
def counting (v target c : Word) : State :=
  let s := with3 0x100000 target c
  { s with mem := { s.mem with home := Mem.write s.mem.home 0x100000 (leBytes 8 v.toNat) } }
theorem spot_counter (s : State) (h : (decide (s.poisoned 0x100000 = false) && decide (NothingSent s)) = true) : CounterSpot s (spot 0x100000 8) := by
  simp only [Bool.and_eq_true, decide_eq_true_eq] at h
  exact ⟨rfl, h.1, h.2, .inl ⟨rfl, rfl, by decide⟩⟩
theorem witness_CounterAndEventInstructions_cwait :
    let s := counting 5 5 0
    let r := counting (5 ||| (1 <<< 63)) 5 0
    let q := counting 4 5 0
    Ready s ∧ s.f.region.isOpen = false ∧ s.f.wait = .none ∧ NothingSent s ∧ (s.sreg 1).toNat % 8 = 0 ∧ (mem3.sreg 3).toNat % 8 ≠ 0 ∧
      ((s.locateCounter (s.sreg 1)).map fun e => e.1).toOption = some [spot 0x100000 8] ∧ CounterSpot s (spot 0x100000 8) ∧
      (s.sreg 2).toNat % 2 ^ 63 ≤ (wordAt s 0x100000).toNat % 2 ^ 63 ∧ (wordAt s 0x100000).getLsbD 63 = false ∧ Ready r ∧
      (wordAt r 0x100000).getLsbD 63 = true ∧ (r.sreg 2).getLsbD 63 = false ∧ Ready q ∧
      ¬ (q.sreg 2).toNat % 2 ^ 63 ≤ (wordAt q 0x100000).toNat % 2 ^ 63 :=
  ⟨ready_of (by decide +kernel), by decide +kernel, by decide +kernel, by decide +kernel, by decide +kernel, by decide +kernel,
    by decide +kernel, spot_counter _ (by decide +kernel), by decide +kernel, by decide +kernel, ready_of (by decide +kernel),
    by decide +kernel, by decide +kernel, ready_of (by decide +kernel), by decide +kernel⟩
theorem test_cwait_met : gives (exec (.cwait 1 2 4) (counting 5 5 0)) (fun t => onlyReg (counting 5 5 0) t 4 5) = true := by decide +kernel
theorem test_cwait_waits : gives (exec (.cwait 1 2 4) (counting 4 5 0))
    (fun t => waitsFor (counting 4 5 0) t (.counter 0x100000 0x100000 5 4)) = true := by decide +kernel
/-- A trigger's pip at 0x100100 of code 0x20040. -/
def arming (v : Word) : State :=
  let s := counting v 5 0x100100
  { s with mem := { s.mem with home := Mem.write s.mem.home 0x100100 (leBytes 8 0x20040) } }
theorem witness_CounterAndEventInstructions_ctrig :
    let s := arming 5
    let u := ((s.locateCounter (s.sreg 1)).toOption.map fun e => e.2).getD s
    let bs := leBytes 8 0x20040 ++ List.replicate 24 0
    Ready s ∧ Quiet s ∧ (s.sreg 2).getLsbD 63 = false ∧ (s.sreg 3).toNat % 32 = 0 ∧ s.me.trigs.length < 16 ∧
      (∃ x, u.readPieces (pieces (s.sreg 3).toNat 32) true = .ok bs x) ∧ bs.length = 32 ∧ fld (recWord bs 0) 61 48 = 0 ∧ recWord bs 24 = 0 ∧
      (recWord bs 0).getLsbD 0 = false :=
  ⟨ready_of (by decide +kernel), quiet_boot _ (by decide +kernel), by decide +kernel, by decide +kernel, by decide +kernel,
    got_of (by decide +kernel), by decide +kernel⟩
theorem test_ctrig_fires : gives (exec (.ctrig 1 2 3) (arming 5)) (fun t => noReg (arming 5) t && t.me.trigs.isEmpty &&
    decide (t.me.fired.map (fun q => q.pip.w0) = [0x20040]) && decide (t.job.live = 2)) = true := by decide +kernel
theorem test_ctrig_arms : gives (exec (.ctrig 1 2 3) (arming 4)) (fun t => decide (t.me.trigs.map (fun q => q.pa) = [0x100000]) &&
    t.me.fired.isEmpty) = true := by decide +kernel
/-- The other firing of the core waits until the counter at 0x100000 reaches `n`, the core has a trigger at that count, and the issuing firing stores 5. -/
def answering (n : Word) : State :=
  let s := onLc (with3 0x100000 5 0) fun c => { c with trigs := [{ pa := 0x100000, threshold := n, pip := { w0 := 0x20040, w1 := 0, w2 := 0, w3 := 0 } }] }
  { s with firings := [(1, { Firing.idle 1 with st := .waiting, wait := .counter 0x100000 0x100000 n 4 })] }
theorem witness_CounterAndEventInstructions_store :
    let s := answering 5
    Ready s ∧ s.f.wait = .none ∧ NothingSent s ∧ (ea s 1 (8 * (0 : BitVec 10).toInt)).toNat % 8 = 0 ∧
      s.locate s.asker .store (pieces (ea s 1 (8 * (0 : BitVec 10).toInt)).toNat 8) = .ok ([spot 0x100000 8], [page]) ∧
      CounterSpot s (spot 0x100000 8) ∧ s.firings.Pairwise (fun x y => x.1 < y.1) ∧ (s.firing 1).st = .waiting ∧
      (s.firing 1).wait = .counter 0x100000 0x100000 5 4 ∧ (5 : Word).toNat % 2 ^ 63 ≤ (s.sreg 2).toNat % 2 ^ 63 ∧
      (s.sreg 2).toNat % 2 ^ 63 < (6 : Word).toNat % 2 ^ 63 ∧ (∃ x ∈ (s.lc 0).trigs, x.pa = 0x100000 ∧ x.threshold = 5) :=
  ⟨ready_of (by decide +kernel), by decide +kernel, by decide +kernel, by decide +kernel, by decide +kernel, spot_counter _ (by decide +kernel),
    List.pairwise_singleton _ _, by decide +kernel, by decide +kernel, by decide +kernel, by decide +kernel,
    ⟨{ pa := 0x100000, threshold := 5, pip := { w0 := 0x20040, w1 := 0, w2 := 0, w3 := 0 } }, by decide +kernel, rfl, rfl⟩⟩
theorem test_store_answers : gives (exec (.st 2 1 0) (answering 5)) (fun t => decide ((t.firing 1).st = .runnable) &&
    decide ((t.firing 1).wait = .met 5 4) && t.me.trigs.isEmpty && decide (t.me.fired.map (fun q => q.pip.w0) = [0x20040])) = true := by decide +kernel
theorem test_store_falls_short : gives (exec (.st 2 1 0) (answering 6)) (fun t => decide ((t.firing 1).st = .waiting) &&
    decide (t.me.trigs.length = 1) && t.me.fired.isEmpty) = true := by decide +kernel
/-- A join cell at 0x100000 with a count and the pip of code `w0`. -/
def celled (n w0 : Word) : State :=
  let s := with3 0x100000 0 0
  { s with mem := { s.mem with home := Mem.write s.mem.home 0x100000 (leBytes 8 n.toNat ++ List.replicate 24 0 ++ leBytes 8 w0.toNat) } }
theorem witness_CounterAndEventInstructions_cell :
    let s := celled 1 0x20040
    let b := celled 1 (1 <<< 59)
    Ready s ∧ Quiet s ∧ ((s.locateCell (s.sreg 1).toNat).map fun e => e.1).toOption = some 0x100000 ∧ isHbm 0x100000 = true ∧
      wordAt s 0x100000 = 1 ∧ (Pip.mk (wordAt s 0x100020) 0 0 0).faulty s.job.ncore = false ∧
      (Pip.mk (wordAt b 0x100020) 0 0 0).faulty b.job.ncore = true ∧ wordAt (celled 2 0) 0x100000 ≠ 1 :=
  ⟨ready_of (by decide +kernel), quiet_boot _ (by decide +kernel), by decide +kernel⟩
theorem test_ctrig_cell_zero : gives (exec (.ctrig 1 0 0) (celled 1 0x20040)) (fun t => decide (wordAt t 0x100000 = 0) &&
    decide (t.me.outbound.length = 1)) = true := by decide +kernel
theorem test_ctrig_bad_pip : faults (exec (.ctrig 1 0 0) (celled 1 (1 <<< 59))) (celled 1 (1 <<< 59)) 0x02 0 0 = true := by decide +kernel
theorem witness_CounterAndEventInstructions_events : 3 < ((with3 4 0 0).sreg 1).toNat ∧ ((with3 3 1 0).sreg 1).toNat ≤ 3 ∧
    ((with3 3 1 0).sreg 2).getLsbD 0 = true ∧ ((with3 3 1 0).context (with3 3 1 0).ctxId).events.getLsbD 192 = false := by decide +kernel
theorem test_evset : gives (exec (.evset 1 2) (with3 3 1 0)) (fun t => decide ((t.context 0).events = 1 <<< 192)) = true := by decide +kernel
theorem test_evwait_waits : gives (exec (.evwait 1 2) (with3 3 1 0)) (fun t => waitsFor (with3 3 1 0) t (.event 3 1)) = true := by decide +kernel

/-! ## Range units, teams, queues, digests, messages -/

theorem witness_RangeTeamAndLaunchInstructions_range :
    let s := with3 63 10 (4 ||| (2 <<< 32))
    Ready s ∧ s.f.region.isOpen = false ∧ s.f.wait = .none ∧ NothingSent s ∧ s.job.det = false ∧ (s.sreg 1).toNat ≤ 63 ∧
      fld (s.sreg 2) 63 40 = 0 ∧ fld (s.sreg 3) 63 48 = 0 ∧ fld (s.sreg 3) 31 0 ≠ 0 ∧ fld (s.sreg 3) 47 32 ≠ 0 ∧ (s.sreg 2).toNat ≤ 63 :=
  ⟨ready_of (by decide +kernel), by decide +kernel⟩
theorem test_rinit_rnext : gives (exec (.rinit 1 2 3) (with3 63 10 (4 ||| (2 <<< 32)))) (fun t =>
    gives (exec (.rnext 4 1) t) fun u => decide (u.sreg 4 = 0) && decide (u.sreg 5 = 5) &&
      decide ((u.context 0).unit 63 = { next := 5, remain := 5, chunk := 4, divisor := 2 })) = true := by decide +kernel
/-- Team 7 of the context with these members; the issuing core has the key 0. -/
def teamed (ms : List Member) (arrived : Nat) (w : Word) : State :=
  (with3 7 w 0).modContext 0 fun c => c.setTeam 7 { Team.empty with members := ms, arrived := arrived }
def me (awaited arrived : Bool) : Member := { lc := 0, x := 0, y := 0, awaited := awaited, arrived := arrived }
def other : Member := { lc := 1, x := 0, y := 0, awaited := true, arrived := false }
def gridWord : Word := 1 ||| (0 <<< 16) ||| (2 <<< 32) ||| (1 <<< 48)
theorem witness_RangeTeamAndLaunchInstructions_teams :
    let s := teamed [other] 0 0
    let m := teamed [me true false, other] 0 0
    let tm (s : State) := (s.context s.ctxId).team (s.sreg 1).toNat
    Ready s ∧ s.f.region.isOpen = false ∧ s.f.wait = .none ∧ s.job.det = false ∧ (s.sreg 1).toNat ≤ 255 ∧ (∀ m ∈ (tm s).members, m.lc ≠ s.myLc) ∧
      (tm s).grid = none ∧ s.sreg 2 = 0 ∧ Ready m ∧ (∃ x ∈ (tm m).members, x.lc = m.myLc) ∧
      (tm m).members.find? (fun k => k.lc = m.myLc) = some (me true false) ∧ (tm m).span = false ∧ (tm m).arrived + 1 ≠ awaitedOf (tm m) ∧
      (tm (teamed [me true false] 0 0)).arrived + 1 = awaitedOf (tm (teamed [me true false] 0 0)) ∧
      (tm (teamed [me true true] 1 0)).members.find? (fun k => k.lc = 0) = some (me true true) ∧
      (tm (teamed [me false false] 1 0)).members.find? (fun k => k.lc = 0) = some (me false false) ∧
      (let g := teamed [] 0 gridWord
       Ready g ∧ g.sreg 2 ≠ 0 ∧ (tm g).members = [] ∧ fld (g.sreg 2) 15 0 < fld (g.sreg 2) 46 32 ∧ fld (g.sreg 2) 31 16 < fld (g.sreg 2) 62 48) := by
  refine ⟨ready_of (by decide +kernel), by decide +kernel, by decide +kernel, by decide +kernel, by decide +kernel, by decide +kernel,
    by decide +kernel, by decide +kernel, ready_of (by decide +kernel), ⟨me true false, by decide +kernel, by decide +kernel⟩, by decide +kernel,
    by decide +kernel, by decide +kernel, by decide +kernel, by decide +kernel, by decide +kernel, ready_of (by decide +kernel), by decide +kernel⟩
theorem test_tjoin_grid : gives (exec (.tjoin 1 2) (teamed [] 0 gridWord)) (fun t => decide (((t.context 0).team 7).members =
    [{ lc := 0, x := 1, y := 0, awaited := true, arrived := false }])) = true := by decide +kernel
theorem test_tbar_last : gives (exec (.tbar 1) (teamed [me true false] 0 0)) (fun t => noReg (teamed [me true false] 0 0) t &&
    decide (((t.context 0).team 7).gen = 1) && decide (((t.context 0).team 7).members = [me true false])) = true := by decide +kernel
theorem test_tbar_first : gives (exec (.tbar 1) (teamed [me true false, other] 0 0)) (fun t =>
    waitsFor (teamed [me true false, other] 0 0) t (.barrier 7 0) && decide (((t.context 0).team 7).arrived = 1)) = true := by decide +kernel
theorem test_tleave_absent : faults (exec (.tleave 1) (teamed [other] 0 0)) (teamed [other] 0 0) 0x12 0 0 = true := by decide +kernel
theorem witness_RangeTeamAndLaunchInstructions_launch : 15 < ((with3 0 16 0).sreg 2).toNat ∧ ((with3 0 15 0).sreg 2).toNat ≤ 15 := by
  decide +kernel
theorem test_launch : gives (exec (.launch 4 2) (with3 0 15 0)) (fun t => onlyReg (with3 0 15 0) t 4 1 &&
    decide (((t.context 0).queue 15).tail = 1)) = true := by decide +kernel
theorem witness_RangeTeamAndLaunchInstructions_digest :
    let s := with3 0 0x100000 64
    let r := s.locate s.asker .load (pieces (s.sreg 2).toNat (s.sreg 3).toNat)
    Ready s ∧ (s.sreg 2).toNat % 64 = 0 ∧ (s.sreg 3).toNat % 64 = 0 ∧ (s.sreg 3).toNat ≠ 0 ∧ (s.sreg 3).toNat ≤ 0x100000 ∧
      r = .ok ([spot 0x100000 64], [page]) ∧ s.poisoned 0x100000 = false ∧ s.sreg (3 + 1) = 0 ∧ (s.setSreg 4 1).sreg (3 + 1) ≠ 0 :=
  ⟨ready_of (by decide +kernel), by decide +kernel⟩
theorem test_digest_holds : gives (exec (.digest 1 2 3) ((with3 0 0x100000 64).setSreg 4 9)) (fun t => decide ((t.context 0).repStep = 9) &&
    decide ((t.context 0).repDigest = t.sreg 1)) = true := by decide +kernel

/-- The word of a message of 8 bytes with tag 5 to core 0 of this package, without a status word. -/
def msgWord : Word := 8 ||| (5 <<< 8) ||| (0x3FFFF <<< 32)
theorem witness_MessageInstructions_send :
    let s := with3 msgWord 0 0x100000
    Ready s ∧ s.f.region.isOpen = false ∧ s.f.wait = .none ∧ NothingSent s ∧ s.me.outbound.length < 8 ∧ fld (s.sreg 1) 49 32 = 0x3FFFF ∧
      ((s.sendChecks (s.sreg 1) 0).map fun e => e.1).toOption = some none ∧
      (∃ x, s.readPieces (pieces (s.sreg 3).toNat 8) true = .ok (List.replicate 8 0) x) ∧ fld (0 : Word) 7 0 = 0 ∧ fld (1 <<< 63 : Word) 63 50 ≠ 0 :=
  ⟨ready_of (by decide +kernel), by decide +kernel, by decide +kernel, by decide +kernel, by decide +kernel, by decide +kernel,
    by decide +kernel, got_of (by decide +kernel), by decide +kernel⟩
theorem test_send : gives (exec (.send 1 0 2) ((with3 msgWord 0 0).setVreg 2 0x77)) (fun t => decide (t.me.ticket = 1) &&
    decide (t.me.outbound.map (fun o => match o.what with | .msg m => (m.tag, m.data) | _ => (0, [])) = [(5, leBytes 8 0x77)])) = true := by
  decide +kernel
theorem test_send_empty : faults (exec (.send 1 0 2) (with3 0 0 0)) (with3 0 0 0) 0x0B 0 0 = true := by decide +kernel
theorem witness_MessageInstructions_bind :
    let s := with3 0x20040 (5 ||| (1 <<< 11) ||| (3 <<< 12)) 0
    Ready s ∧ fld (s.sreg 2) 63 25 = 0 ∧ fld (s.sreg 2) 10 8 = 0 ∧ (s.sreg 1).getLsbD 0 = false ∧ s.me.park = [] ∧ s.me.heldMsgs = [] ∧
      fld ((with3 0 5 0).sreg 2) 63 8 = 0 :=
  ⟨ready_of (by decide +kernel), by decide +kernel⟩
theorem test_bind : gives (exec (.bind 1 2) (with3 0x20040 (5 ||| (1 <<< 11) ||| (3 <<< 12)) 0)) (fun t =>
    decide (Tbl.find t.me.binds 5 = some 0x20040) && decide (t.me.depths = [4, 16, 16, 16])) = true := by decide +kernel
/-- Channel end 2 of the issuing core, an out end of a ring of 2, with this many entries sent and not freed. -/
def channelled (n : Nat) (held : Bool) : State :=
  onLc boot fun c => { c with ends := [(2, { isIn := false, peer := 0, peerEnd := 3, ring := 0, logCap := 1, moved := n, freed := 0, held := held })] }
theorem witness_MessageInstructions_chput : Ready (channelled 1 false) ∧ ((Tbl.find (channelled 1 false).me.ends 2).map fun e =>
      (e.isIn, e.held, decide (e.moved - e.freed < 2 ^ e.logCap))) = some (false, false, true) ∧ Ready (channelled 2 false) ∧
    ((Tbl.find (channelled 2 false).me.ends 2).map fun e => decide (2 ^ e.logCap ≤ e.moved - e.freed)) = some true ∧
    ((Tbl.find (channelled 1 true).me.ends 2).map fun e => e.held) = some true :=
  ⟨ready_of (by decide +kernel), by decide +kernel, ready_of (by decide +kernel), by decide +kernel⟩
theorem test_chput : gives (exec (.chput 1 2) (channelled 1 false)) (fun t => noReg (channelled 1 false) t &&
    decide ((t.net.entries.map fun e => (e.lc, e.inEnd, e.index)) = [(0, 3, 1)])) = true := by decide +kernel
theorem test_chput_full : gives (exec (.chput 1 2) (channelled 2 false)) (fun t =>
    waitsFor (channelled 2 false) t (.need (.channelSpace 2))) = true := by decide +kernel
/-- In a deterministic launch. -/
def det (s : State) : State := s.modLaunch 0 fun l => { l with det := true }
theorem witness_MessageInstructions_wclose :
    let s := teamed [me true false, other] 0 1
    Ready s ∧ (s.sreg 1).toNat ≤ 255 ∧ fld (s.sreg 2) 63 1 = 0 ∧ (∃ m ∈ ((s.context s.ctxId).team (s.sreg 1).toNat).members, m.lc = s.myLc) ∧
      s.job.det = false ∧ Ready (det s) ∧ (det s).job.det = true ∧ (det s).me.outbound = [] :=
  ⟨ready_of (by decide +kernel), by decide +kernel, by decide +kernel, ⟨me true false, by decide +kernel, by decide +kernel⟩,
    by decide +kernel, ready_of (by decide +kernel), by decide +kernel⟩
def aMsg0 : Msg :=
  { launch := 0, target := 0, tag := 5, dev := 0, sender := 0, ticket := 1, epoch := 0, first := 0, data := [9], status := none, from_ := some 0 }
/-- A message of the issuing core has not left its outbound buffer, and its next ticket is 2; or that ticket is 1, which the message has. -/
def sending (ticket : BitVec 32) : State :=
  onLc (det (teamed [me true false, other] 0 1)) fun c => { c with ticket := ticket, outbound := [{ num := 0, full := false, decided := false, what := .msg aMsg0 }] }
theorem witness_MessageInstructions_sends : SendsAccepted (det (teamed [me true false, other] 0 1)) ∧ ¬ SendsAccepted (sending 2) ∧ Ready (sending 2) ∧
    SendsAccepted (sending 1) :=
  ⟨⟨fun o h => absurd h (by rw [show (det (teamed [me true false, other] 0 1)).me.outbound = [] from by decide +kernel]; exact List.not_mem_nil),
    fun h => absurd h.1 (by decide +kernel)⟩,
    fun h => h.1 { num := 0, full := false, decided := false, what := .msg aMsg0 } (by decide +kernel) ⟨by decide +kernel, by decide +kernel⟩,
    ready_of (by decide +kernel), fun o h => by
      rw [show (sending 1).me.outbound = [{ num := 0, full := false, decided := false, what := .msg aMsg0 }] from by decide +kernel, List.mem_singleton] at h
      rw [h]
      exact fun e => absurd e.1 (by decide +kernel), fun h => absurd h.1 (by decide +kernel)⟩
theorem test_wclose_waits : gives (exec (.wclose 1 2) (sending 2)) (fun t => waitsFor (sending 2) t (.need (.sendsAccepted 2))) = true := by decide +kernel
theorem test_wclose : gives (exec (.wclose 1 2) (det (teamed [me true false, other] 0 1))) (fun t => decide (t.net.markers = [(0, 0, 0), (1, 0, 0)]) &&
    decide (t.me.epoch = 1)) = true := by decide +kernel
/-- The word of a contribution to counters 8 and 9 of core 0, group 2 of 3 members. -/
def combWord : Word := 8 ||| (0x3FFFF <<< 32)
theorem witness_MessageInstructions_combine :
    let s := with3 combWord 6 (3 ||| (2 <<< 32))
    Ready s ∧ fld (s.sreg 1) 63 50 = 0 ∧ fld (s.sreg 1) 15 9 = 0 ∧ fld (s.sreg 3) 63 48 = 0 ∧ fld (s.sreg 1) 8 0 ≠ 511 ∧
      fld (s.sreg 3) 31 0 ≠ 0 ∧ fld (s.sreg 1) 31 16 < s.job.ncore ∧ fld (s.sreg 1) 49 32 = 0x3FFFF ∧
      (s.lc (s.myLaunch * 65536 + fld (s.sreg 1) 31 16)).ends = [] :=
  ⟨ready_of (by decide +kernel), by decide +kernel⟩
theorem test_combine : gives (exec (.combineAddfx 1 2 3) (with3 combWord 6 (3 ||| (2 <<< 32)))) (fun t =>
    decide ((t.net.combs.map fun p => (p.x, p.isMax, p.group, p.n, p.value, p.count)) = [(8, false, 2, 3, 6, 1)])) = true := by decide +kernel

/-! ## Engine commands -/

/-- The launch may not use the matrix unit. -/
def noMatrix : State := boot.modLaunch 0 fun l => { l with matrix := false }
/-- Tile 1 is slot 0, tile 2 a scratchpad tile of 8192 bytes at 0, and s3 holds a control word. -/
def engines (w : Word) : State :=
  onLc (with3 0 0 w) fun c => { c with tiles := [(1, { Tile.undefined with kind := 2, size := 8704 }), (2, { Tile.undefined with kind := 1, size := 8192, fmt := 0 })] }
def cmdOf (n : Nat) : Cmd :=
  { work := .azero 0, guard := .free, gnum := 0, fk := 0, seqno := 0, epc := 0, order := n, started := false, ksteps := 0, passed := 0,
    poison := false, strips := [] }
def matrixFull (s : State) : State := onLc s fun c => { c with matq := [cmdOf 0, cmdOf 1] }
def guardFalse (s : State) : State := { s with f := { s.f with guards := s.f.guards.set 1 .isFalse } }
theorem witness_EngineCommandInstructions_flag : Ready noMatrix ∧ noMatrix.f.region.isOpen = false ∧ NothingSent noMatrix ∧
    needsMatrix (.azero 0 1) ∧ noMatrix.job.matrix = false :=
  ⟨ready_of (by decide +kernel), by decide +kernel, by decide +kernel, trivial, by decide +kernel⟩
theorem test_azero_without_flag : faults (exec (.azero 0 1) noMatrix) noMatrix 0x01 0 0 = true := by decide +kernel
theorem witness_EngineCommandInstructions_matrix :
    let s := engines (0 ||| (64 <<< 5))
    Ready s ∧ s.job.matrix = true ∧
      (fld (s.sreg 3) 63 15 = 0 ∧ (s.me.tile 1).kind = 2 ∧ (s.me.tile 2).kind = 1 ∧
        slotAllows (fld (s.sreg 3) 4 0) (fld (s.sreg 3) 13 5) ((s.sreg 3).getLsbD 14) = true ∧
        imageBytes (fld (s.sreg 3) 4 0) (fld (s.sreg 3) 13 5) ((s.sreg 3).getLsbD 14) ≤ (s.me.tile 2).size) ∧
      (∃ w ok, matrixCommand s (.ofill 0 1 2 3) = some (0, w, ok)) ∧ (cmdQueue s s false).length < 2 ∧ falseHead s.me.matq = none ∧
      falseHead s.me.copyq = none ∧ (guardFalse s).f.guards.toList.getD 1 .isTrue = .isFalse ∧ (cmdQueue (matrixFull s) (matrixFull s) false).length = 2 ∧
      (drainBytes 1 ≠ 0 ∨ drainBytes 0 ≠ 0) :=
  ⟨ready_of (by decide +kernel), by decide +kernel, by decide +kernel, ⟨_, _, rfl⟩, by decide +kernel⟩
theorem test_ofill_enters : gives (exec (.ofill 0 1 2 3) (engines (64 <<< 5))) (fun t => noReg (engines (64 <<< 5)) t &&
    decide (t.me.matq.map (fun k => (k.work, k.guard)) = [(.ofill 1 2 0 64 false, .free)])) = true := by decide +kernel
theorem test_azero_full : gives (exec (.azero 0 1) (matrixFull (engines 0))) (fun t =>
    waitsFor (matrixFull (engines 0)) t (.need .matrixQueue)) = true := by decide +kernel
theorem test_azero_discarded : gives (exec (.azero 1 1) (guardFalse (engines 0))) (fun t => t.me.matq.isEmpty && t.f.gstat.getLsbD 1) = true := by
  decide +kernel
theorem test_mma_enters : gives (exec (.mma 0 1 1 3) (engines 1)) (fun t => decide (t.me.matq.map (fun k => k.work) = [.mma 1 1 1 0 false])) = true := by
  decide +kernel
/-- A mask block at scratchpad offset 0. -/
theorem witness_EngineCommandInstructions_mmask :
    let s := with3 0 0 0
    Ready s ∧ ((s.ownBytes (s.sreg 1).toNat 4 528).map fun e => (recNat e.1 516 4, recNat e.1 520 4, recNat e.1 524 4)).toOption = some (0, 0, 0) :=
  ⟨ready_of (by decide +kernel), by decide +kernel⟩
theorem witness_EngineCommandInstructions_slots :
    let s := engines 0
    let full := s.modOctave 0 fun o => { o with slots := (List.range 64).map fun n => (n, { OpSlot.unclaimed with owner := some 9 }) }
    let used := onLc s fun c => { c with tiles := [(1, { Tile.undefined with kind := 2, uses := 1 })] }
    s.myOctave = 0 ∧ (s.me.tile 1).kind = 2 ∧ (s.me.tile 3).kind = 0 ∧ (s.octave 0).claims = [] ∧ (s.octave 0).freeSlot = some 0 ∧
      (full.octave 0).freeSlot = none ∧ (s.me.tile 1).uses = 0 ∧ (s.me.tile 1).state ≠ 1 ∧ (used.me.tile 1).uses ≠ 0 := by decide +kernel
theorem test_oclaim : gives (exec (.oclaim 3 4) (engines 0)) (fun t => onlyReg (engines 0) t 4 0 &&
    decide (((t.octave 0).slots.map fun e => e.2.owner) = [some 0]) && decide ((t.me.tile 3).kind = 2)) = true := by decide +kernel
theorem test_orelease_pad : faults (exec (.orelease 2) (engines 0)) (engines 0) 0x0D 0 0 = true := by decide +kernel
theorem witness_EngineCommandInstructions_cpy :
    let s := with3 0x110000 0x100000 64
    let a := s.checkSide none .load [0] (s.sreg 2).toNat 64
    let t := (a.toOption.map fun e => e.2).getD s
    let u := ((t.checkSide none .store [0, 5] (s.sreg 1).toNat 64).toOption.map fun e => e.2).getD s
    Ready s ∧ fld (s.sreg 3) 63 41 = 0 ∧ fld (s.sreg 3) 23 0 ≠ 0 ∧ (s.sreg 3).getLsbD 40 = false ∧ (s.sreg 3).getLsbD 30 = false ∧
      (s.sreg 2).toNat + 64 ≤ (s.sreg 1).toNat ∧ a.isOk = true ∧ (t.checkSide none .store [0, 5] (s.sreg 1).toNat 64).isOk = true ∧
      (u.checkCounter (u.sreg (3 + 1))).isOk = true :=
  ⟨ready_of (by decide +kernel), by decide +kernel⟩
theorem test_cpy_zero_length : faults (exec (.cpy 0 1 2 3) (with3 0x110000 0x100000 0)) (with3 0x110000 0x100000 0) 0x0B 0 0 = true := by
  decide +kernel
theorem test_cpy_enters : gives (exec (.cpy 0 1 2 3) (with3 0x110000 0x100000 64)) (fun t => noReg (with3 0x110000 0x100000 64) t &&
    decide (t.me.copyq.map (fun k => match k.work with | .cpy _ _ n _ _ _ => n | _ => 0) = [64])) = true := by decide +kernel
theorem witness_EngineCommandInstructions_guards : boot.f.guards.toList.getD 1 .isTrue ≠ .unresolved ∧
    ({ boot.f with guards := boot.f.guards.set 1 .unresolved } : Firing).guards.toList.getD 1 .isTrue = .unresolved := by decide +kernel
theorem test_garm_gset : gives (exec (.garm 1) boot) (fun t => gives (exec (.gset 1 0) t) fun u =>
    decide (u.f.guards.toList.getD 1 .isTrue = .isFalse) && decide (u.f.pc = 0x20008)) = true := by decide +kernel
theorem test_gset_unarmed : faults (exec (.gset 1 0) boot) boot 0x17 0 0 = true := by decide +kernel
/-- A layout record of 16 elements of format 4 at 0x100000 in v2, rank 1. -/
def layoutWord : VWord :=
  BitVec.ofNat 4096 (0x100000 + 4 * 2 ^ 57 + 2 ^ 64 * (1 + 256) + 2 ^ 128 * 16 + 2 ^ 256 * (16 + 2 ^ 16 + 2 ^ 32 + 2 ^ 48))
def layingOut : State := (with3 0x110000 0 0).setVreg 2 layoutWord
theorem witness_EngineCommandInstructions_cpyt :
    let s := layingOut
    let q := s.layoutBytes false 2
    let bs := (q.toOption.map fun e => e.1).getD []
    let r := (q.toOption.map fun e => e.2).getD s
    let l := Layout.ofBytes bs
    let t := r.checkRanges .load [0] (l.runs ++ l.scaleRuns)
    let v := ((t.toOption.map fun e => e.2).getD s).checkSide none .store [0, 5] (s.sreg 1).toNat l.destBytes
    Ready s ∧ fld (s.sreg 3) 63 42 = 0 ∧ fld (s.sreg 3) 40 34 = 0 ∧ fld (s.sreg 3) 23 0 = 0 ∧ (s.sreg 3).getLsbD 41 = false ∧ q.isOk = true ∧
      layoutBad bs ((destTile s none).kind == 1) ((destTile s none).kind == 2 && (destTile s none).scaled) = false ∧ t.isOk = true ∧ v.isOk = true ∧
      (((v.toOption.map fun e => e.2).getD s).checkCounter 0).isOk = true :=
  ⟨ready_of (by decide +kernel), by decide +kernel⟩
theorem witness_EngineCommandInstructions_cpytField : ((with3 0 0 0).sreg 3).getLsbD 41 = false ∧ 31 < (32 : BitVec 6).toNat := by decide +kernel
theorem test_cpyt_field : faults (exec (.cpyt 0 1 32 3) (with3 0 0 0)) (with3 0 0 0) 0x02 0 0 = true := by decide +kernel
theorem test_cpyt_enters : gives (exec (.cpyt 0 1 2 3) layingOut) (fun t => decide (t.me.copyq.length = 1)) = true := by decide +kernel
/-- A tile of 4 by 4 bytes with a margin of 1, in a team of one on a grid of 1. -/
def haloing : State :=
  onLc (((teamed [me true false] 0 0).setSreg 2 7).setSreg 3 (4 ||| (4 <<< 16) ||| (1 <<< 32))
    |>.modContext 0 fun c => c.setTeam 7 { Team.empty with members := [me true false], grid := some (1, 1, false, false) })
    fun c => { c with tiles := [(1, { Tile.undefined with kind := 1, size := 64, fmt := 0 })] }
theorem witness_EngineCommandInstructions_halo :
    let s := haloing
    let w := s.sreg 3
    let x := s.me.tile 1
    let tm := (s.context s.ctxId).team (s.sreg 2).toNat
    Ready s ∧ fld w 63 48 = 0 ∧ fld w 45 45 = 0 ∧ fld w 44 36 ≤ 508 ∧ x.kind = 1 ∧ fld w 35 32 = 1 ∧ fld w 31 16 = 4 ∧ fld w 15 0 = 4 ∧
      packedBits x.fmt % 8 = 0 ∧ (4 + 2) * (4 + 2) * (packedBits x.fmt / 8) ≤ x.size ∧ (s.sreg 2).toNat ≤ 255 ∧
      (tm.members.any fun m => m.lc == s.myLc) = true ∧ tm.grid ≠ none ∧ s.haloMirror tm (fld w 44 36) = none :=
  ⟨ready_of (by decide +kernel), by decide +kernel⟩
theorem test_halo_enters : gives (exec (.halo 0 1 2 3) haloing) (fun t => decide (t.me.copyq.map (fun k => k.work) =
    [.halo 1 [] 0 0 1 4 4])) = true := by decide +kernel
/-- Text at 0x100000, a vocabulary at 0x110000, channel end 2 an out end, a state block at 0x120000 whose output of 64 bytes lies at 0x130000. -/
def texting : State :=
  let s := (channelled 0 false).setSreg 1 0x100000 |>.setSreg 2 0x110000 |>.setSreg 4 (8 ||| (2 <<< 26))
  { s with mem := { s.mem with home := Mem.write s.mem.home 0x120000 (leBytes 8 0x130000 ++ leBytes 4 64) } }
theorem witness_EngineCommandInstructions_tkn :
    let s := texting
    let w := s.sreg 4
    let t := s.checkText (s.sreg 1).toNat (fld w 23 0) (s.sreg 2).toNat
    Ready s ∧ fld w 63 33 = 0 ∧ fld w 31 30 = 0 ∧ fld w 25 24 = 0 ∧ (s.sreg 2).toNat % 64 = 0 ∧ fld w 23 0 ≠ 0 ∧
      s.channelBad (fld w 29 26) = false ∧ t.isOk = true ∧ (((t.toOption.map fun e => e.2.2).getD s).checkCounter 0).isOk = true :=
  ⟨ready_of (by decide +kernel), by decide +kernel⟩
theorem test_tkn_enters : gives (exec (.tkn 0 1 2 4) texting) (fun t => decide (t.me.copyq.length = 1)) = true := by decide +kernel
theorem witness_EngineCommandInstructions_dtkn :
    let s := (texting.setSreg 4 4).setSreg 5 0x120000
    let t := s.checkText (s.sreg 1).toNat 16 (s.sreg 2).toNat
    let u := ((t.toOption.map fun e => e.2.2).getD s).checkRange .store [] 0x120000 64
    let r := (u.toOption.map fun e => e.2).getD s
    let v := r.fetchBytes r.asker 0x120000 16
    Ready s ∧ fld (s.sreg 4) 63 18 = 0 ∧ (s.sreg 4).getLsbD 16 = false ∧ (s.sreg 1).toNat % 4 = 0 ∧ (s.sreg (4 + 1)).toNat % 64 = 0 ∧
      fld (s.sreg 4) 15 0 ≠ 0 ∧ t.isOk = true ∧ u.isOk = true ∧ ((v.toOption.map fun e => (recNat e.1 0 8, recNat e.1 8 4)) = some (0x130000, 64)) ∧
      (((v.toOption.map fun e => e.2).getD s).checkRange .store [0] 0x130000 64).isOk = true :=
  ⟨ready_of (by decide +kernel), by decide +kernel⟩
theorem test_dtkn_enters : gives (exec (.dtkn 0 1 2 4) ((texting.setSreg 4 4).setSreg 5 0x120000)) (fun t => decide (t.me.copyq.length = 1)) =
    true := by decide +kernel

/-! ## Steps of the matrix unit -/

/-- The event is about this unit and item, with this value. -/
def about (s : State) (unit item : Nat) (value : Word) : State := { s with subject := { Subject.none with unit := unit, item := item, value := value } }
def cmdW (w : Work) : Cmd := { cmdOf 0 with work := w }
/-- `engines` with these commands in the matrix queue. -/
def queued (ks : List Cmd) : State := onLc (engines 0) fun c => { c with matq := ks }
/-- The first command of the queue is on the path. -/
def pathing (ks : List Cmd) : State := (queued ks).modOctave 0 fun o => { o with path := some (0, 0) }
def ready (x : Tile) : Tile := { x with state := 2 }
/-- Tiles 1 and 2 are the slots 0 and 1 of int8 elements with 128 columns, all ready, of 1 and 2. -/
def slotted (fmt : Nat) (ks : List Cmd) : State :=
  (onLc (queued ks) fun c => { c with tiles := [(1, { Tile.undefined with kind := 2, size := 8704, state := 2 }),
    (2, { Tile.undefined with kind := 2, size := 8704, base := 1, state := 2 }),
    (3, ready { Tile.undefined with kind := 1 }), (4, ready { Tile.undefined with kind := 1 })] }).modOctave 0 fun o =>
    { o with slots := [(0, { OpSlot.unclaimed with fmt := some fmt, k := 128, data := 1 }),
      (1, { OpSlot.unclaimed with fmt := some 0, k := 128, data := 3 })] }
def filling : Cmd := cmdW (.ofill 1 2 0 64 false)
def draining : Cmd := cmdW (.adrain 2 4 1)
def mmaCmd (order prio : Nat) : Cmd := { cmdOf order with work := .mma (1 + 2 * order) (2 + 2 * order) order prio false }
def pads (s : State) : State := onLc s fun c => { c with tiles := [(1, { Tile.undefined with kind := 2, size := 8704 }),
  (2, ready { Tile.undefined with kind := 1, size := 16384 })] }
/-- The source tile of the ofill is poisoned. -/
def badSource : State := onLc (queued [filling]) fun c => { c with tiles := [(1, { Tile.undefined with kind := 2, size := 8704 }),
  (2, { ready { Tile.undefined with kind := 1, size := 16384 } with poison := true })] }
/-- The first mma runs, the second waits. -/
def arrayed (ks : List Cmd) : State := (slotted 0 ks).modOctave 0 fun o => { o with array := some (0, 0) }
theorem witness_MatrixUnitSteps_path :
    (pads (queued [filling])).pathNext 0 = some (0, filling) ∧ slotAllows 0 64 false = true ∧
      (queued [cmdW (.azero 1)]).pathNext 0 = some (0, cmdW (.azero 1)) ∧ (queued [cmdW (.mmask 5)]).pathNext 0 = some (0, cmdW (.mmask 5)) ∧
      (queued [draining]).pathNext 0 = some (0, draining) ∧ (queued [draining]).mem.poison = [] ∧
      (pathing [filling]).onPath 0 = some (0, filling) ∧ (pathing [draining]).onPath 0 = some (0, draining) ∧
      ((pads (queued [filling])).lc 0).tile 2 = ready { Tile.undefined with kind := 1, size := 16384 } ∧
      (badSource.pathNext 0 = some (0, filling) ∧ ((badSource.lc 0).tile 2).poison = true ∧ ((badSource.lc 0).tile 1).kind ≠ 0) := by decide +kernel
theorem test_ofill_poisoned : gives (exec .ofillStart badSource) (fun t => decide ((t.launch 0).ending = some 0x0A)) = true := by decide +kernel
theorem test_mmask_start : gives (exec .mmaskStart (queued [cmdW (.mmask 5)])) (fun t => decide ((t.lc 0).mask = 5) &&
    (t.lc 0).matq.isEmpty) = true := by decide +kernel
theorem test_ofill_completion : gives (exec .ofillCompletion (pathing [filling])) (fun t => decide (((t.lc 0).tile 1).state = 2) &&
    ((t.lc 0).tile 1).phase && (t.lc 0).matq.isEmpty) = true := by decide +kernel
theorem witness_MatrixUnitSteps_array :
    let s := slotted 0 [mmaCmd 0 0]
    (s.octave 0).array = none ∧ s.winner 0 = some (0, mmaCmd 0 0) ∧ s.mmaFault 0 (mmaCmd 0 0) = none ∧
      (slotted 6 [mmaCmd 0 0]).mmaFault 0 (mmaCmd 0 0) = some 0x0B ∧ (slotted 6 [mmaCmd 0 0]).winner 0 = some (0, mmaCmd 0 0) ∧
      integerPath (s.mmaSlots 0 1 2).1 (s.mmaSlots 0 1 2).2 = true := by decide +kernel
/-- One mask block replaces element (0, 0) by 7: mode 1, base 0, one row, no bit set. -/
def block : BitVec 4224 := BitVec.ofNat 4224 (7 * 2 ^ 4096 + 1 * 2 ^ 4128 + 1 * 2 ^ 4192)
theorem witness_MatrixUnitSteps_values :
    (let s := slotted 0 [mmaCmd 0 0]
     takesIntegers (s.mmaSlots 0 1 2).1 (s.mmaSlots 0 1 2).2 ∧ 64 * (mmaCmd 0 0).ksteps + 32 < (s.mmaSlots 0 1 2).1.k) ∧
    (let s := slotted 6 [mmaCmd 0 0]
     ¬ takesIntegers (s.mmaSlots 0 1 2).1 (s.mmaSlots 0 1 2).2) ∧ Beyond32 (2 ^ 31) ∧ masksElement block 0 0 ∧ ¬ masksElement 0 0 0 := by
  unfold takesIntegers Beyond32 masksElement
  decide +kernel
theorem test_mma_masked : accElem ((slotted 0 [mmaCmd 0 0]).modLc 0 (fun c => { c with mask := block }) |>.mmaStep 0
    { mmaCmd 0 0 with work := .mma 1 2 0 0 true, ksteps := 1 }) 0 0 0 0 = 7 := by decide +kernel
theorem test_mma_start : gives (exec .mmaStart (slotted 0 [mmaCmd 0 0])) (fun t => decide ((t.octave 0).array = some (0, 0)) &&
    decide ((t.lc 0).matq = [{ mmaCmd 0 0 with started := true }])) = true := by decide +kernel
def runningCmd : Cmd := { mmaCmd 0 0 with started := true }
theorem witness_MatrixUnitSteps_running :
    (arrayed [runningCmd]).running 0 = some (0, runningCmd) ∧ runningCmd.ksteps + 1 < (arrayed [runningCmd]).mmaLength 0 runningCmd ∧
      ((arrayed [runningCmd]).mmaStep 0 runningCmd).winner 0 = none ∧
      (∃ e, ((arrayed [runningCmd, mmaCmd 1 3]).mmaStep 0 runningCmd).winner 0 = some e ∧ runningCmd.effective < e.2.effective) ∧
      (arrayed [{ runningCmd with ksteps := 1 }]).running 0 = some (0, { runningCmd with ksteps := 1 }) ∧
      (arrayed [runningCmd]).mmaLength 0 runningCmd ≤ 1 + 1 :=
  ⟨by decide +kernel, by decide +kernel, by decide +kernel, ⟨(0, mmaCmd 1 3), by decide +kernel, by decide +kernel⟩, by decide +kernel,
    by decide +kernel⟩
theorem test_mma_overtaken : gives (exec .mmaKstepBoundary (arrayed [runningCmd, mmaCmd 1 3])) (fun t =>
    decide ((t.octave 0).array = some (0, 1))) = true := by decide +kernel
theorem test_mma_product : intBlock (List.replicate 31 0 ++ [-3]) (List.replicate 31 7 ++ [5]) 20 = (5, false) := by decide +kernel

/-! ## Steps of the streamers -/

def mapAt (va : Nat) : PageMap := { va := va, len := 64, pa := va, host := false }
def pageAt (va : Nat) : Place := .mem va [mapAt va]
def copying (d : Place) (ctr : Option Nat) : Cmd := cmdW (.cpy (pageAt 0x100000) d 64 (ctr.map mapAt) 0 false)
/-- The copy queue holds the command; queue 0 of streamer 0 holds it once, or that of its own streamer n times. -/
def requesting (k : Cmd) (n : Nat) : State :=
  let s := onLc (counting 0x0807060504030201 0 0) fun c => { c with copyq := [k] }
  s.modStreamer (if n = 1 then 0 else s.streamerOf 0 k.work) fun x => { x with queues := [List.replicate n (0, k), [], [], []] }
def streaming (k : Cmd) : State := { requesting k 1 with subject := Subject.none }
def finishing (k : Cmd) : State := (onLc boot fun c => { c with tiles :=
    [(1, { Tile.undefined with kind := 1, size := 128, expected := 128, arrived := 64, state := 1 })] }).modStreamer 0 fun x => { x with running := [(0, k)] }
def layoutCmd : Cmd := cmdW (.cpyt (Layout.ofBytes (leBytes 64 layoutWord.toNat)) [mapAt 0x100000] (pageAt 0x110000) none 0 false)
def haloCmd : Cmd := cmdW (.halo 1 [(1, 2)] 0 0 1 4 4)
def haloQueued : State :=
  ((haloing.modContext 0 fun c => c.setTeam 7 { Team.empty with members := [me true false, { other with x := 1 }], grid := some (2, 1, false, false) })
    |> fun s => onLc s fun c => { c with tiles := [(1, ready { Tile.undefined with kind := 1, size := 64, fmt := 0 })] }).modStreamer 0
      fun x => { x with queues := [[(0, haloCmd)], [], [], []] }
def aStrip : Strip := { lc := 0, side := 1, elem := 1, pitch := 6, row := 5, col := 1, rows := 1, cols := 4, data := [(1, false), (2, false), (3, false), (4, false)] }
theorem witness_StreamerSteps_send :
    let k := copying (pageAt 0x110000) none
    (requesting k 1).sendable 0 0 false = some k ∧ 32 ≤ (((requesting k 32).streamer ((requesting k 32).streamerOf 0 k.work)).queue 0).length ∧
      (requesting k 32).sendable 0 0 false = some k ∧ (((requesting k 1).streamer ((requesting k 1).streamerOf 0 k.work)).queue 0).length < 32 ∧
      0 < ((requesting k 1).streamer ((requesting k 1).streamerOf 0 k.work)).queues.length := by decide +kernel
theorem test_request_full : gives (exec .copyRequestSend (requesting (copying (pageAt 0x110000) none) 32)) (fun t =>
    decide (t.me.copyq.length = 1)) = true := by decide +kernel
theorem witness_StreamerSteps_start :
    let k := copying (pageAt 0x110000) none
    (streaming k).nextRequest 0 = some (0, (0, k)) ∧ k.work.isCpy = true ∧ (streaming k).mem.poison = [] ∧ 0x110000 + 64 ≤ 0x8000000000 ∧
      (streaming layoutCmd).nextRequest 0 = some (0, (0, layoutCmd)) ∧ layoutCmd.work.isCpyt = true ∧
      haloQueued.nextRequest 0 = some (0, (0, haloCmd)) ∧
      (let tm := (haloQueued.context (haloQueued.launch (launchOfLc 0)).ctx).team 7
       tm.member 0 = some (me true false) ∧ tm.receivers (me true false) ≠ []) := by decide +kernel
/-- A window of 17 elements over an extent of 16, and slot 0 as the destination of a copy. -/
def shortRecord : List Byte :=
  leBytes 96 (0x100000 + 2 ^ 64 * (1 + 256) + 2 ^ 96 * 0xAB + 2 ^ 128 * 16 + 2 ^ 256 * (17 + 2 ^ 16 + 2 ^ 32 + 2 ^ 48))
def shortCmd : Cmd := cmdW (.cpyt (Layout.ofBytes shortRecord) [mapAt 0x100000] (pageAt 0x110000) none 0 false)
def toSlot : State := onLc (streaming (copying (.tile 1 64) none)) fun c => { c with tiles := [(1, { Tile.undefined with kind := 2, size := 8704 })] }
theorem witness_StreamerSteps_places :
    LiesAt ((streaming (copying (pageAt 0x110000) none)).lc 0) (pageAt 0x100000) 64 0x100000 ∧
      LiesAt ((finishing (copying (.tile 1 64) none)).lc 0) (.tile 1 64) 64 (((finishing (copying (.tile 1 64) none)).lc 0).sharePA 64) ∧
      (pageAt 0x100000).tileOf = none ∧ (toSlot.nextRequest 0 = some (0, (0, copying (.tile 1 64) none)) ∧ ((toSlot.lc 0).tile 1).kind = 2 ∧
        (Tbl.get .unclaimed (toSlot.octave (octaveOf (toSlot.lc 0).pcore)).slots ((toSlot.lc 0).tile 1).base).poison = []) :=
  ⟨⟨rfl, by decide⟩, ⟨by decide +kernel, by decide +kernel, by decide +kernel⟩, rfl, by decide +kernel⟩
theorem witness_StreamerSteps_layout :
    let l := Layout.ofBytes shortRecord
    (streaming shortCmd).nextRequest 0 = some (0, (0, shortCmd)) ∧ layoutBad shortRecord (pageAt 0x110000).tileOf.isSome false = false ∧
      packedBits l.fmt = 8 ∧ l.destBytes = 64 ∧ 16 < l.winAt 0 ∧ 0 < l.winAt 1 ∧ 0 < l.winAt 2 ∧ 0 < l.winAt 3 ∧
      elementVA l 1 0 0 0 0 = some 0x100000 ∧ elementVA l 1 16 0 0 0 = none := by decide +kernel
theorem witness_StreamerSteps_held : HeldAt [mapAt 0x100000] 0x100000 1 0x100000 := ⟨mapAt 0x100000, rfl, by decide, rfl, rfl, by decide⟩
theorem witness_StreamerSteps_halo :
    let c := haloQueued.lc 0
    (4 + 2 * 1) * (4 + 2 * 1) * (packedBits (c.tile 1).fmt / 8) ≤ (c.tile 1).size ∧ c.sharePA (c.tile 1).base + (c.tile 1).size ≤ 0x7F0000000000 ∧
      [((1 : Nat), (2 : Nat))] ≠ [] := by decide +kernel
theorem test_cpyt_fills : gives (exec .cpytStart (streaming shortCmd)) (fun t => decide (Mem.read t.mem.home 0x110000 4 = [1, 2, 3, 4]) &&
    decide (Mem.get t.mem.home 0x110010 = 0xAB)) = true := by decide +kernel
theorem test_copy_moves : gives (exec .copyStart (streaming (copying (pageAt 0x110000) none))) (fun t =>
    decide (wordAt t 0x110000 = 0x0807060504030201)) = true := by decide +kernel
theorem test_halo_strips : gives (exec .haloStart haloQueued) (fun t =>
    decide (((t.streamer 0).running.map fun r => r.2.strips.map fun x => (x.lc, x.side, x.rows, x.cols)) = [[(1, 2, 4, 1)]])) = true := by decide +kernel
theorem witness_StreamerSteps_completion :
    (finishing (copying (.tile 1 64) none)).runningAt = some (0, copying (.tile 1 64) none) ∧
      copyOf (copying (.tile 1 64) none).work = some (.tile 1 64, 64, none) ∧
      (((finishing (copying (.tile 1 64) none)).lc 0).tile 1).arrived + 64 = (((finishing (copying (.tile 1 64) none)).lc 0).tile 1).expected ∧
      (((onLc (finishing (copying (.tile 1 64) none)) fun c => c.setTile 1 { c.tile 1 with arrived := 65 }).lc 0).tile 1).expected < 65 + 64 ∧
      (finishing (copying (pageAt 0x110000) (some 0x120000))).runningAt = some (0, copying (pageAt 0x110000) (some 0x120000)) ∧
      PlainPA (finishing (copying (pageAt 0x110000) (some 0x120000))) 0x120000 ∧
      (finishing { haloCmd with strips := [aStrip] }).runningAt = some (0, { haloCmd with strips := [aStrip] }) ∧
      [aStrip].find? (fun z => z.side = (about boot 0 0 1).subject.value.toNat) = some aStrip :=
  ⟨by decide +kernel, rfl, by decide +kernel, by decide +kernel, by decide +kernel, ⟨by decide, by decide +kernel, by decide +kernel⟩,
    by decide +kernel, by decide +kernel⟩
theorem witness_StreamerSteps_delivery :
    let s := about (finishing { haloCmd with strips := [aStrip] }) 0 0 1
    let y := (s.lc aStrip.lc).tile 1
    let at_ := (s.lc aStrip.lc).sharePA y.base
    y.kind = 1 ∧ (4 + 2 * 1) * aStrip.pitch * aStrip.elem ≤ y.size ∧ s.mem.poison = [] ∧ at_ + y.size ≤ 0x7F0000000000 ∧
      (at_ + y.size ≤ (s.lc 0).counterPA 1 ∨ (s.lc 0).counterPA 1 + 8 ≤ at_) ∧ aStrip.row + aStrip.rows ≤ 6 ∧ aStrip.col + aStrip.cols ≤ 6 ∧
      aStrip.data.length = aStrip.rows * aStrip.cols * aStrip.elem ∧ (∀ b ∈ aStrip.data, b.2 = false) := by decide +kernel
/-- A copy out of tile 1 runs. -/
def emptying : State := finishing (cmdW (.cpy (.tile 1 0) (pageAt 0x110000) 64 none 0 false))
theorem witness_StreamerSteps_emptied : emptying.runningAt = some (0, cmdW (.cpy (.tile 1 0) (pageAt 0x110000) 64 none 0 false)) ∧
    ((emptying.lc 0).tile 1).kind ≠ 0 := by decide +kernel
theorem witness_StreamerSteps_inMemory : Place.inMemory (pageAt 0x110000) := by
  intro p hp
  simp only [List.mem_singleton] at hp
  rw [hp]; rfl
theorem test_copy_ready : gives (exec .copyCompletion (finishing (copying (.tile 1 64) none))) (fun t =>
    decide (((t.lc 0).tile 1).state = 2) && ((t.lc 0).tile 1).phase && (t.streamer 0).running.isEmpty) = true := by decide +kernel
theorem test_copy_counts : gives (exec .copyCompletion (finishing (copying (pageAt 0x110000) (some 0x120000)))) (fun t =>
    decide (wordAt t 0x120000 = 1)) = true := by decide +kernel
theorem test_strip_counts : gives (exec .haloStripDelivery (about (finishing { haloCmd with strips := [aStrip] }) 0 0 1)) (fun t =>
    decide (wordAt t ((t.lc 0).counterPA 1) = 1) && decide (Mem.get t.mem.home ((t.lc 0).tilePA 1 31) = 1)) = true := by decide +kernel

/-! ## What the routers deliver -/

def net (s : State) (h : Net → Net) : State := { s with net := h s.net }
def aPut (ctr : Option Nat) : PendingPut :=
  { fk := 0, seqno := 0, launch := 0, ctx := 0, pcore := 0, parts := [{ pa := 0x100000, host := false, sc := false, data := [7, 8] }], ctr := ctr.map fun x => (x, false), far := false }
def aMsg (launch : Nat) : Msg :=
  { launch := launch, target := 0, tag := 5, dev := 0, sender := 0, ticket := 1, epoch := 0, first := 0, data := [9], status := none, from_ := some 0 }
/-- One item waits in the outbound buffer, its target not found full (or found so). -/
def outgoing (o : Out) (full : Bool) : State := onLc boot fun c => { c with outbound := [{ num := 0, what := o, full := full, decided := false }], outNext := 1 }
def bound (s : State) (depth : Nat) : State := onLc s fun c => { c with binds := [(5, 0x20040)], depths := [depth, depth, depth, depth] }
def parked (s : State) (n : Nat) : State := onLc s fun c => { c with park := List.replicate n (aMsg 0) }
theorem witness_DeliverySteps_put (ctr : Option Nat) : let s := net boot fun n => { n with puts := [aPut ctr] }
    s.net.puts[0]? = some (aPut ctr) ∧ (s.net.puts.take 0).any (fun q => q.ordered (aPut ctr)) = false ∧ isHbm 0x100000 = true ∧
      0x100000 % 64 + 2 ≤ 64 ∧ s.mem.poison = [] ∧ 0x100000 + 2 ≤ 0x110000 ∧ 0x110000 % 8 = 0 :=
  ⟨rfl, rfl, by decide +kernel, by decide, rfl, by decide, by decide⟩
theorem witness_DeliverySteps_put_order :
    let s := net boot fun n => { n with puts := [{ aPut none with fk := 1 }, aPut (some 0x110000)] }
    let y := { about s 1 0 0 with subject := { (about s 1 0 0).subject with yes := true } }
    s.net.puts[1]? = some (aPut (some 0x110000)) ∧ (s.net.puts.take 1).any (fun q => q.ordered (aPut (some 0x110000))) = false ∧
      (∀ q ∈ s.net.puts.take 1, q.fk ≠ (aPut none).fk) ∧ y.subject.yes = true ∧ (about s 1 0 0).subject.yes = false := by decide +kernel
theorem test_put_counts : gives (exec .putPerform (net boot fun n => { n with puts := [aPut (some 0x110000)] })) (fun t =>
    decide (wordAt t 0x110000 = 1) && decide (wordAt t 0x100000 = 0x0807)) = true := by decide +kernel
theorem test_put_answers : gives (exec .putPerform (net (answering 1) fun n => { n with puts := [{ aPut (some 0x100000) with parts := [] }] })) (fun t =>
    decide ((t.firing 1).st = .runnable) && t.me.trigs.isEmpty) = true := by decide +kernel
/-- The put that is performed follows one of its own firing to the word that it counts in, and one of another firing. -/
theorem witness_DeliverySteps_put_chain :
    let p := { aPut none with parts := [{ pa := 0x110000, host := false, sc := false, data := [1] }] }
    let s := about (net boot fun n => { n with puts := [aPut (some 0x110000), { aPut none with fk := 9 }, p] }) 2 0 0
    s.net.puts[2]? = some p ∧ PutsLeft (s.net.puts.take 2) [aPut (some 0x110000)] [{ aPut none with fk := 9 }] p true ∧
      PutsLeft (s.net.puts.take 1) [] [aPut (some 0x110000)] { p with parts := [{ pa := 0x120000, host := false, sc := false, data := [1] }] } false := by
  refine ⟨rfl, ⟨.cons _ (.refl _), by decide, by decide, ?_, ?_⟩, ⟨.refl _, by decide, by decide, ?_, fun q h => nomatch h⟩⟩
  · intro q h e
    rw [List.mem_singleton.mp h] at e
    exact absurd e (by decide)
  · intro q h
    have : q = aPut (some 0x110000) := by simpa using h.symm
    rw [this]
    exact .inl (by decide)
  · intro q h e
    have : q = aPut (some 0x110000) := List.mem_singleton.mp h
    rw [this]
    exact ⟨by decide, fun c => nomatch c⟩
theorem test_put_chain : gives (exec .putPerform (about (net boot fun n => { n with puts := [aPut (some 0x110000), { aPut none with fk := 9 },
      { aPut none with parts := [{ pa := 0x110000, host := false, sc := false, data := [5] }] }] }) 2 0 0)) (fun t =>
    decide (wordAt t 0x110000 = 5) && decide (wordAt t 0x100000 = 0x807) && decide (t.net.puts.map (fun p => p.fk) = [9])) = true := by decide +kernel
theorem witness_DeliverySteps_entries : NoEntries boot 0 ∧ (aPut (some 0x110000)).ctr ≠ none ∧ isDeviceReg 0x110000 = false := by decide +kernel
theorem witness_DeliverySteps_message :
    let s := outgoing (.msg (aMsg 0)) false
    (∃ o, (s.lc 0).deliverable 0 false = some o ∧ o.what = .msg (aMsg 0)) ∧
      (∃ o, ((outgoing (.msg (aMsg 5)) false).lc 0).deliverable 0 false = some o ∧ o.what = .msg (aMsg 5)) ∧ Tbl.find s.launches 5 = none ∧
      ((Tbl.find s.launches 0).map fun l => (l.ending, decide (0 < l.gridX * l.gridY), l.det)) = some (none, true, false) ∧
      Tbl.find ((bound s 4).lc 0).binds 5 = some 0x20040 ∧ ((bound s 4).lc 0).hasRoom 5 = true ∧ ((bound s 0).lc 0).hasRoom 5 = false ∧
      Tbl.find (s.lc 0).binds 5 = none ∧ ((parked s 7).lc 0).parkCount < 8 ∧ 8 ≤ ((parked s 8).lc 0).parkCount :=
  ⟨⟨{ num := 0, what := .msg (aMsg 0), full := false, decided := false }, by decide +kernel, rfl⟩,
    ⟨{ num := 0, what := .msg (aMsg 5), full := false, decided := false }, by decide +kernel, rfl⟩, by decide +kernel⟩
theorem test_message_accepted : gives (exec .messageArrival (bound (outgoing (.msg (aMsg 0)) false) 4)) (fun t =>
    decide ((t.lc 0).accepted = 1) && decide ((t.lc 0).arrivals.map (fun q => (q.pip.w0, fld q.pip.w2 15 0)) = [(0x20040, 0x501)])) = true := by
  decide +kernel
theorem test_message_refused : gives (exec .messageArrival (parked (outgoing (.msg (aMsg 0)) false) 8)) (fun t =>
    decide ((t.lc 0).refused = 1) && decide ((t.lc 0).park.length = 8)) = true := by decide +kernel
/-- In a deterministic launch a message of epoch `e` from core `from_` waits for core 0, whose window team is 7 and whose open window is 1. -/
def windowed (from_ : Nat) (e : BitVec 32) (h : LCore → LCore) : State :=
  onLc (det (teamed [me true false, other] 0 0)) fun c => h { c with
    team := some 7, window := 1, outNext := 1,
    outbound := [{ num := 0, what := .msg { aMsg 0 with from_ := some from_, epoch := e }, full := false, decided := false }] }
def inWindow (e : BitVec 32) (depth : Nat) : State := windowed 0 e fun c => { c with binds := [(5, 0x20040)], depths := [depth, depth, depth, depth] }
theorem witness_DeliverySteps_deterministic :
    let s := inWindow 1 4
    let k := { num := 0, what := Out.msg { aMsg 0 with from_ := some 0, epoch := 1 }, full := false, decided := false }
    ((s.lc 0).deliverable 0 false = some k) ∧ ((Tbl.find s.launches 0).map fun l => (l.ending, decide (0 < l.gridX * l.gridY), l.det, l.ctx)) =
        some (none, true, true, 0) ∧
      OfWindowTeam s 0 0 { aMsg 0 with from_ := some 0, epoch := 1 } ∧ ¬ OfWindowTeam s 0 0 { aMsg 0 with from_ := some 2 } ∧
      ¬ OfWindowTeam s 0 0 { aMsg 0 with from_ := none } ∧
      Tbl.find (s.lc 0).binds 5 = some 0x20040 ∧ (s.lc 0).hasRoom 5 = true ∧ ((inWindow 1 0).lc 0).hasRoom 5 = false ∧
      ForLater (s.lc 0) { aMsg 0 with epoch := 1 } ∧ ForLater (s.lc 0) { aMsg 0 with epoch := 0x80000001 } ∧ ¬ ForLater (s.lc 0) (aMsg 0) ∧
      Tbl.find ((windowed 0 1 id).lc 0).binds 5 = none ∧ ((windowed 0 1 id).lc 0).parkCount < 8 ∧ 8 ≤ ((parked (windowed 0 1 id) 8).lc 0).parkCount := by
  refine ⟨by decide +kernel, by decide +kernel, ⟨0, rfl, 7, by decide +kernel, me true false, by decide +kernel, rfl⟩, ?_, ?_,
    by decide +kernel, by decide +kernel, by decide +kernel, .inl (by decide +kernel), .inr (by decide +kernel), ?_, by decide +kernel, by decide +kernel,
    by decide +kernel⟩
  · rintro ⟨j, hj, n, hn, x, hx, hf⟩
    obtain rfl := Option.some.inj hj
    have h7 : n = 7 := Option.some.inj (hn.symm.trans (by decide +kernel))
    subst h7
    rw [show (((inWindow 1 4).context 0).team 7).members = [me true false, other] from by decide +kernel] at hx
    simp only [List.mem_cons, List.not_mem_nil, or_false] at hx
    rcases hx with rfl | rfl <;> exact absurd hf (by decide)
  · exact fun h => nomatch h.choose_spec.1
  · rintro (h | h) <;> exact absurd h (by decide +kernel)
theorem test_window_holds : gives (exec .messageArrival (inWindow 1 4)) (fun t => decide ((t.lc 0).heldMsgs.map (fun m => m.2) = [some 0]) &&
    (t.lc 0).arrivals.isEmpty && decide ((t.lc 0).accepted = 1)) = true := by decide +kernel
theorem test_window_late : gives (exec .messageArrival (inWindow 0 4)) (fun t => (t.lc 0).heldMsgs.isEmpty &&
    decide ((t.lc 0).arrivals.map (fun q => q.source) = [.message 0])) = true := by decide +kernel
theorem test_window_stranger : gives (exec .messageArrival (windowed 2 1 id)) (fun t => decide ((t.lc 0).accepted = 0) && (t.lc 0).park.isEmpty) = true := by
  decide +kernel
/-- A port's notice is no message of a member (R263). -/
theorem test_window_notice : gives (exec .messageArrival (onLc (windowed 0 1 id) fun c => { c with
    outbound := [{ num := 0, what := .msg { aMsg 0 with from_ := none, epoch := 1 }, full := false, decided := false }] })) (fun t =>
    decide ((t.lc 0).accepted = 0) && (t.lc 0).heldMsgs.isEmpty) = true := by decide +kernel
/-- Three arrivals are held for window 1, of senders 1, 0 and 0, the last two in the reverse of their tickets; a marker arrives from core 1. -/
def closing (markers : List (Nat × BitVec 32)) : State :=
  let m (sender : BitVec 16) (ticket : BitVec 32) : Msg := { aMsg 0 with sender := sender, ticket := ticket, epoch := 1, first := 0xFFFFFFFF }
  let s := windowed 0 1 fun c => { c with
    counted := [0, 1], markers := markers,
    heldMsgs := [(m 1 0, some 0), (m 0 0, some 1), (m 0 0xFFFFFFFF, some 2)] }
  net s fun n => { n with markers := [(0, 1, 1)] }
theorem witness_DeliverySteps_window :
    let s := closing [(0, 1)]
    s.net.markers[0]? = some (0, 1, 1) ∧ (Tbl.find s.lcores 0).isSome = true ∧ (s.lc 0).counted = [0, 1] ∧ (s.lc 0).window = 1 ∧ (s.lc 0).park = [] ∧
      (∀ m ∈ (s.lc 0).heldMsgs, m.2.isSome = true) ∧ (∀ x ∈ (s.lc 0).markers, x.2 = (s.lc 0).window) ∧
      (∀ k ∈ (s.lc 0).counted, k = 1 ∨ (k, (s.lc 0).window) ∈ (s.lc 0).markers) ∧
      (∃ k ∈ ((closing []).lc 0).counted, k ≠ 1 ∧ (k, ((closing []).lc 0).window) ∉ ((closing []).lc 0).markers) := by
  refine ⟨by decide +kernel, by decide +kernel, by decide +kernel, by decide +kernel, by decide +kernel, by decide +kernel, by decide +kernel,
    by decide +kernel, 0, by decide +kernel, by decide, by decide +kernel⟩
theorem test_window_closes : gives (exec .wcloseMarkerArrival (closing [(0, 1)])) (fun t => decide ((t.lc 0).window = 2) &&
    decide ((t.lc 0).arrivals.map (fun q => q.source) = [.message 2, .message 1, .message 0]) && (t.lc 0).heldMsgs.isEmpty) = true := by decide +kernel
theorem test_window_stays : gives (exec .wcloseMarkerArrival (closing [])) (fun t => decide ((t.lc 0).window = 1) &&
    (t.lc 0).arrivals.isEmpty && decide ((t.lc 0).heldMsgs.length = 3)) = true := by decide +kernel
def aStatus : StatusWrite := { ctx := 0, pa := 0x100008, host := false, value := 0x100000001, lc := 0, num := 0 }
theorem witness_DeliverySteps_status : let s := net boot fun n => { n with status := [aStatus] }
    s.net.status[0]? = some aStatus ∧ isHbm aStatus.pa = true ∧ aStatus.pa % 8 = 0 ∧ s.mem.poison = [] := by decide +kernel
theorem test_status_stored : gives (exec .sendStatusWrite (net boot fun n => { n with status := [aStatus] })) (fun t =>
    decide (wordAt t 0x100008 = 0x100000001)) = true := by decide +kernel
def aPip : QPip := { pip := { w0 := 0x20040, w1 := 1, w2 := 2, w3 := 0 }, source := .pinned, launch := 0, prio := 0, pass := 0, age := 0 }
def freePip : QPip := { aPip with source := .free }
def pinnedFull (s : State) : State := onLc s fun c => { c with pinned := List.replicate 64 aPip }
theorem witness_DeliverySteps_pip :
    ((outgoing (.pip aPip (some 0) 0) true).lc 0).deliverable 0 true = some { num := 0, what := .pip aPip (some 0) 0, full := true, decided := false } ∧
      ((outgoing (.pip aPip (some 0) 0) false).lc 0).deliverable 0 false =
        some { num := 0, what := .pip aPip (some 0) 0, full := false, decided := false } ∧
      64 ≤ ((pinnedFull boot).lc 0).pinned.length ∧ (boot.lc 0).pinned.length < 64 ∧
      ((outgoing (.pip freePip none 0) false).lc 0).deliverable 0 false =
        some { num := 0, what := .pip freePip none 0, full := false, decided := false } ∧ (boot.taskQueue 0).length < 4096 := by decide +kernel
theorem witness_DeliverySteps_full (l : List QPip) : ({ boot with tasks := [(0, l)] } : State).taskQueue 0 = l := rfl
theorem witness_DeliverySteps_length : 4096 ≤ (({ boot with tasks := [(0, List.replicate 4096 freePip)] } : State).taskQueue 0).length := by
  rw [witness_DeliverySteps_full, List.length_replicate]
theorem test_pip_enters : gives (exec .pipAccept (outgoing (.pip aPip (some 0) 0) false)) (fun t => decide ((t.lc 0).pinned = [aPip]) &&
    (t.lc 0).outbound.isEmpty) = true := by decide +kernel
theorem test_pip_full : gives (exec .pipAccept (pinnedFull (outgoing (.pip aPip (some 0) 0) false))) (fun t =>
    decide ((t.lc 0).outbound.map (fun o => o.full) = [true])) = true := by decide +kernel
theorem witness_DeliverySteps_marker : let s := net boot fun n => { n with markers := [(0, 3, 1)] }
    s.net.markers[0]? = some (0, 3, 1) ∧ (Tbl.find s.lcores 0).isSome = true ∧ (s.lc 0).counted = [] := by decide +kernel
theorem test_marker : gives (exec .wcloseMarkerArrival (net boot fun n => { n with markers := [(0, 3, 1)] })) (fun t =>
    decide ((t.lc 0).markers = [(3, 1)]) && t.net.markers.isEmpty) = true := by decide +kernel
def inEnd : ChanEnd := { isIn := true, ring := 0, logCap := 1, peer := 0, peerEnd := 3, moved := 3, freed := 2, held := false }
def chanState (h : Net → Net) : State := net (onLc boot fun c => { c with ends := [(2, inEnd)] }) h
def anEntry : ChanEntry := { fk := some 0, lc := 0, inEnd := 2, index := 3, data := 0xAB }
theorem witness_DeliverySteps_channel :
    (takeFirst (fun (e : ChanEntry) => (e.lc, e.inEnd)) (chanState fun n => { n with entries := [anEntry] }).net.entries 0 = some (anEntry, [])) ∧
      Tbl.find ((chanState id).lc 0).ends 2 = some inEnd ∧ (chanState id).mem.poison = [] ∧
      ((chanState id).lc 0).sharePA (0 + 64 * (3 % 2 ^ 1)) + 64 ≤ ((chanState id).lc 0).counterPA (496 + 2) ∧
      takeFirst (fun (e : Nat × Nat × Nat) => (e.1, e.2.1)) (chanState fun n => { n with spaces := [(0, 2, 9)] }).net.spaces 0 = some ((0, 2, 9), []) := by
  decide +kernel
theorem test_channel_entry : gives (exec .channelEntryArrival (chanState fun n => { n with entries := [anEntry] })) (fun t =>
    decide (wordAt t ((t.lc 0).sharePA 64) = 0xAB) && decide (wordAt t ((t.lc 0).counterPA 498) = 4)) = true := by decide +kernel
theorem test_space_update : gives (exec .spaceUpdateArrival (chanState fun n => { n with spaces := [(0, 2, 9)] })) (fun t =>
    decide ((Tbl.find (t.lc 0).ends 2).map (fun e => e.freed) = some 9)) = true := by decide +kernel
/-- R268: entry 3 of in end 2, of the issuing firing, is on its way; a release has it enter its ring. -/
theorem witness_FencesAndFlushes_entries :
    let s := chanState fun n => { n with entries := [anEntry] }
    Ready s ∧ s.f.region.isOpen = false ∧ ownPuts s = [] ∧ s.mem.poison = [] ∧ s.net.entries = [] ++ anEntry :: [] ∧ anEntry.fk = some s.f.key ∧
      Tbl.find (s.lc anEntry.lc).ends anEntry.inEnd = some inEnd ∧
      (s.lc 0).sharePA (inEnd.ring + 64 * (anEntry.index % 2 ^ inEnd.logCap)) + 64 ≤ (s.lc 0).counterPA (496 + 2) ∧ ¬ NoEntries s s.f.key :=
  ⟨ready_of (by decide +kernel), by decide +kernel⟩
theorem test_fence_enters : gives (exec (.fence 1) (chanState fun n => { n with entries := [anEntry] })) (fun t =>
    decide (wordAt t ((t.lc 0).sharePA 64) = 0xAB) && decide (wordAt t ((t.lc 0).counterPA 498) = 4) && t.net.entries.isEmpty) = true := by
  decide +kernel
theorem test_counted_put_enters : gives (exec .putPerform (chanState fun n => { n with entries := [anEntry], puts := [aPut (some 0x110000)] })) (fun t =>
    decide (wordAt t ((t.lc 0).sharePA 64) = 0xAB) && t.net.entries.isEmpty) = true := by decide +kernel
def aComb (isMax : Bool) (v : Word) : Combine :=
  { launch := 0, root := 0, x := 8, isMax := isMax, group := 0, n := 2, value := v, count := 1, far := false, router := 0, moved := false, entry := true }
theorem witness_DeliverySteps_combine :
    let s := about (net boot fun n => { n with combs := [aComb true 5, aComb true 6] }) 0 1 0
    let r := onLc s fun c => { c with combs := [aComb true 4] }
    s.subject.yes = false ∧ s.subject.unit < s.subject.item ∧ s.net.combs[0]? = some (aComb true 5) ∧ s.net.combs[1]? = some (aComb true 6) ∧
      (aComb true 5).sameKey (aComb true 6) = true ∧ (aComb true 5).router = (aComb true 6).router ∧ (aComb true 5).entry = true ∧
      (s.lc 0).combs.length < 16 ∧ (aComb true 5).router / 12 = routerOf (s.lc 0).pcore / 12 ∧
      ((r.lc 0).combs.find? fun e => e.sameKey (aComb true 5)) = some (aComb true 4) ∧ s.mem.poison = [] := by decide +kernel
theorem witness_DeliverySteps_merged : MergedInto [] (aComb true 5) (aComb true 5) ∧ (aComb true 5).count < (aComb true 5).n ∧
    MergedInto [aComb false 4] (aComb false 5) { aComb false 9 with count := 2 } ∧ (aComb false 9).n ≤ 2 :=
  ⟨.inl ⟨rfl, rfl⟩, by decide, .inr ⟨aComb false 4, 9, by decide, by simp [Combined, aComb], rfl⟩, by decide⟩
/-- Two packets of one team, or of one combine, wait at port 3 in its entries. -/
def meeting (a b : RanvikPacket) : State :=
  let o (p : RanvikPacket) : OutFlit := { port := 3, flit := { Flit.zero with dst := 9, packet := p }, entry := true }
  { (net boot fun n => { n with flits := [o a, o b] }) with subject := { Subject.none with unit := 0, item := 1, yes := true } }
theorem witness_DeliverySteps_flits :
    let s := meeting (.barrierArrival 5 1 [2]) (.barrierArrival 5 1 [3])
    let r := meeting (.combine 5 0 8 false 2 3 1 1) (.combine 5 0 8 false 2 3 4 1)
    s.subject.yes = true ∧ s.subject.unit < s.subject.item ∧ (s.net.flits.map fun f => (f.port, f.entry, f.flit.dst)) = [(3, true, 9), (3, true, 9)] ∧
      (r.net.flits.map fun f => f.flit.packet) = [.combine 5 0 8 false 2 3 1 1, .combine 5 0 8 false 2 3 4 1] := by decide +kernel
theorem witness_DeliverySteps_apart : ({ aComb true 5 with entry := false }).entry = false ∧ (aComb true 5).sameKey (aComb false 5) = false ∧
    (aComb true 5).router ≠ ({ aComb true 5 with router := 1 } : Combine).router ∧
    ({ aComb true 5 with router := 1 } : Combine).router ≠ routerOf (boot.lc 0).pcore ∧ (aComb true 5).router = routerOf (boot.lc 0).pcore := by decide +kernel
/-- A packet that found no entry meets a later one that has one: both pass on (R355). -/
theorem test_combine_apart : gives (exec .combineRouterMerge (about (net boot fun n => { n with combs := [{ aComb true 5 with entry := false }, aComb true 6] }) 0 1 0))
    (fun t => decide (t.net.combs.map (fun p => p.value) = [5, 6])) = true := by decide +kernel
theorem test_flits_merge : gives (exec .combineRouterMerge (meeting (.barrierArrival 5 1 [2]) (.barrierArrival 5 1 [3]))) (fun t =>
    decide ((t.net.flits.map fun f => f.flit.packet) = [.barrierArrival 5 1 [2, 3]])) = true := by decide +kernel
theorem test_combine_merges : gives (exec .combineRouterMerge (about (net boot fun n => { n with combs := [aComb false 5, aComb false 6] }) 0 1 0))
    (fun t => decide (t.net.combs.map (fun p => (p.value, p.count)) = [(11, 2)])) = true := by decide +kernel
theorem test_combine_root : gives (exec .combineRootArrival (onLc (net boot fun n => { n with combs := [aComb true (-1)] }) fun c =>
    { c with combs := [aComb true 4] })) (fun t => decide (wordAt t ((t.lc 0).counterPA 8) = 4) && decide (wordAt t ((t.lc 0).counterPA 9) = 1)) =
    true := by decide +kernel

/-! ## Scheduling and the text engines -/

/-- Core 0 with an empty slot and this pip in the queue of class 4. -/
def dispatching (q : QPip) : State := { onLc boot fun c => { c with pinned := [q] } with f := .idle 0, pcores := [] }
def entryPip : QPip := { aPip with source := .entry }
def resuming : State := { onLc boot fun c => { c with resume := [0] } with f := { boot.f with st := .runnable } }
theorem witness_SchedulingAndTextSteps_dispatch :
    let s := dispatching entryPip
    s.nextItem 0 = some (0, 4, entryPip, 0) ∧ s.freeContext 0 = some 0 ∧ (s.pcore 0).halted = false ∧ s.nextResume 0 = none ∧
      (s.pcore 0).slot0 = { resident := none, busy := false } ∧ (s.pcore 0).slot1.resident ≠ some (2 * 0 + 0) ∧ (s.firing (2 * 0 + 0)).away = false ∧
      resuming.nextResume 0 = some 0 ∧ (resuming.firing 0).slot ≠ none ∧ (resuming.pcore 0).halted = false ∧
      fld (resuming.firing 0).regstat 2 0 ≠ 2 := by decide +kernel
theorem witness_SchedulingAndTextSteps_source (m : Nat) : entryPip.source ≠ .yielded m := by simp [entryPip]
theorem test_dispatch : gives (exec .dispatch (dispatching entryPip)) (fun t => decide (t.f.st = .running) && decide (t.f.pc = 0x20040) &&
    decide (t.f.sreg 1 = 1) && decide (t.f.sreg 2 = 2) && decide (t.f.sreg 4 = (t.launch 0).paramVA) && decide ((t.lc 0).pinned = [])) = true := by
  decide +kernel
theorem test_resumption : gives (exec .resumption resuming) (fun t => decide (t.f.st = .running) && decide ((t.lc 0).resume = [])) = true := by
  decide +kernel
/-- A runnable firing that gave up its slot: it takes slot 0, which is empty, or slot 1, where it is still resident. -/
def returning (k : Nat) : State :=
  { onLc boot fun c => { c with resume := [0] } with
    f := { boot.f with st := .runnable, slot := none },
    pcores := if k = 0 then [] else [(0, { PCore.fresh with slot0 := { resident := some 9, busy := true }, slot1 := { resident := some 0, busy := false } })] }
theorem witness_SchedulingAndTextSteps_slot : ∀ k, k < 2 → (returning k).nextResume 0 = some 0 ∧ ((returning k).firing 0).slot = none ∧
    ((returning k).firing 0).away = false ∧ ((returning k).pcore 0).halted = false ∧ fld ((returning k).firing 0).regstat 2 0 ≠ 2 ∧
    TakesSlot ((returning k).pcore 0) 0 k := by
  unfold TakesSlot
  decide +kernel
theorem test_resumption_slot : gives (exec .resumption (returning 1)) (fun t => decide (t.f.st = .running) && decide (t.f.slot = some 1) &&
    decide ((t.pcore 0).slot1 = { resident := some 0, busy := true })) = true := by decide +kernel
/-- These pips wait in class 4; with one in class 5. -/
def choosing (qs : List QPip) : State := { dispatching aPip with lcores := [(0, { (dispatching aPip).lc 0 with pinned := qs })], tasks := [(0, [freePip])] }
theorem witness_SchedulingAndTextSteps_choice :
    let s := choosing [aPip, { aPip with prio := 2 }]
    s.nextItem 0 = some (0, 4, { aPip with prio := 2 }, 1) ∧ 0 ∈ s.hosted 0 ∧ MayTake s 0 4 0 aPip ∧ MayTake s 0 5 0 freePip ∧
      (∃ c, (0, c) ∈ s.lcores ∧ c.pcore = 0 ∧ (s.launch (0 / 65536)).ending = none) ∧
      boot.nextItem 0 = none := by
  refine ⟨by decide +kernel, by decide +kernel, ⟨by decide +kernel, .inl ⟨0, by decide, by decide +kernel⟩, fun h => nomatch h⟩,
    ⟨by decide +kernel, .inl ⟨0, by decide, by decide +kernel⟩, fun _ => by decide +kernel⟩,
    ⟨_, List.mem_singleton.mpr rfl, by decide +kernel, by decide +kernel⟩, by decide +kernel⟩
/-- An aged item goes before a class, the class before a priority, the priority before the arrival. -/
theorem test_item_order : (choosing [aPip, { aPip with age := 1024 }]).nextItem 0 = some (0, 4, { aPip with age := 1024 }, 1) ∧
    (choosing [aPip, aPip]).nextItem 0 = some (0, 4, aPip, 0) ∧
    ({ choosing [aPip] with tasks := [(0, [{ freePip with age := 1024 }])] } : State).nextItem 0 = some (0, 5, { freePip with age := 1024 }, 0) ∧
    (choosing []).nextItem 0 = some (0, 5, freePip, 0) := by decide +kernel
/-- The next instruction is add s9, s10, s11. -/
def limited (yleft : BitVec 21) (isOpen : Bool) : State :=
  let s := boot.withFetchWord 32 0x00594481
  { s with f := { s.f with yleft := yleft, region := { s.f.region with isOpen := isOpen, retired := 4096 } } }
theorem fetches {s : State} {i : Instr} (h : s.fetch.1 = .ok i) : ∃ u, s.fetch = (.ok i, u) := ⟨_, Prod.ext h rfl⟩
theorem witness_SchedulingAndTextSteps_limit :
    (limited 0 false).canIssue (limited 0 false).f = true ∧ (∃ u, (limited 0 false).fetch = (.ok (.add 9 10 11), u)) ∧
      (limited 0 false).f.refuses (.add 9 10 11) = false ∧ Machine.Instr.endsRun (.add 9 10 11) = false ∧
      (∃ u, (limited 5 true).fetch = (.ok (.add 9 10 11), u)) ∧ Machine.Instr.closesRegion (.add 9 10 11) = false ∧
      ((limited 5 true).fetch).2.f.region.isOpen = true ∧ 4096 ≤ ((limited 5 true).fetch).2.f.region.retired ∧
      ((limited 0 false).fetch).2.f.yleft = 0 ∧ ((limited 5 true).fetch).2.f.yleft ≠ 0 :=
  ⟨by decide +kernel, fetches (by decide +kernel), by decide +kernel, by decide, fetches (by decide +kernel), by decide,
    by decide +kernel, by decide +kernel, by decide +kernel, by decide +kernel⟩
theorem test_deadline : gives (exec .yieldDeadlineOverrun (limited 0 false)) (fun t => decide (t.f.cause = 0x10)) = true := by decide +kernel
theorem test_limit : gives (exec .regionInstructionLimit (limited 5 true)) (fun t => decide (t.f.cause = 0x0E)) = true := by decide +kernel
/-- The firing waits for space in out end 2, whose consumer is itself. -/
def stuck : State :=
  let s := channelled 2 false
  { s with f := { s.f with st := .waiting, wait := .need (.channelSpace 2), waited := 65536 } }
def aProbe : Probe := { dev := 0, lcore := 0, ctxno := 0, fk := some 0, target := 0, waitNo := 0, edge := .wait 0 0 }
theorem witness_SchedulingAndTextSteps_probe :
    let s := net stuck fun n => { n with probes := [aProbe] }
    (s.firing 0).st = .waiting ∧ 65536 * ((s.firing 0).probes + 1) ≤ (s.firing 0).waited ∧ s.edges (s.firing 0) ≠ [] ∧
      s.net.probes[0]? = some (aProbe) ∧ (0 : Nat) ∉ boot.edges (boot.firing 0) ∧ (s.lc 0).index = 0 ∧ s.pkg.device = 0 ∧
      (s.firing 0).region.isOpen = false ∧ ((Tbl.find s.launches (0 / 65536)).map fun l => l.ending) = some none ∧ s.pkg.power = .active := by
  decide +kernel
/-- The firing waits in the barrier of a team of two; or on the space mirror of its out end 2. -/
def waitingAt (w : Wait) : State :=
  let s := teamed [me true true, other] 1 0
  let t := onLc s fun c => { c with ends := [(2, { isIn := false, peer := 0, peerEnd := 3, ring := 0, logCap := 1, moved := 2, freed := 0, held := false })] }
  { t with f := { t.f with st := .waiting, wait := w } }
theorem witness_SchedulingAndTextSteps_edges :
    (waitingAt (.barrier 7 0)).edges (waitingAt (.barrier 7 0)).f = [1] ∧ (stuck.edges stuck.f = [0]) ∧
      (let w : Wait := .counter (boot.me.counterPA 482) 0 1 0
       (waitingAt w).edges (waitingAt w).f = [0]) ∧
      ((net stuck fun n => { n with probes := [{ aProbe with waitNo := 5 }] }).firing 0).waitNo ≠ 5 := by decide +kernel
/-- A probe reaches core 0 along an edge of a wait that is over, one that leads elsewhere, or one into a team that has released since. -/
def probed (target : Nat) (e : ProbeEdge) : State := net stuck fun n => { n with probes := [{ aProbe with target := target, edge := e }] }
theorem witness_SchedulingAndTextSteps_probe_edges :
    ((probed 0 (.wait 0 5)).firing 0).waitNo ≠ 5 ∧ (7 ∉ (probed 7 (.wait 0 0)).edges ((probed 7 (.wait 0 0)).firing 0)) ∧
      (((probed 0 (.team 0 7 3)).context 0).team 7).rounds ≠ 3 ∧
      (let s := waitingAt (.barrier 7 0)
       ∀ x ∈ ((s.context 0).team 7).members, x.lc = 0 → x.arrived = true) ∧
      (∀ j, j < 2 → ((probed 0 (.wait 0 0)).firing (2 * 0 + j)).waitNo ≠ 1) ∧ 0 ∈ (probed 0 (.wait 0 0)).edges ((probed 0 (.wait 0 0)).firing 0) := by
  decide +kernel
theorem test_probe_dropped : gives (exec .deadlockProbeReceive (probed 0 (.wait 0 5))) (fun t => t.net.probes.isEmpty &&
    decide ((t.launch 0).ending = none) && gives (exec .deadlockProbeReceive (probed 0 (.team 0 7 3))) fun u => decide ((u.launch 0).ending = none)) = true := by
  decide +kernel
theorem test_probe_send : gives (exec .deadlockProbeSend stuck) (fun t => decide (t.net.probes = [aProbe]) && decide (t.f.probes = 1)) =
    true := by decide +kernel
theorem test_probe_back : gives (exec .deadlockProbeReceive (net stuck fun n => { n with probes := [aProbe] })) (fun t =>
    decide ((Tbl.find t.launches 0).map (fun l => l.ending) = some (some 0x11))) = true := by decide +kernel
theorem test_clock : gives (exec .arithmeticClockCycle stuck) (fun t => decide (t.cycle = 1) && decide (t.f.waited = 65537)) = true := by
  decide +kernel
/-- A vocabulary at 0x110000: 256 tokens, 16 empty buckets, one class range, its end token 200; token 0 is one byte of value 65. -/
def vocabBytes : List Byte :=
  leBytes 4 0x56434B4B ++ leBytes 4 1 ++ leBytes 4 256 ++ leBytes 4 4 ++ leBytes 4 1 ++ leBytes 4 0 ++ leBytes 4 200 ++ leBytes 4 0 ++
    leBytes 8 72 ++ leBytes 8 72 ++ leBytes 8 64 ++ leBytes 8 64 ++ leBytes 8 0 ++ leBytes 8 100 ++ leBytes 20 0 ++ leBytes 1 65
def headSpots : List Spot := [spot 0x110000 64, spot 0x110040 16]
def tknCmd : Cmd := cmdW (.tkn 0x100000 [mapAt 0x100000] 1 0x110000 headSpots false 2 none)
def dtknCmd : Cmd := cmdW (.dtkn 0x100000 [mapAt 0x100000] 1 0x110000 headSpots false 0x120000 0x130000 64 [mapAt 0x120000] [mapAt 0x130000])
/-- Texts at engine 0: the command waits at a core and at its engine; the image is there, or it is not. -/
def texts (k : Cmd) (n : Nat) (image : Bool) : State :=
  let s := onLc (channelled 0 false) fun c => { c with copyq := [k] }
  let s : State := if image then { s with mem := { s.mem with home := Mem.write s.mem.home 0x110000 vocabBytes } } else s
  { s with tokenisers := [(0, { TextEngine.fresh with queue := List.replicate n (0, k) })],
           detokenisers := [(0, { TextEngine.fresh with queue := List.replicate n (0, k) })] }
def writing (n : Nat) : State :=
  let s := onLc boot fun c => { c with ends := [(2, { isIn := false, peer := 1, peerEnd := 3, ring := 0, logCap := 1, moved := 0, freed := 0, held := true })] }
  { s with tokenisers := [(0, { TextEngine.fresh with running := some (0, tknCmd), ids := List.replicate n 9 })] }
def succeeds {α : Type} (r : Except Code α) : Option Code := match r with | .ok _ => none | .error e => some e
theorem witness_SchedulingAndTextSteps_text :
    (texts tknCmd 1 true).sendable 0 0 true = some tknCmd ∧ (texts tknCmd 32 true).sendable 0 0 true = some tknCmd ∧
      32 ≤ ((texts tknCmd 32 true).textEngine true ((texts tknCmd 32 true).textEngineOf 0)).queue.length ∧
      ((texts tknCmd 1 true).textEngine true ((texts tknCmd 1 true).textEngineOf 0)).queue.length < 32 ∧
      ((texts tknCmd 1 true).textEngine true 0).queue.head? = some (0, tknCmd) ∧ ((texts tknCmd 1 true).textEngine true 0).running = none ∧
      ((texts tknCmd 1 true).lc 0).endHeld 2 = false ∧
      (let u := (texts tknCmd 1 true).modText true 0 fun x => { x with queue := x.queue.drop 1 }
       let b := u.readPages [mapAt 0x100000] 0x100000 1
       (succeeds ((tokenise ((u.fillPages [mapAt 0x100000]).engineAsker 0) 0x110000 headSpots false (b.map fun e => if e.2 then 0 else e.1.toNat)).run
         (u.fillPages [mapAt 0x100000])) = none)) ∧
      (let u := (texts tknCmd 1 false).modText true 0 fun x => { x with queue := x.queue.drop 1 }
       let b := u.readPages [mapAt 0x100000] 0x100000 1
       (succeeds ((tokenise ((u.fillPages [mapAt 0x100000]).engineAsker 0) 0x110000 headSpots false (b.map fun e => if e.2 then 0 else e.1.toNat)).run
         (u.fillPages [mapAt 0x100000])) = some 0x0B)) := by decide +kernel
theorem witness_SchedulingAndTextSteps_write :
    ((writing 16).textEngine true 0).running = some (0, tknCmd) ∧ ((Tbl.find ((writing 16).lc 0).ends 2).map fun e =>
      (decide (e.moved - e.freed < 2 ^ e.logCap), e.peer, e.peerEnd)) = some (true, 1, 3) ∧ (writing 16).net.entries = [] ∧
      15 < ((writing 16).textEngine true 0).ids.length ∧ ((writing 15).textEngine true 0).ids.length ≤ 15 ∧ 0 / 65536 * 65536 + 1 ≠ 0 := by
  decide +kernel
theorem witness_SchedulingAndTextSteps_dtkn :
    ((texts dtknCmd 1 true).textEngine false 0).queue.head? = some (0, dtknCmd) ∧ dtknCmd.work.isTkn = false ∧
      ((texts dtknCmd 1 true).textEngine false 0).running = none ∧
      succeeds ((dtknRun 0 dtknCmd).run ((texts dtknCmd 1 true).modText false 0 fun x => { x with queue := x.queue.drop 1 })) = none ∧
      succeeds ((dtknRun 0 dtknCmd).run ((texts dtknCmd 1 false).modText false 0 fun x => { x with queue := x.queue.drop 1 })) = some 0x0B := by
  decide +kernel
theorem test_text_accept : gives (exec .textCommandAccept (about (texts tknCmd 1 true) 0 0 0)) (fun t => decide (t.me.copyq = []) &&
    decide ((t.textEngine true (t.textEngineOf 0)).queue.length = 2)) = true := by decide +kernel
theorem test_tkn_ids : gives (exec .tknStart (texts tknCmd 1 true)) (fun t => decide ((t.textEngine true 0).ids = [0])) = true := by decide +kernel
theorem test_tkn_entry : gives (exec .tknEntryWrite (writing 15)) (fun t => decide ((t.textEngine true 0).running = none) &&
    decide ((t.net.entries.map fun e => (e.lc, e.inEnd)) = [])) = true := by decide +kernel
theorem test_dtkn_text : gives (exec .dtknStart (texts dtknCmd 1 true)) (fun t => decide (Mem.get t.mem.home 0x130000 = 65) &&
    decide (Mem.get t.mem.home 0x12000C = 1)) = true := by decide +kernel

/-! ## The launch unit -/

/-- The bytes of a record: header, completion word, remap table, a grid of one. -/
def recordBytes : List Byte :=
  leBytes 8 0x141000 ++ leBytes 8 0 ++ leBytes 8 0x142000 ++ leBytes 8 0x143000 ++ leBytes 4 1 ++ leBytes 4 1 ++ leBytes 8 0 ++ leBytes 8 9 ++
    leBytes 72 0
def headerBytes : List Byte :=
  leBytes 4 0x3953574B ++ leBytes 2 1 ++ leBytes 2 0 ++ leBytes 8 0x20000 ++ leBytes 4 64 ++ leBytes 4 8 ++ leBytes 4 0 ++ leBytes 4 100 ++
    leBytes 96 0
/-- A record waits in queue 0 of context 0, whose ring is at `base`; it places its logical core on core 1; its header is there or not. -/
def launching (base : Word) (header : Bool) : State :=
  let s := boot.modContext 0 fun c => { c with queues := [(0, { LQueue.fresh with base := base, tail := 1 })] }
  let m := Mem.write (Mem.write s.mem.home 0x140000 recordBytes) 0x143000 (leBytes 4 1)
  { s with mem := { s.mem with home := if header then Mem.write m 0x141000 headerBytes else m } }
def aRec : Rec := Rec.ofBytes recordBytes
theorem witness_LaunchUnitSteps_start :
    (launching 0x400000000000 false).nextHead = some (0, 0, .error 0x400000000000) ∧
      (launching 0x400000000000 false).eligible = [(0, 0, .error 0x400000000000)] ∧
      (launching 0x140000 true).nextHead = some (0, 0, .ok aRec) ∧ (launching 0x140000 true).eligible = [(0, 0, .ok aRec)] ∧ aRec.compl % 8 = 0 ∧
      (let w : State := { launching 0x140000 true with lastStart := 1 }
       let x : State := { launching 0x140000 false with lastStart := 1 }
       (w.unitLocate 0 true (pieces aRec.compl 8)).toOption.isSome = true ∧ (x.unitLocate 0 true (pieces aRec.compl 8)).toOption.isSome = true ∧
         ((w.checkRecord 0 aRec).toOption.map fun p => (p.patches, p.header.code)) = some ([], 0x20000) ∧
         (x.checkRecord 0 aRec).toOption = none) := by decide +kernel
/-- Records wait in queues 0 and 1 of context 0; the second head has been raised by `n`, and the first one passed over `pass` times. -/
def twoHeads (n pass last : Nat) : State :=
  { (launching 0x140000 true).modContext 0 fun c => { c with queues :=
      [(0, { LQueue.fresh with base := 0x140000, tail := 1, pass := pass }), (1, { LQueue.fresh with base := 0x140000, tail := 1, raised := n })] } with
    lastStart := last }
theorem witness_LaunchUnitSteps_choice :
    (twoHeads 1 255 0).eligible = [(0, 0, .ok aRec), (0, 1, .ok aRec)] ∧ (twoHeads 1 255 0).nextHead = some (0, 1, .ok aRec) ∧
      (twoHeads 1 255 0).contexts.map (fun e => e.1) = [0] ∧ [0].Nodup ∧ (twoHeads 0 0 0).nextHead = some (0, 0, .ok aRec) ∧
      (twoHeads 0 0 1).nextHead = some (0, 1, .ok aRec) ∧ (twoHeads 0 0 2).nextHead = some (0, 0, .ok aRec) ∧ (twoHeads 0 0 1024).lastStart ≤ 1024 ∧
      (twoHeads 1 255 0).headClass (0, 1, .ok aRec) = 1 ∧ boot.nextHead = none :=
  ⟨by decide +kernel, by decide +kernel, by decide +kernel, List.nodup_cons.mpr ⟨List.not_mem_nil, List.nodup_nil⟩, by decide +kernel, by decide +kernel,
    by decide +kernel, by decide +kernel, by decide +kernel, by decide +kernel⟩
theorem test_head_passed_over : gives (exec .launchStart (twoHeads 1 255 0)) (fun t => decide (((t.context 0).queue 0).pass = 0) &&
    decide (((t.context 0).queue 0).raised = 1) && decide (((t.context 0).queue 0).head = 0) && decide (((t.context 0).queue 1).head = 1)) = true := by
  decide +kernel
theorem test_launch_start : gives (exec .launchStart (launching 0x140000 true)) (fun t => decide (t.nextLaunch = 2) &&
    decide ((t.lc 65536).pinned.map (fun q => q.pip.w0) = [(1 <<< 61) ||| 0x20008]) && decide (((t.context 0).queue 0).head = 1)) = true := by
  decide +kernel
theorem test_launch_rejected : gives (exec .launchStart (launching 0x140000 false)) (fun t => decide (t.nextLaunch = 1) &&
    decide (wordAt t 0x142000 = 0x8018)) = true := by decide +kernel
def ended (e : Option Code) : State := boot.modLaunch 0 fun l => { l with live := 0, ending := e, setMask := 5, compVA := 0x142000 }
theorem witness_LaunchUnitSteps_end :
    ((Tbl.find (ended none).launches 0).map fun l => (l.ending, l.live)) = some (none, 0) ∧ (ended none).hasCommands 0 = false ∧
      (ended none).net.puts = [] ∧ (ended none).mem.poison = [] ∧ ((Tbl.find (ended (some 0x0B)).launches 0).map fun l => l.ending) = some (some 0x0B) ∧
      (ended (some 0x0B)).hasCommands 0 = false := by decide +kernel
theorem test_launch_completes : gives (exec .launchCompletion (ended none)) (fun t => decide ((t.context 0).events = 5) &&
    decide (wordAt t 0x142000 = 0x100008000)) = true := by decide +kernel
theorem test_launch_ends : gives (exec .launchEndByFault (ended (some 0x0B))) (fun t => decide ((t.context 0).events = 0) &&
    decide (wordAt t 0x142000 = 0x10000800B)) = true := by decide +kernel
/-- The firing waits for a page: its entry is posted with ticket 3, or is not posted yet. -/
def suspended (ticket : Option (BitVec 32)) : State := { boot with f := { boot.f with st := .suspended, ticket := ticket, pfAddr := 0x5000, pfAccess := 1 } }
theorem witness_LaunchUnitSteps_fault :
    ((suspended none).firing 0).st = .suspended ∧ ((suspended none).firing 0).ticket = none ∧
      ((suspended none).context 0).pfTail - ((suspended none).context 0).pfHead ≠ 1024 ∧ boot.ticketHolder 0 3 = none ∧
      (suspended (some 3)).ticketHolder 0 3 = some 0 ∧ boot.pkg.power = .active ∧
      ((Tbl.find (suspended (some 3)).launches (0 / 2 / 65536)).map fun l => l.ending) = some none := by decide +kernel
theorem test_fault_post : gives (exec .pageFaultEntryPost (suspended none)) (fun t => decide (t.f.ticket = some 0) &&
    decide (Tbl.find (t.context 0).pfRing 0 = some (0x5000, 0x40000000))) = true := by decide +kernel
theorem test_fault_refused : gives (exec .pageFaultRefuse (about (suspended (some 3)) 0 0 3)) (fun t =>
    decide ((Tbl.find t.launches 0).map (fun l => l.ending) = some (some 8))) = true := by decide +kernel
def queueOf (h : LQueue → LQueue) : State := boot.modContext 0 fun c => { c with queues := [(0, h { LQueue.fresh with tail := 2 })] }
theorem witness_LaunchUnitSteps_queue :
    (((1 : Word).truncate 32 : BitVec 32) - ((queueOf id).context 0 |>.queue 0).head).toNat ≤ 2 ^ ((queueOf id).context 0 |>.queue 0).size ∧
      2 ^ ((queueOf id).context 0 |>.queue 0).size < (((9 : Word).truncate 32 : BitVec 32) - ((queueOf id).context 0 |>.queue 0).head).toNat ∧
      (((queueOf id).context 0).queue 0).stopped = false ∧ (((queueOf fun x => { x with stopped := true }).context 0).queue 0).stopped = true ∧
      (((1 : Word).truncate 32 : BitVec 32) - 0).toNat ≤ ((2 : BitVec 32) - 0).toNat ∧
      (((queueOf fun x => { x with stop := true }).context 0).queue 0).stop = true := by decide +kernel
/-- A state about a context, a queue and a value whose clock is gated, and what it holds after a move. -/
def gatedAbout (unit item : Nat) (v : Word) : State := { about boot unit item v with pkg := { boot.pkg with power := .gated } }
def heldAfter (o : Outcome) : Option (List (Bool × Word × List Byte)) := reads o fun t => t.pkg.heldWrites
theorem witness_LaunchUnitSteps_gated :
    let s := gatedAbout 5 3 9
    s.pkg.power = .gated ∧ s.subject.unit < 64 ∧ s.subject.item < 4 ∧ ((s.context 5).queue 3).stop = false ∧
      (((queueOf fun x => { x with stop := true }).context 0).queue 0).stop = true ∧ (gatedAbout 4095 0 1).subject.unit < 4096 := by decide +kernel
/-- R362: a tail and a run-control value that the host writes while the clock is gated are held, at the addresses of R254 and R341. -/
theorem test_gated_writes : heldAfter (exec .launchQueueTailWrite (gatedAbout 1 2 9)) = some [(false, 0x7F0000100498, leBytes 8 9)] ∧
    heldAfter (exec .runControlWrite (gatedAbout 3 0 1)) = some [(false, 0x7F0000900018, leBytes 8 1)] := by decide +kernel
theorem test_tail_overrun : gives (exec .launchQueueTailWrite (about (queueOf id) 0 0 9)) (fun t =>
    decide (((t.context 0).queue 0) = { LQueue.fresh with tail := 2, overrun := true })) = true := by decide +kernel
theorem test_head_moves : gives (exec .launchQueueHeadWrite (about (queueOf fun x => { x with stopped := true }) 0 0 1)) (fun t =>
    decide (((t.context 0).queue 0).head = 1)) = true := by decide +kernel
theorem test_queue_controls : gives (exec .launchQueueStop (about boot 0 3 0)) (fun t => gives (exec .launchQueueStopped t) fun u =>
    ((u.context 0).queue 3).stopped && gives (exec .launchQueueRestart u) fun v => gives (exec .launchQueueOverrunClear v) fun w =>
      decide ((w.context 0).queue 3 = LQueue.fresh)) = true := by decide +kernel
theorem test_event_windows : gives (exec .eventVectorSetWindowWrite (about boot 0 1 6)) (fun t => decide ((t.context 0).events = 6 <<< 64) &&
    gives (exec .eventVectorClearWindowWrite (about t 0 1 2)) fun u => decide ((u.context 0).events = 4 <<< 64)) = true := by decide +kernel
theorem test_run_control : gives (exec .runControlWrite (about (boot.modPCore 0 fun p => { p with halted := true }) 0 0 1)) (fun t =>
    !(t.pcore 0).halted) = true := by decide +kernel

/-! ## Registers on mapped pages -/

/-- Context 0 is a driver context whose page at 1 GiB names the device registers (R155, R288). -/
def driving : State :=
  { boot.modContext 0 fun c => { c with root := 0x10003 } with mem := { boot.mem with side := Mem.write boot.mem.side 0x11008 (leBytes 8 0x7F0000000007) } }
/-- The firing has a put of this word to this register in flight. -/
def putting (s : State) (pa : Nat) (v : Word) : State :=
  net s fun n => { n with puts := [{ ownPut with parts := [{ pa := pa, host := false, sc := false, data := leBytes 8 v.toNat }], ctr := none }] }
/-- R187: the span of team 7 that the firing's own put has written decides what its barrier waits for, and the tail that one has written is the one
that launch moves. -/
theorem test_tbar_after_put : gives (exec (.tbar 1) (putting (teamed [me true false] 0 0) 0x7F00005001C8 1)) (fun t =>
    ((t.context 0).team 7).span && decide (t.f.st = .waiting) && t.net.puts.isEmpty) = true := by decide +kernel
theorem test_launch_after_put : gives (exec (.launch 4 2) (putting ((with3 0 2 0).modContext 0 fun c => { c with queues := [(2, { LQueue.fresh with size := 3 })] }) 0x7F0000100098 5)) (fun t =>
    decide (((t.context 0).queue 2).tail = 6)) = true := by decide +kernel
/-- R264, R255: a status word and a completion word that lie on a register page act on the register. -/
theorem test_status_register : gives (exec .sendStatusWrite (net boot fun n => { n with status := [{ aStatus with pa := 0x7F0000410000, value := 5 }] }))
    (fun t => decide ((t.context 0).events = 5)) = true := by decide +kernel
theorem test_completion_register :
    gives (exec .launchCompletion (driving.modLaunch 0 fun l => { l with live := 0, compVA := 0x40410000 })) (fun t =>
      decide ((t.context 0).events = 0x100008000)) = true := by decide +kernel
theorem witness_LaunchUnitSteps_contexts : (boot.context 0).root.getLsbD 1 = false ∧ (driving.context 0).root.getLsbD 1 = true := by decide +kernel

/-! ## Registers, memory maintenance, replicas -/

def pkg (s : State) (h : Package → Package) : State := { s with pkg := h s.pkg }
def gated (s : State) : State := pkg s fun p => { p with power := .gated }
def found (f : ScrubFinding) : State := { about boot 0 0 0x100000 with subject := { Subject.none with value := 0x100000, finding := f } }
/-- Contexts 1 and 2 are two replicas that have posted these digests of step 1, context 2 after one of step 2; the step that is decided is 1. -/
def replicaSet : Word := (1 <<< 63) ||| (2 <<< 32)
def aPost (step d : Word) : Post := { set := replicaSet, step := step, digest := d, holds := true, decided := false }
def replicating (d e : Word) : State :=
  let post (s : State) (c : Nat) (l : List Post) : State := s.modContext c fun x => { x with repSet := replicaSet, repTimeout := 9, posts := l }
  about (post (post boot 1 [aPost 1 d]) 2 [aPost 2 5, aPost 1 e]) 1 0 1
/-- No launch is live and every queue of every context is stopped. -/
def allStopped : State :=
  { State.reset with contexts := (List.range 64).map fun c =>
      (c, { Context.fresh with queues := (List.range 16).map fun q => (q, { LQueue.fresh with stop := true, stopped := true }) }) }
/-- A walk for page 0x100000 of context 0 stands in die 0; and the scrubber of its stack stands at that granule, or at the next. -/
def walking : State := { about boot 7 0 0x100000 with net := { boot.net with walks := [(0, [(0, 16)])] } }
def scrubbing (g : Nat) : State := pkg (found .clean) fun p => { p with scrubAt := [(stackOf 0x100000, g)] }
theorem witness_RegisterAndMemoryUnitSteps_places :
    (0, 0x100000 / 65536) ∈ Tbl.get [] walking.net.walks (dieOf 7) ∧ (0, 0x100000 / 65536) ∉ Tbl.get [] boot.net.walks (dieOf 7) ∧
      Tbl.find (scrubbing 0x4001).pkg.scrubAt (stackOf (0x100000 / 64 * 64)) = some 0x4001 ∧
      Tbl.find (scrubbing 0x4000).pkg.scrubAt (stackOf (0x100000 / 64 * 64)) = some (0x100000 / 64) ∧
      Tbl.find boot.pkg.scrubAt (stackOf 0x100000) = none := by decide +kernel
/-- Line 512 is in the memory-side cache with both halves of its granule 0; the move asks for `v`, and finds an error at granule `i`. -/
def resident (v : Word) (i : Nat) : State :=
  { boot with mem := { boot.mem with msc := [{ line := 512, valid := 3, used := 1, dirty := 0 }] },
              subject := { Subject.none with unit := 512, item := i, value := v, finding := .uncorrectable } }
theorem witness_RegisterAndMemoryUnitSteps_resident :
    (resident 0xC 1).pkg.power = .active ∧ ((resident 0xC 1).mscLine 512).map (fun e => e.valid) = some 3 ∧ isHbm (2048 * 512) = true ∧
      (1 : Word) &&& ~~~3 = 0 ∧ (0xC : Word) &&& ~~~3 ≠ 0 ∧ ((0xC : Word) &&& ~~~3).getLsbD (2 * (1 % 32)) = true ∧
      (resident 0xC 1).subject.finding = .uncorrectable ∧ (gated (about boot 63 3 9)).pkg.power = .gated := by decide +kernel
/-- R163: a read of the missing halves of a resident line meets an error at granule 1, and none where nothing is read. -/
theorem test_resident_fill : gives (exec .mscMissFill (resident 0xC 1)) (fun t => t.poisoned (2048 * 512 + 64) && !t.poisoned (2048 * 512) &&
    decide ((t.mscLine 512).map (fun e => e.valid) = some 0xF)) = true ∧
    gives (exec .mscMissFill (resident 1 0)) (fun t => decide (t.mem = (resident 1 0).mem)) = true := by decide +kernel
theorem witness_RegisterAndMemoryUnitSteps :
    boot.pkg.power = .active ∧ boot.tableOpen = false ∧ allStopped.tableOpen = true ∧ regBlock 0x7F0000000000 = .plain ∧
      boot.walk 0 0x100000 = .ok page ∧ (match boot.walk 0 0x80000000 with | .ok _ => true | _ => false) = false ∧ isHbm (0x100000 / 64 * 64) = true ∧
      (found .clean).subject.finding = .clean ∧ (found .corrected).subject.finding = .corrected ∧ (found .uncorrectable).subject.finding = .uncorrectable ∧
      boot.pkg.fqTail - boot.pkg.fqHead ≠ 256 ∧
      (let s := pkg boot fun p => { p with fqTail := 256 }
       s.pkg.fqTail - s.pkg.fqHead = 256) ∧
      (let s := pkg boot fun p => { p with invals := [(0, (0, 0x100000, 64, false))], purgeBusy := true }
       Tbl.find s.pkg.invals 0 = some (0, 0x100000, 64, false) ∧ s.rangeInUse 0 0x100000 64 = false ∧ s.pkg.purgeBusy = true) ∧
      isHbm (2048 * 512) = true ∧ boot.mscLine 512 = none ∧ (gated boot).pkg.power = .gated := by decide +kernel
theorem witness_RegisterAndMemoryUnitSteps_replicas :
    Holds ((replicating 7 7).context 1) ∧ (replicating 7 7).subject.yes = false ∧ (replicating 7 7).subject.data = [] ∧
      replicaCount ((replicating 7 7).context 1).repSet = 2 ∧ (replicating 7 7).replicas 1 = [1, 2] ∧
      ((replicating 7 7).replicas 1).map (fun c => postOf ((replicating 7 7).context c) 1) = [aPost 1 7, aPost 1 7].map some ∧
      ((replicating 7 7).context 1).repTimeout ≠ 0 ∧ majority [7, 7] = some 7 ∧ majority [7, 8] = none := by
  decide +kernel
theorem test_invalidation : gives (exec .translationInvalidation (about (boot.modPCore 5 fun p => { p with tbuf := [page] }) 0 0 0)) (fun t =>
    decide ((t.pcore 5).tbuf = [page])) = true := by decide +kernel
theorem test_invalidation_done : gives (exec .invalidationDone (pkg boot fun p => { p with invals := [(0, (0, 0x100000, 64, false))] })) (fun t =>
    decide (Tbl.find t.pkg.invals 0 = some (0, 0x100000, 64, true))) = true := by decide +kernel
theorem test_purge : gives (exec .l2Purge { boot with mem := { boot.mem with l2 := [{ line := 0x4000, valid := 3, stamp := 1, dirty := true }] }, subject :=
      { Subject.none with value := 0x100000, value2 := 64 } }) (fun t => t.mem.l2.isEmpty && gives (exec .l2PurgeDone t) fun u =>
    !u.pkg.purgeBusy) = true := by decide +kernel
theorem test_range_write : gives (exec .addressRangeEntryWrite (about allStopped 3 0 0x10000)) (fun t =>
    decide ((Tbl.get .fresh t.pkg.ranges 3).base = 0x10000)) = true := by decide +kernel
/-- Entry 3 covers 64 KiB from 64 KiB on, and its third word is written: valid, granules of 64 bytes over one unit, from this unit on. -/
def ranging (first : Word) : State :=
  pkg (about allStopped 3 2 ((1 <<< 63) ||| (6 <<< 24) ||| (1 <<< 8) ||| first)) fun p => { p with ranges := [(3, { base := 0x10000, limit := 0x20000, ctl := 0, error := false })] }
theorem witness_RegisterAndMemoryUnitSteps_ranges : (ranging 0).tableOpen = true ∧ (ranging 0).pkg.power = .active ∧
    LimitsKept { base := 0x10000, limit := 0x20000, ctl := (1 <<< 63) ||| (6 <<< 24) ||| (1 <<< 8) ||| 95, error := false } ∧
    ¬ LimitsKept { base := 0x10000, limit := 0x20000, ctl := (1 <<< 63) ||| (6 <<< 24) ||| (2 <<< 8) ||| 95, error := false } ∧
    ¬ LimitsKept { base := 0x3FFFFF0000, limit := 0x4000010000, ctl := (6 <<< 24) ||| (1 <<< 8), error := false } ∧
    LimitsKept { base := 0x3FFFFF0000, limit := 0x4000000000, ctl := (30 <<< 24) ||| (96 <<< 8), error := false } ∧
    ({ base := 0x10000, limit := 0x20000, ctl := (1 <<< 63) ||| (6 <<< 24) ||| (1 <<< 8), error := false } : RangeEntry).holds 0x1FFFF = true := by
  unfold LimitsKept
  decide +kernel
theorem test_range_valid : gives (exec .addressRangeEntryWrite (ranging 95)) (fun t => decide ((Tbl.get .fresh t.pkg.ranges 3).error = false) &&
    decide (fld (Tbl.get .fresh t.pkg.ranges 3).ctl 6 0 = 95) && gives (exec .addressRangeEntryWrite (ranging 96)) fun u =>
      (Tbl.get .fresh u.pkg.ranges 3).error) = true := by decide +kernel
/-- The queue names a frame with a clean error, one that is listed already, and a slot's error without an address. -/
def retiring : State :=
  pkg boot fun p => { p with
    fqTail := 3, badPages := [(1 <<< 63) ||| (2 <<< 60) ||| 0x200000],
    fqRing := [(0, ((2 <<< 60) ||| 0x300040, 0)), (1, ((3 <<< 60) ||| 0x200000, 0)), (2, ((5 <<< 60) ||| 0x400000, 0))] }
theorem test_retires_once : gives (exec .pageRetirement retiring) (fun t => decide (t.pkg.badPages =
    [(1 <<< 63) ||| (2 <<< 60) ||| 0x200000, (1 <<< 63) ||| (1 <<< 60) ||| 0x300000]) && decide (t.pkg.told.length = 1) && decide (t.pkg.fqHead = 3)) = true := by
  decide +kernel
theorem test_register_held : gives (exec .registerWrite (pkg (about boot 0 0 0x100) fun p => { p with power := .gated })) (fun t =>
    decide (t.pkg.heldWrites = [(false, 0x100, leBytes 8 0)])) = true := by decide +kernel
theorem test_walk : gives (exec .translationWalk walking) (fun t => decide ((t.pcore 7).tbuf = [page]) && decide (Tbl.get [] t.net.walks 0 = [])) = true := by decide +kernel
theorem test_scrub : gives (exec .scrub (found .uncorrectable)) (fun t => t.poisoned 0x100000 && decide (t.pkg.fqTail = 1)) = true := by decide +kernel
theorem test_msc_fill : gives (exec .mscMissFill (about boot 512 0 1)) (fun t => (t.mscLine 512).isSome) = true := by decide +kernel
theorem test_page_retired : gives (exec .scrub (found .uncorrectable)) (fun t => gives (exec .pageRetirement t) fun u =>
    decide (u.pkg.badPages = [(1 <<< 63) ||| (3 <<< 60) ||| 0x100000])) = true := by decide +kernel
/-- R348: the holds of step 1 go, that of step 2 stands; where no digest has the majority, all stand, and step 1 is decided. -/
theorem test_replicas_agree : gives (exec .replicaDecision (replicating 7 7)) (fun t => decide ((t.context 1).posts = []) &&
    decide ((t.context 2).posts = [aPost 2 5]) && decide (t.pkg.msix = [2])) = true := by decide +kernel
theorem test_replicas_differ : gives (exec .replicaDecision (replicating 7 8)) (fun t => decide (Holds (t.context 1)) &&
    decide ((t.context 2).posts = [aPost 2 5, { aPost 1 8 with decided := true }])) = true := by
  decide +kernel
theorem witness_RangeTeamAndLaunchInstructions_post : setInForce replicaSet = true ∧ setInForce 0 = false ∧
    postOf ((replicating 7 7).context 2) 2 = some (aPost 2 5) := by decide +kernel
/-- Replica 2 has not posted step 1. -/
def lacking : State := (replicating 7 8).modContext 2 fun x => { x with posts := [aPost 2 5] }
theorem witness_RegisterAndMemoryUnitSteps_timeout :
    (let s := lacking
     ((s.replicas 1).filter fun c => (postOf (s.context c) 1).isSome).length = 1) ∧
      replicaCount (lacking.context 1).repSet = 2 ∧ (lacking.context 1).repTimeout ≠ 0 := by decide +kernel
/-- The other post came from another device: none is missing. -/
theorem test_replica_elsewhere : gives (exec .replicaTimeout { lacking with subject := { lacking.subject with item := 1 } }) (fun t =>
    decide (t.pkg.msix = [])) = true := by decide +kernel
theorem test_replica_timeout : gives (exec .replicaTimeout lacking) (fun t => decide (t.pkg.msix = [2]) && decide (Holds (t.context 1))) = true := by
  decide +kernel

/-! ## Host, ports, power -/

/-- The event carries these bytes to or from the address. -/
def hosted (unit n : Nat) (v : Word) (d : List Byte) (yes : Bool) : State :=
  { boot with subject := { Subject.none with unit := unit, item := n, value := v, data := d, yes := yes } }
def flitted (f : Flit) : State := { boot with subject := { Subject.none with flit := f } }
def summed (f : Flit) : Flit := { f with crc := flitSum f }
theorem summed_crc (f : Flit) : (summed f).crc = flitSum (summed f) := by simp only [summed, flitSum, flitHead]
def aFlit (dst : BitVec 18) : Flit := summed { Flit.zero with kind := 3, vc := 2, dst := dst, packet := .barrierRelease 5 1 }
/-- A frame of one byte of text, and a port whose ring of two slots is at 0x100000 with its doorbell at 0x110000. -/
def frame : List Byte := leBytes 4 0x5446574B ++ leBytes 1 1 ++ leBytes 17 0 ++ leBytes 2 1 ++ leBytes 40 0 ++ [0x41]
def aPort : Port := { Port.fresh with
  rxRing := 0x100000, rxSlots := 2, doorbell := 0x110000, txRing := 0x120000, txCount := 1, pairing := (1 <<< 63) ||| 9 }
def ported (s : State) : State := pkg s fun p => { p with ports := [(0, aPort)] }
def noticing : State :=
  let s := (ported boot).modContext 0 fun c => { c with pairing := (1 <<< 63) ||| 9 }
  s.modPort 0 fun x => { x with notices := [(0, 0)] }
/-- The doorbell counter stands at 1. -/
def belled : State := { ported boot with mem := { boot.mem with home := Mem.set boot.mem.home 0x110000 1 } }
/-- A word stands at slot 0 already. -/
def occupied : State := { ported (hosted 0 0 0 frame false) with mem := { boot.mem with home := Mem.set boot.mem.home 0x100000 1 } }
/-- The host link has trained with CXL 3.1. -/
def linked (s : State) : State := pkg s fun p => { p with link := { gen := 6, width := 16, cxl := 31 } }
def inRom (s : State) : State := pkg s fun p => { p with power := .rom }
theorem witness_HostPortAndPowerSteps_registers :
    let s := hosted 0 8 0x1000 (leBytes 8 7) false
    let t := hosted 0 8 0x200800 (leBytes 8 7) false
    s.hostAddress 8 = some 0x7F0000001000 ∧ isDeviceReg 0x7F0000200800 = true ∧ t.hostAddress 8 = some 0x7F0000200800 ∧ t.subject.data.length = 8 ∧
      t.purging 0x7F0000200800 8 = false ∧ (gated t).pkg.power = .gated ∧ (inRom s).pkg.power = .rom ∧
      (hosted 0 8 0 [] false).hostAddress 8 = some 0x7F0000000000 ∧ (hosted 2 8 0 [] false).hostAddress 8 = some 0 := by decide +kernel
/-- A host write to a scratchpad of the window range, and to an address where nothing is (R155). -/
theorem witness_HostPortAndPowerSteps_windows :
    let s := hosted 4 2 0x400000000010 [7, 8] false
    let u := hosted 4 2 0x8000000000 [7, 8] false
    s.hostAddress 2 = some 0x400000000010 ∧ isWindowPA 0x400000000010 = true ∧ windowKind 0x400000000010 = 0 ∧ s.hbmMapped 0x400000000010 = false ∧
      s.poisoned 0x400000000010 = false ∧ s.purging 0x400000000010 2 = false ∧ s.subject.data ≠ [] ∧ 0x400000000010 % 64 + 2 ≤ 64 ∧
      u.hostAddress 2 = some 0x8000000000 ∧ u.hbmMapped 0x8000000000 = false ∧ isWindowPA 0x8000000000 = false ∧ isDeviceReg 0x8000000000 = false ∧
      (hosted 4 2 0x7FFFFFFFFF [] false).hostAddress 2 = none ∧ (hosted 4 2 0xFFFFFFFFFFFFFFFE [] false).hostAddress 2 = some 0xFFFFFFFFFFFFFFFE ∧
      (hosted 0 8 0xFFFFFFF9 [] false).hostAddress 8 = none ∧ (hosted 2 1 0 [] false).hostAddress (2 ^ 39 + 1) = none := by decide +kernel
theorem test_host_window : gives (exec .hostWrite (hosted 4 2 0x400000000010 [7, 8] false)) (fun t =>
    decide (Mem.read t.mem.home 0x400000000010 2 = [7, 8]) && gives (exec .hostRead { t with subject := (hosted 4 2 0x400000000010 [] false).subject }) fun u =>
      decide (u.pkg.hostData = [7, 8])) = true := by decide +kernel
theorem test_host_unmapped : gives (exec .hostWrite (hosted 4 2 0x8000000000 [7, 8] false)) (fun t => decide (t.mem = boot.mem) &&
    gives (exec .hostRead { t with subject := (hosted 4 2 0x8000000000 [] false).subject }) fun u => decide (u.pkg.hostData = [0, 0])) = true := by
  decide +kernel
theorem witness_IsReply : IsReply boot [] ∧ (∃ b, IsReply { boot with subject := { Subject.none with mail := .attestation (List.replicate 48 0) } } b) :=
  ⟨.inl (by decide +kernel), ⟨_, .inr ⟨List.replicate 48 0, by decide +kernel, by decide, rfl⟩⟩⟩
theorem witness_HostPortAndPowerSteps_memory :
    let s := hosted 3 2 0x100010 [7, 8] false
    s.pkg.power = .active ∧ s.hostAddress 2 = none ∧ (linked s).hostAddress 2 = some 0x100010 ∧ s.hbmMapped 0x100010 = true ∧ s.mem.poison = [] ∧ s.purging 0x100010 2 = false ∧
      s.subject.data ≠ [] ∧ 0x100010 % 64 + 2 ≤ 64 ∧ s.poisoned 0x100010 = false ∧ s.pkg.power ≠ .off ∧
      (hosted 0 0 0 [] false).subject.mail = .bytes [] := by decide +kernel
theorem witness_HostPortAndPowerSteps_flit :
    (summed (aFlit 1)).crc = flitSum (summed (aFlit 1)) ∧ (aFlit 1).number = (boot.rport 0).expect ∧
      { summed (aFlit 1) with crc := flitSum (aFlit 1) + 1 }.crc ≠ flitSum (aFlit 1) ∧ (aFlit 1).kind ≠ 0 ∧
      packetKind (aFlit 1).packet = (aFlit 1).kind.toNat ∧ (aFlit 1).vc.toNat = (aFlit 1).kind.toNat - 1 ∧ (aFlit 1).dst ≠ boot.pkg.device ∧
      (aFlit 0).dst = boot.pkg.device ∧ Flit.zero.kind = 0 :=
  ⟨summed_crc _, by decide +kernel, by simp, by decide, by decide, by decide, by decide +kernel, by decide +kernel, by decide⟩
/-- A write of another device to the paired context. -/
def aWrite (tag : BitVec 32) : Flit :=
  summed { Flit.zero with kind := 1, packet := .write tag 0x100000 [7, 8] none false }
def receiving (f : Flit) : State := { boot.modContext 0 fun c => { c with pairing := (1 <<< 63) ||| 9 } with subject := { Subject.none with flit := f } }
theorem witness_HostPortAndPowerSteps_write :
    let s := receiving (aWrite 9)
    s.paired 9 = some (0, 0) ∧ s.paired 8 = none ∧ s.locate (s.pairAsker 0 0) .put (pieces 0x100000 2) = .ok ([spot 0x100000 2], [page]) ∧
      s.hbmMapped 0x100000 = true ∧ s.mem.poison = [] ∧ packetKind (aWrite 9).packet = 1 := by decide +kernel
theorem takes_flit {s : State} {q : State → Bool} (hp : s.pkg.power = .active ∧ s.subject.unit < 36)
    (hc : s.subject.flit.crc = flitSum s.subject.flit) (hn : s.subject.flit.number = (s.rport s.subject.unit).expect)
    (h : (let f := s.subject.flit
          let t := s.modRPort s.subject.unit fun x => x.take f
          q (if packetKind f.packet ≠ f.kind.toNat ∨ f.kind = 0 ∨ f.vc ≠ channelOf f.kind then t.dropFlit
             else if f.dst ≠ t.device then t.emit [f] else (t.deliverFlit f.src f.packet).settle)) = true) :
    gives (exec .ranvikFlitReceive s) q = true := by
  simp only [exec, execRanvikFlitReceive, State.arrival, State.enabled, hp.1, if_neg (Nat.not_le.2 hp.2), beq_self_eq_true, Bool.true_or,
    if_true, gives, reduceCtorEq, if_false]
  rw [if_neg (by simp [hc, hn])]
  exact h
theorem test_flit_write : gives (exec .ranvikFlitReceive (receiving (aWrite 9))) (fun t => decide (Mem.read t.mem.home 0x100000 2 = [7, 8])) = true :=
  takes_flit (by decide +kernel) (show (aWrite 9).crc = flitSum (aWrite 9) from summed_crc _) (by decide +kernel) (by decide +kernel)
theorem witness_HostPortAndPowerSteps_frame :
    let s := ported (hosted 0 0 0 frame false)
    frameFits frame = true ∧ frameFits (frame.take 63) = false ∧ s.portRead (s.ringContext (s.port 0)) ((s.port 0).slotVA 0) 8 = some (leBytes 8 0) ∧
      (s.portWrite (s.ringContext (s.port 0)) ((s.port 0).slotVA 0) (frame.take 65)).isSome = true ∧
      ((occupied.portRead (occupied.ringContext (occupied.port 0)) ((occupied.port 0).slotVA 0) 8).map leNat) = some 1 ∧
      (noticing.port 0).notices ≠ [] ∧ ((noticing.port 0).tag.bind noticing.paired).isSome = true ∧
      (belled.unitRead 0 0x110000 8).toOption = some (leBytes 8 1) ∧ (belled.port 0).txSent < leNat (leBytes 8 1) % 2 ^ 63 := by decide +kernel
/-- A flit that was damaged on its way. -/
def damaged (f : Flit) : Flit := { f with crc := flitSum f + 1 }
theorem damaged_crc (f : Flit) : (damaged f).crc ≠ flitSum (damaged f) := by
  rw [show flitSum (damaged f) = flitSum f from by simp only [damaged, flitSum, flitHead]]
  simp [damaged]
theorem witness_HostPortAndPowerSteps_wake :
    (gated (flitted (damaged Flit.zero))).pkg.power = .gated ∧ 0 < 36 ∧ (damaged Flit.zero).crc ≠ flitSum (damaged Flit.zero) ∧
      (gated (hosted 0 0 0 (frame.take 63) false)).pkg.heldWrites = [] ∧ frameFits (frame.take 63) = false :=
  ⟨rfl, by decide, damaged_crc _, by decide +kernel, by decide +kernel⟩
/-- R362: a frame that arrives while the clock is gated wakes the package, which first takes the write that it holds. -/
theorem test_frame_wakes : gives (exec .textFrameReceive (pkg (gated (hosted 0 0 0 (frame.take 63) false)) fun p => { p with
    heldWrites := [(false, 0x100010, [7])] })) (fun t => decide (t.pkg.power = .active) && decide ((t.port 0).dropped = 1) &&
      decide (Mem.get t.mem.home 0x100010 = 7) && t.pkg.heldWrites.isEmpty) = true := by decide +kernel
theorem witness_HostPortAndPowerSteps_power :
    (pkg State.reset fun p => { p with power := .off }).pkg.power = .off ∧ State.reset.net.flits = [] ∧ State.reset.pkg.ports = [] ∧
      (gated boot).pkg.heldWrites = [] ∧ (pkg boot fun p => { p with heldWrites := [(true, 0x100, [])] }).pkg.heldWrites = [(true, 0x100, [])] ∧
      State.reset.pkg.power = .active ∧ State.reset.launches = [] ∧ State.reset.allCommands = [] ∧ State.reset.eligible = [] ∧
      (pkg boot fun p => { p with power := .gated }).pkg.heldWrites = [] ∧ (hosted 0 0 0 [] true).subject.yes = true ∧
      (pkg boot fun p => { p with power := .rom }).pkg.power = .rom ∧ ({ Subject.none with mail := .failure 3 } : Subject).mail = .failure 3 := by
  decide +kernel
theorem test_host_write : gives (exec .hostWrite (linked (hosted 3 0 0x100010 [7, 8] false))) (fun t => decide (Mem.get t.mem.home 0x100011 = 8) &&
    gives (exec .hostRead { t with subject := (hosted 3 2 0x100010 [] false).subject }) fun u => decide (u.pkg.hostData = [7, 8])) = true := by
  decide +kernel
theorem test_ethernet_write : gives (exec .ethernetWrite (hosted 0 0 0x100010 [7] false)) (fun t => decide (Mem.get t.mem.side 0x100010 = 7)) =
    true := by decide +kernel
theorem test_mailbox : gives (exec .hostMailboxDoorbell (hosted 0 0 4 [] false)) (fun t => decide (t.pkg.bellIn = 4) && t.pkg.request &&
    gives (exec .deviceMailboxDoorbell t) fun u => !u.pkg.request && decide (u.pkg.msix = [0])) = true := by decide +kernel
theorem test_flit_forwarded : gives (exec .ranvikFlitReceive (flitted (aFlit 1))) (fun t => decide ((t.net.flits.map fun o => o.flit.dst) = [1])) = true :=
  takes_flit (by decide +kernel) (show (aFlit 1).crc = flitSum (aFlit 1) from summed_crc _) (by decide +kernel) (by decide +kernel)
theorem test_flit_unknown : gives (exec .ranvikFlitReceive (flitted (summed Flit.zero))) (fun t => decide (t.pkg.dropped = 1)) = true :=
  takes_flit (by decide +kernel) (show (summed Flit.zero).crc = flitSum (summed Flit.zero) from summed_crc _) (by decide +kernel) (by decide +kernel)
theorem test_lane : gives (exec .laneFailure (hosted 2 0 0 [] true)) (fun t => decide (t.pkg.lanesLost = [38]) && !(t.port 2).spare) = true := by
  decide +kernel
theorem test_link : gives (exec .linkTraining (hosted 6 8 31 [] true)) (fun t => decide (t.pkg.link = { gen := 6, width := 8, cxl := 31 })) = true := by decide +kernel
theorem test_ranvik_port : gives (exec .ranvikPortTraining (hosted 35 0 0 [] false)) (fun t => decide ((t.rport 35).rate = 112)) =
    true := by decide +kernel
theorem test_ethernet_port : gives (exec .ethernetPortTraining (hosted 3 0 0 [] true)) (fun t => decide ((t.port 3).rate = 800)) = true := by
  decide +kernel
theorem test_frame_received : gives (exec .textFrameReceive (ported (hosted 0 0 0 frame false))) (fun t => decide ((t.port 0).rxNext = 1) &&
    decide (Mem.get t.mem.side 0x100040 = 0x41)) = true := by decide +kernel
theorem test_frame_dropped : gives (exec .textFrameReceive occupied) (fun t => decide ((t.port 0).dropped = 1)) = true := by decide +kernel
theorem test_notice_sent : gives (exec .textNoticeResend noticing) (fun t => decide ((t.port 0).notices = []) && decide (t.me.park.length = 1)) = true := by
  decide +kernel
theorem test_entry_sent : gives (exec .transmitEntrySend belled) (fun t => decide ((t.port 0).txSent = 1)) = true := by decide +kernel
/-- The entry has been sent already; nothing more is sent. -/
theorem test_entry_not_due : gives (exec .transmitEntrySend (belled.modPort 0 fun x => { x with txSent := 1 })) (fun t =>
    decide (t.pkg.frames = []) && decide ((t.port 0).txSent = 1)) = true := by decide +kernel
/-- A port with a notice to send, or an entry, keeps the clock running. -/
theorem test_idle_busy : gives (exec .idleEntry { noticing with launches := [] }) (fun t => decide (t.pkg.power = .active)) = true ∧
    (ported boot).transmitDue aPort = false ∧ belled.transmitDue aPort = true := by decide +kernel
theorem test_power_off : gives (exec .powerOff boot) (fun t => decide (t.pkg.power = .off) && t.launches.isEmpty) = true := by decide +kernel
theorem test_idle : gives (exec .idleEntry State.reset) (fun t => decide (t.pkg.power = .gated) &&
    gives (exec .wake { t with subject := (hosted 0 0 0 [] true).subject }) fun u => decide (u.pkg.power = .active)) = true := by decide +kernel
theorem test_over_temperature : gives (exec .overTemperature boot) (fun t => (t.context 63).held) = true := by decide +kernel
theorem test_alarms : gives (exec .telemetryAlarm boot) (fun t => decide (t.pkg.msix = [3]) && gives (exec .criticalTemperature t) fun u =>
    u.pkg.removePower) = true := by decide +kernel
/-- An outcome of device 9 for ticket 1 of core 0 of launch `job`, and a state whose core 0 of launch 0 has sent that device a message of that ticket. -/
def anOutcome (job : Nat) : Flit := summed { Flit.zero with kind := 2, vc := 1, src := 9, packet := .outcome 9 0 1 4 job }
def farSending (job : Nat) : State :=
  { onLc boot fun c => { c with outbound := [{ num := 0, what := .far (aMsg 0) 9, full := false, decided := false }] } with
    subject := { Subject.none with flit := anOutcome job }, contexts := (receiving (anOutcome job)).contexts }
theorem witness_HostPortAndPowerSteps_outcome : (∀ e ∈ (farSending 1).lcores, e.1 / 65536 ≠ 1) ∧ packetKind (anOutcome 1).packet = 2 ∧
    (anOutcome 1).dst = (farSending 1).pkg.device ∧ (farSending 1).pkg.power = .active := by decide +kernel
/-- R356: it settles the send of its own launch, and none of another. -/
theorem test_outcome_other : gives (exec .ranvikFlitReceive (farSending 1)) (fun t => decide (t.me.outbound.length = 1)) = true :=
  takes_flit (by decide +kernel) (show (anOutcome 1).crc = flitSum (anOutcome 1) from summed_crc _) (by decide +kernel) (by decide +kernel)
theorem test_outcome_own : gives (exec .ranvikFlitReceive (farSending 0)) (fun t => t.me.outbound.isEmpty) = true :=
  takes_flit (by decide +kernel) (show (anOutcome 0).crc = flitSum (anOutcome 0) from summed_crc _) (by decide +kernel) (by decide +kernel)

/-! ## Faults, steps, encodings -/

def yielding : State := { boot with f := { boot.f with yleft := 0 } }
def attempting (n : Nat) : State := { inRegion with f := { inRegion.f with region := { inRegion.f.region with retired := n } } }
/-- A region that read a line whose stamp has moved on. -/
def stale : State := { inRegion with f := { inRegion.f with region := { inRegion.f.region with reads := [(0x4000, 9)] } } }
theorem witness_FaultsOfIssue :
    ({ boot with f := Firing.idle 0 } : State).f.st ≠ .running ∧ yielding.f.st = .running ∧ ¬ RefusedFirst yielding (.add 1 2 3) ∧
      yielding.f.yleft = 0 ∧ ¬ endsItsRun (.add 1 2 3) ∧ (attempting 4096).f.yleft ≠ 0 ∧ (attempting 4096).f.region.isOpen = true ∧
      4096 ≤ (attempting 4096).f.region.retired ∧ ¬ closesAttempt (.add 1 2 3) ∧ Ready inRegion ∧ inRegion.f.region.isOpen = true ∧
      inRegion.job.regions = true ∧ inRegion.job.matrix = true ∧ forbiddenInRegion (.put 1 2 3) :=
  ⟨by decide +kernel, by decide +kernel, id, by decide +kernel, id, by decide +kernel, by decide +kernel, by decide +kernel, id,
    ready_of (by decide +kernel), by decide +kernel, by decide +kernel, by decide +kernel, trivial⟩
theorem witness_FaultsOfIssue_alone : StandsAlone (.add 1 2 3) := ⟨rfl, fun _ _ _ _ _ _ h => nomatch h⟩
theorem test_deadline_add : faults (exec (.add 1 2 3) yielding) yielding 0x10 0 0 = true := by decide +kernel
theorem test_limit_add : faults (exec (.add 1 2 3) (attempting 4096)) (attempting 4096) 0x0E 0 0 = true := by decide +kernel
theorem witness_FaultEntry : Restarts stale 0x0A ∧ ¬ Restarts boot 0x0A ∧ inRegion.f.region.isOpen = true ∧
    ((Tbl.find boot.launches boot.myLaunch).map fun l => l.ending) = some none := by
  refine ⟨⟨by decide +kernel, by decide, by decide, fun h => absurd ((State.validates_iff _ _).mpr h) (by decide +kernel)⟩, fun h => ?_, by decide +kernel, by decide +kernel⟩
  exact absurd h.1 (by decide +kernel)
theorem test_fault_ends : ((boot.takeFault 0x0B 0 7 0).f.st = .free ∧ ((boot.takeFault 0x0B 0 7 0).launch 0).ending = some 0x0B) ∧
    (boot.takeFault 0x0B 0 7 0).f.epc = 0x20000 := by decide +kernel
theorem test_fault_restarts : (stale.takeFault 0x0A 0 7 0).f.pc = 0x20004 ∧ (stale.takeFault 0x0A 0 7 0).f.region.reads = [] := by decide +kernel

/-- add s9, s10, s11 stands at the program counter. -/
def coded : State := boot.withFetchWord 32 0x00594481
def codeSpot (a : Nat) : Spot := spot a 2
theorem witness_StepRunsDecoded_halves : CodeHalf coded coded.f.pc.toNat (codeSpot 0x20000) [page] ∧
    CodeHalf (coded.noteAll coded.asker [page]) (coded.f.pc.toNat + 2) (codeSpot 0x20002) [page] :=
  ⟨⟨by decide +kernel, by decide +kernel, by decide +kernel, rfl, rfl, rfl, rfl, by decide +kernel⟩,
    ⟨by decide +kernel, by decide +kernel, by decide +kernel, rfl, rfl, rfl, rfl, by decide +kernel⟩⟩
/-- The instruction cache holds one line: that of the program counter. -/
def oldLine : ILine := { host := false, line := 0x800, tag := none, data := 0x1C76, misfits := 0 }
def lined : State := { coded with octaves := [(0, { Octave.fresh with icache := [oldLine] })] }
theorem witness_StepRunsDecoded_lines : coded.job.patches = [] ∧ (∀ x ∈ (coded.octave coded.myOctave).icache, x.line ≠ (codeSpot 0x20000).pa / 64) ∧
    lined.job.patches = [] ∧ (lined.octave lined.myOctave).icache = [oldLine] ∧ oldLine.line = (codeSpot 0x20000).pa / 64 := by decide +kernel
theorem witness_StepRunsDecoded_cached : CodeHalf lined lined.f.pc.toNat (codeSpot 0x20000) [page] :=
  ⟨by decide +kernel, by decide +kernel, by decide +kernel, rfl, rfl, rfl, rfl, by decide +kernel⟩
/-- The halfword that is fetched at an address, or the code of the fault. -/
def half (s : State) (va : Nat) : Option (BitVec 16) × Nat :=
  match s.fetchHalf va with
  | .ok (h, _) => (some h, 0)
  | .error e => (none, e.code.toNat)
/-- The program counter is outside the code range; it is at its last halfword, which begins a word. -/
def strayed : State := { boot with f := { boot.f with pc := 0 } }
def lastHalf : State :=
  let s := { boot with f := { boot.f with pc := 0x20FFE } }
  { s with mem := { s.mem with home := Mem.set s.mem.home 0x20FFE 1 } }
theorem test_fetch_cached : half lined 0x20000 = (some 0x1C76, 0) ∧ half coded 0x20000 = (some 0x4481, 0) ∧ half strayed 0 = (none, 6) ∧
    half lastHalf 0x20FFE = (some 1, 0) ∧ half lastHalf 0x21000 = (none, 6) := by decide +kernel
/-- The core may issue: nothing is on the agenda and no slot is to be filled. -/
def issues (s : State) : Bool := s.agenda.isEmpty && s.urgentMove.isNone && s.canIssue s.f
theorem witness_StepRunsDecoded : issues coded = true ∧ issues lined = true ∧ issues strayed = true ∧ issues lastHalf = true ∧ issues boot = true ∧
    (0x1C76#16).getLsbD 0 = false ∧ decode16 0x1C76 = .ok (.vaddF3216 0 3 7) ∧ (half boot 0x20000).1 = some 0 ∧
    decode16 0 = .error .illegalEncoding ∧ (half coded 0x20002).1 = some 0x0059 ∧ decode32 (0x0059#16 ++ 0x4481#16) = .ok (.add 9 10 11) := by
  decide +kernel
/-- Words at the program counter: a prefix with a reserved bit set before a word, and a cpyt of v32 with an odd pair. -/
def placed (a b : Nat) : State := { boot with mem := { boot.mem with home := Mem.write boot.mem.home 0x20000 (leBytes 4 a ++ leBytes 4 b) } }
def badPfx : Nat := 0x8020007F
def lateCpyt : BitVec 32 := 0x100C003B
/-- The code of the fault that the next instruction ends with. -/
def endsWith (s : State) (c : Nat) : Bool := gives (step s) fun t => decide (t.f.cause.toNat = c) && decide (t.f.st = .free)
theorem witness_StepRunsDecoded_faults :
    decode32 (BitVec.ofNat 32 badPfx) = .error .reservedField ∧ OfMajor (BitVec.ofNat 32 badPfx) 0x3F ∧ issues (placed badPfx 0x5) = true ∧
      (half (placed badPfx 0x5) 0x20004).1 = some 5 ∧ Prefixable 0x0D8C522D ∧ ¬ Prefixable 0x5 ∧ ¬ Prefixable 0x08000031 ∧ Prefixable 0x04000031 ∧
      decode32 0x0D8C522D = .ok (.vfma 6 0 4 5 6) ∧ (0x8020607F#32).extractLsb' 12 3 = 6 ∧ decode32 0x4B = .error .illegalEncoding ∧
      decode32 lateCpyt = .error .misalignedGroup ∧ LateField boot lateCpyt ∧
      ¬ LateField { boot with f := boot.f.setSreg (fieldB lateCpyt) (1 <<< 41) } lateCpyt ∧ ¬ OfMajor lateCpyt 0x3F := by
  unfold OfMajor Prefixable LateField OfMajor
  decide +kernel
theorem test_bad_prefix : endsWith (placed badPfx 0x0D8C522D) 0x02 = true ∧ endsWith (placed badPfx 0x5) 0x03 = true ∧ endsWith (placed badPfx 0x4B) 0x01 = true ∧
    endsWith (placed badPfx 0) 0x01 = true ∧ endsWith (placed badPfx 0x1C76) 0x03 = true ∧ endsWith (placed 0x8020607F 0x0D8C522D) 0x03 = true := by decide +kernel
theorem test_late_field : endsWith (placed lateCpyt.toNat 0) 0x02 = true ∧
    endsWith { placed lateCpyt.toNat 0 with f := boot.f.setSreg (fieldB lateCpyt) (1 <<< 41) } 0x04 = true ∧ endsWith (placed 0x00800023 0) 0x02 = true ∧
    endsWith (placed 0x4B 0) 0x01 = true ∧ endsWith (placed 0 0) 0x01 = true := by decide +kernel
theorem test_fetch_faults : endsWith strayed 0x06 = true ∧ endsWith lastHalf 0x06 = true ∧ endsWith { strayed with agenda := [.issue 0] } 0x06 = true ∧
    endsWith { lastHalf with agenda := [.issue 0] } 0x06 = true := by decide +kernel
def events (i : Instr) : State := { boot with agenda := [.event i Subject.none, .issue 0] }
def happens (h : Happening) : State := { boot with agenda := [.happen h Subject.none, .issue 0] }
theorem witness_StepRunsDecoded_agenda : (events .arithmeticClockCycle).urgentMove = none ∧ (happens (.softLimit 3)).urgentMove = none ∧
    Instr.arithmeticClockCycle.isEncoded = false ∧ (events .arithmeticClockCycle).permits .arithmeticClockCycle = true ∧ Instr.done.isEncoded = true ∧
    (events .powerOn).permits .powerOn = false := by decide +kernel
theorem witness_StepRunsDecoded_issue : ({ coded with agenda := [.issue 0] } : State).urgentMove = none ∧
    (∃ t, (coded.turnTo 0).fetch = (.ok (.add 9 10 11), t)) ∧ (coded.turnTo 0).canIssue (coded.turnTo 0).f = true ∧
    (coded.turnTo 1).canIssue (coded.turnTo 1).f = false := ⟨by decide +kernel, fetches (by decide +kernel), by decide +kernel, by decide +kernel⟩
/-- No firing is there; nothing waits, or a put does. -/
def resting (puts : List PendingPut) : State :=
  { boot with f := Firing.idle 0, lcores := [], net := { boot.net with puts := puts } }
def emptyPut : PendingPut := { fk := 0, seqno := 0, launch := 0, ctx := 0, pcore := 0, parts := [], far := false, ctr := none }
theorem witness_StepRunsDecoded_others : (dispatching entryPip).agenda = [] ∧ (dispatching entryPip).urgentMove = some (eventOn .dispatch 0 0) ∧
    resuming.urgentMove = some (eventOn .resumption 0 0) ∧ (resting []).pkg.power = .active ∧ (resting []).urgentMove = none ∧
    (resting []).canIssue (resting []).f = false ∧ (resting []).firings = [] ∧ ((resting []).pending.all fun m => !(resting []).takes m) = true ∧
    ((resting [emptyPut]).pending.find? (resting [emptyPut]).takes).isSome = true := by decide +kernel
theorem test_step_softLimit : gives (step (happens (.softLimit 3))) (fun t => decide (t.pkg.softLimit = 3)) = true := by decide +kernel
theorem test_step_add : gives (step coded) (fun t => decide (t.f.pc = 0x20004)) = true := by decide +kernel
theorem test_step_event : gives (step (events .arithmeticClockCycle)) (fun t => decide (t.cycle = 1) && decide (t.agenda = [.issue 0])) = true := by
  decide +kernel
theorem witness_DecodeEncode : (Instr.add 9 10 11).isEncoded = true ∧ (Instr.add 9 10 11).wellFormed = true ∧
    decode [0x81, 0x44, 0x59, 0x00, 0xFF] = .ok (.add 9 10 11, [0xFF]) := by decide
theorem witness_StepKeepsMemoryForm : coded.mem.wf = true ∧ ∃ t, step coded = .next t := by
  refine ⟨by decide +kernel, ?_⟩
  have h := test_step_add
  revert h
  cases h : step coded with
  | next t => exact fun _ => ⟨t, rfl⟩
  | fault _ => exact fun x => nomatch x
  | refused _ => exact fun x => nomatch x
theorem witness_DecodeWords : (0x4B : BitVec 32).getLsbD 0 = true ∧ (0x7D : BitVec 32).getLsbD 0 = true ∧
    0x25 ≤ ((0x4B : BitVec 32).extractLsb' 1 6).toNat ∧ ((0x7D : BitVec 32).extractLsb' 1 6).toNat ≤ 0x3E := by decide

end Sys2Proof.Tests
end

/-! PROOFS. The scalar integer instructions, the bit operations, the branches and jumps (R102 to R107): the facts about words that their
results rest on, how their majors decode, and the statements settled. -/

namespace Sys2Proof

/-! ## The last checks of a word (R76, R79) -/

/-- A well-formed instruction passes every last check but that of the fields that must be zero. -/
theorem finish_of_wellFormed (w zeros : BitVec 32) {i : Instr} (h : i.wellFormed = true) :
    finish w zeros i = if w &&& zeros = 0 then .ok i else .error .reservedField := by
  simp only [Instr.wellFormed, Bool.and_eq_true, Bool.not_eq_true'] at h
  obtain ⟨⟨⟨hi, hf⟩, hg⟩, -⟩ := h
  simp [finish, hi, hf, hg]

theorem finish_no_zeros (w : BitVec 32) {i : Instr} (h : i.wellFormed = true) : finish w 0 i = .ok i :=
  (finish_of_wellFormed w 0 h).trans (if_pos BitVec.and_zero)

/-- A word is zero under the mask of a field exactly when the field is zero. -/
theorem and_fieldMask_eq_zero_iff (w : BitVec 32) (k n : Nat) :
    w &&& ((BitVec.allOnes n).zeroExtend 32 <<< k) = 0 ↔ w.extractLsb' k n = 0 := by
  constructor <;> intro h <;> ext i hi
  · have e := congrArg (·.getLsbD (k + i)) h
    simp [hi] at e ⊢
    grind
  · have e := congrArg (·.getLsbD (i - k)) h
    simp at e ⊢
    grind

end Sys2Proof

namespace Sys2Proof.Machine

open Sys2Proof

/-! ## Words as integers -/

section
variable (x y : Word)

theorem word_sub_eq_ofInt : x - y = BitVec.ofInt 64 (x.toInt - y.toInt) := by
  rw [Int.sub_eq_add_neg, BitVec.ofInt_add, BitVec.ofInt_neg, BitVec.ofInt_toInt, BitVec.ofInt_toInt, BitVec.sub_eq_add_neg]

theorem word_mul_eq_ofInt : x * y = BitVec.ofInt 64 (x.toInt * y.toInt) := by
  rw [BitVec.ofInt_mul, BitVec.ofInt_toInt, BitVec.ofInt_toInt]

theorem word_shiftLeft_eq_ofNat (n : Nat) : x <<< n = BitVec.ofNat 64 (x.toNat * 2 ^ n) :=
  BitVec.eq_of_toNat_eq (by rw [BitVec.toNat_shiftLeft, Nat.shiftLeft_eq, BitVec.toNat_ofNat])

theorem word_shiftRight_eq_ofNat (n : Nat) : x >>> n = BitVec.ofNat 64 (x.toNat / 2 ^ n) := by
  rw [← Nat.shiftRight_eq_div_pow, ← BitVec.toNat_ushiftRight, BitVec.ofNat_toNat, BitVec.setWidth_eq]

theorem word_sshiftRight_eq_ofInt (n : Nat) : x.sshiftRight n = BitVec.ofInt 64 (x.toInt / (2 ^ n : Nat)) := by
  rw [BitVec.sshiftRight_eq, Int.shiftRight_eq_div_pow]

theorem smaller_eq_ofInt_min : (if y.slt x then y else x) = BitVec.ofInt 64 (min x.toInt y.toInt) := by
  simp [min_comm x.toInt, min_def_lt, apply_ite (BitVec.ofInt 64), BitVec.slt_eq_decide]

theorem greater_eq_ofInt_max : (if x.slt y then y else x) = BitVec.ofInt 64 (max x.toInt y.toInt) := by
  simp [max_def_lt, apply_ite (BitVec.ofInt 64), BitVec.slt_eq_decide]

theorem smaller_eq_ofNat_min : (if y.ult x then y else x) = BitVec.ofNat 64 (min x.toNat y.toNat) := by
  simp [min_comm x.toNat, min_def_lt, apply_ite (BitVec.ofNat 64), BitVec.ult_eq_decide]

theorem greater_eq_ofNat_max : (if x.ult y then y else x) = BitVec.ofNat 64 (max x.toNat y.toNat) := by
  simp [max_def_lt, apply_ite (BitVec.ofNat 64), BitVec.ult_eq_decide]

theorem word_add_signExtend {n : Nat} (i : BitVec n) : x + i.signExtend 64 = BitVec.ofInt 64 (x.toInt + i.toInt) := by
  rw [BitVec.ofInt_add, BitVec.ofInt_toInt, BitVec.signExtend]

theorem word_add_signExtend_shiftLeft {n : Nat} (i : BitVec n) (k : Nat) :
    x + i.signExtend 64 <<< k = BitVec.ofInt 64 (x.toInt + i.toInt * (2 ^ k : Nat)) := by
  have hk : BitVec.twoPow 64 k = BitVec.ofNat 64 (2 ^ k) := BitVec.eq_of_toNat_eq (by simp)
  rw [BitVec.ofInt_add, BitVec.ofInt_toInt, BitVec.ofInt_mul, BitVec.ofInt_natCast, BitVec.shiftLeft_eq_mul_twoPow, hk,
    BitVec.signExtend]

/-- The 32-bit pattern of lui, sign-extended, is the immediate times 2^13 (R103). -/
theorem signExtend_append_zero (i : BitVec 19) :
    (i ++ (0 : BitVec 13) : BitVec 32).signExtend 64 = BitVec.ofInt 64 (i.toInt * 8192) := by
  have hn : (i ++ (0 : BitVec 13) : BitVec 32).toNat = i.toNat * 8192 := by
    rw [BitVec.toNat_append, Nat.shiftLeft_eq]
    exact Nat.or_zero _
  have hi : (i ++ (0 : BitVec 13) : BitVec 32).toInt = i.toInt * 8192 := by
    simp only [BitVec.toInt_eq_toNat_cond, hn]
    omega
  rw [BitVec.signExtend, hi]

/-- The quotient that overflows wraps to −2^63, as R104 has it. -/
theorem divSigned_eq : divSigned x y =
    if y = 0 then BitVec.allOnes 64
    else if x = BitVec.intMin 64 ∧ y = BitVec.allOnes 64 then BitVec.intMin 64
    else BitVec.ofInt 64 (x.toInt.tdiv y.toInt) := by
  unfold divSigned
  split_ifs with _ h
  · rfl
  · rw [h.1, h.2]; rfl
  · rfl

/-- Beside the quotient that overflows the remainder is 0 (R104). -/
theorem remSigned_eq : remSigned x y =
    if y = 0 then x
    else if x = BitVec.intMin 64 ∧ y = BitVec.allOnes 64 then 0
    else BitVec.ofInt 64 (x.toInt.tmod y.toInt) := by
  unfold remSigned
  split_ifs with _ h
  · rfl
  · rw [h.1, h.2]; rfl
  · rfl

end

/-! ## Counting and reversing bits -/

theorem trailingZeros_le (n x : Nat) : trailingZeros n x ≤ n := by
  induction n generalizing x with
  | zero => exact le_rfl
  | succ n ih =>
    have := ih (x / 2)
    unfold trailingZeros
    split <;> omega

theorem testBit_of_lt_trailingZeros (n x k : Nat) (h : k < trailingZeros n x) : x.testBit k = false := by
  induction n generalizing x k with
  | zero => simp [trailingZeros] at h
  | succ n ih =>
    unfold trailingZeros at h
    split at h
    · omega
    next hx =>
    cases k with
    | zero => simpa [Nat.testBit_zero] using hx
    | succ k => rw [Nat.testBit_succ]; exact ih _ k (by omega)

theorem testBit_trailingZeros (n x : Nat) (h : trailingZeros n x < n) : x.testBit (trailingZeros n x) = true := by
  induction n generalizing x with
  | zero => omega
  | succ n ih =>
    unfold trailingZeros at h ⊢
    split
    next hx => simpa [Nat.testBit_zero] using hx
    next hx =>
    rw [if_neg hx] at h
    rw [Nat.add_comm, Nat.testBit_succ]
    exact ih _ (by omega)

theorem reverseBits_lt (n x : Nat) : reverseBits n x < 2 ^ n := by
  induction n generalizing x with
  | zero => simp [reverseBits]
  | succ n ih =>
    have hr := ih (x / 2)
    have hb : x % 2 * 2 ^ n ≤ 1 * 2 ^ n := Nat.mul_le_mul_right _ (by omega)
    unfold reverseBits
    omega

theorem testBit_reverseBits (n x k : Nat) (h : k < n) : (reverseBits n x).testBit k = x.testBit (n - 1 - k) := by
  induction n generalizing x k with
  | zero => omega
  | succ n ih =>
    rw [reverseBits, Nat.mul_comm, Nat.testBit_two_pow_mul_add _ (reverseBits_lt n _)]
    split
    next hk => rw [ih _ _ hk, ← Nat.testBit_succ]; congr 1; omega
    next hk => simp [show k = n by omega, Nat.testBit_zero]

theorem popCount_eq_countP (n x : Nat) : popCount n x = (List.range n).countP fun k => x.testBit k := by
  induction n generalizing x with
  | zero => rfl
  | succ n ih =>
    have e : (if x.testBit 0 then 1 else 0) = x % 2 := by rw [Nat.testBit_zero]; grind
    rw [List.range_succ_eq_map, List.countP_cons, List.countP_map, popCount, ih, e, Nat.add_comm]
    simp only [Function.comp_def, Nat.succ_eq_add_one, Nat.testBit_succ]

/-! ## The bits of bytes (R2) -/

theorem testBit_leNat (b : List Byte) (k : Nat) : (leNat b).testBit k = (b.getD (k / 8) 0).getLsbD (k % 8) := by
  induction b generalizing k with
  | nil => simp [leNat]
  | cons x r ih =>
    rw [leNat, Nat.add_comm, show 256 = 2 ^ 8 from rfl, Nat.testBit_two_pow_mul_add _ x.isLt]
    split
    next h => rw [Nat.div_eq_of_lt h, Nat.mod_eq_of_lt h]; rfl
    next h => rw [ih, show k / 8 = (k - 8) / 8 + 1 by omega, show k % 8 = (k - 8) % 8 by omega, List.getD_cons_succ]

theorem leBytes_getD (n x k : Nat) (h : k < n) : (leBytes n x).getD k 0 = BitVec.ofNat 8 (x / 256 ^ k) := by
  induction n generalizing x k with
  | zero => omega
  | succ n ih =>
    cases k with
    | zero => simp [leBytes]
    | succ k => simpa [leBytes, Nat.pow_succ', Nat.div_div_eq_div_mul] using ih (x / 256) k (by omega)

/-! ## Bit `k` of what a bit operation computes (R105) -/

section
variable (x y : Word) {k : Nat} (hk : k < 64)
include hk

theorem getLsbD_rev8 : (leWord (leBytes 8 x.toNat).reverse).getLsbD k = x.getLsbD (8 * (7 - k / 8) + k % 8) := by
  have hb : (leBytes 8 x.toNat).reverse.getD (k / 8) 0 = BitVec.ofNat 8 (x.toNat / 256 ^ (7 - k / 8)) := by
    rw [← leBytes_getD 8 _ _ (by omega)]
    simp [List.getD, show k / 8 < 8 by omega, show 7 - k / 8 < 8 by omega]
  have hp : 256 ^ (7 - k / 8) = 2 ^ (8 * (7 - k / 8)) := (Nat.pow_mul 2 8 _).symm
  rw [leWord, BitVec.getLsbD_ofNat, testBit_leNat, hb, BitVec.getLsbD_ofNat, hp, Nat.testBit_div_two_pow]
  simp [hk, Nat.mod_lt, BitVec.getLsbD, Nat.add_comm]

theorem getLsbD_brev : (BitVec.ofNat 64 (reverseBits 64 x.toNat)).getLsbD k = x.getLsbD (63 - k) := by
  rw [BitVec.getLsbD_ofNat, testBit_reverseBits _ _ _ hk]
  simp [hk, BitVec.getLsbD]

theorem getLsbD_rotl {r : Nat} (hr : r < 64) : (x.rotateLeft r).getLsbD k = x.getLsbD ((k + 64 - r) % 64) := by
  rw [BitVec.getLsbD_rotateLeft, Nat.mod_eq_of_lt hr]
  by_cases h : k < r
  · rw [show (k + 64 - r) % 64 = 64 - r + k by omega]; simp [h]
  · rw [show (k + 64 - r) % 64 = k - r by omega]; simp [h, hk]

theorem getLsbD_rotr {r : Nat} (hr : r < 64) : (x.rotateRight r).getLsbD k = x.getLsbD ((k + r) % 64) := by
  rw [BitVec.getLsbD_rotateRight, Nat.mod_eq_of_lt hr]
  by_cases h : k < 64 - r
  · rw [show (k + r) % 64 = r + k by omega]; simp [h]
  · rw [show (k + r) % 64 = k - (64 - r) by omega]; simp [h, hk]

theorem getLsbD_bext (p n : Nat) :
    (BitVec.ofNat 64 (x.toNat / 2 ^ p % 2 ^ n)).getLsbD k = (decide (k < n) && x.getLsbD (p + k)) := by
  rw [BitVec.getLsbD_ofNat, Nat.testBit_mod_two_pow, Nat.testBit_div_two_pow, Nat.add_comm k]
  simp [hk, BitVec.getLsbD]

theorem getLsbD_fieldMask (p n : Nat) : (BitVec.ofNat 64 ((2 ^ n - 1) * 2 ^ p)).getLsbD k = decide (p ≤ k ∧ k < p + n) := by
  rw [BitVec.getLsbD_ofNat, Nat.testBit_mul_two_pow, Nat.testBit_two_pow_sub_one, decide_eq_true hk, Bool.true_and,
    ← Bool.decide_and]
  exact decide_eq_decide.mpr (by omega)

theorem getLsbD_bins (p n : Nat) :
    ((y &&& ~~~ BitVec.ofNat 64 ((2 ^ n - 1) * 2 ^ p)) ||| ((x <<< p) &&& BitVec.ofNat 64 ((2 ^ n - 1) * 2 ^ p))).getLsbD k =
      if p ≤ k ∧ k < p + n then x.getLsbD (k - p) else y.getLsbD k := by
  rw [BitVec.getLsbD_or, BitVec.getLsbD_and, BitVec.getLsbD_and, BitVec.getLsbD_not, getLsbD_fieldMask hk, BitVec.getLsbD_shiftLeft]
  by_cases h : p ≤ k ∧ k < p + n <;> simp [h, hk]

end

end Sys2Proof.Machine

namespace Sys2Proof.Claims

open Sys2Proof Sys2Proof.Machine

/-! ## The frame of the scalar instructions (R79, R91, R106) -/

theorem issue_word_of_ready {s : State} (h : Ready s) (body : State → Eff) :
    s.issue .word body = .next (s.finish 4 (body s)) :=
  s.issue_of_ready .word body h.running nofun h.time h.room

theorem compute_of_ready {s : State} (h : Ready s) (d : BitVec 6) (v : Word) :
    s.compute d v = .next (retired s (s.setSreg d v)) :=
  issue_word_of_ready h _

theorem branch_of_ready {s : State} (h : Ready s) (taken : Bool) (off : Word) :
    s.branch taken off = .next (if taken then s.retireTo (s.f.pc + off) else retired s s) := by
  rw [State.branch, issue_word_of_ready h]
  cases taken <;> rfl

/-! ## Integer results (R102 to R104) -/

theorem truth_slt (x y : Word) : truth (x.slt y) = oneIf (x.toInt < y.toInt) := by
  simp [truth, oneIf, BitVec.slt_eq_decide]

theorem truth_ult (x y : Word) : truth (x.ult y) = oneIf (x.toNat < y.toNat) := by
  simp [truth, oneIf, BitVec.ult_eq_decide]

/-- A register or immediate instruction computes its result, in the order of the cases of `aluResult`. -/
theorem exec_of_aluResult {s : State} {i : Instr} {d : BitVec 6} {v : Word} (h : aluResult s i = some (d, v)) :
    exec i s = s.compute d v := by
  unfold aluResult at h
  split at h <;> cases h <;> refine congrArg (s.compute d) ?_
  · exact BitVec.add_def _ _
  · exact word_sub_eq_ofInt _ _
  · rfl
  · rfl
  · rfl
  · exact word_shiftLeft_eq_ofNat _ _
  · exact word_shiftRight_eq_ofNat _ _
  · exact word_sshiftRight_eq_ofInt _ _
  · exact truth_slt _ _
  · exact truth_ult _ _
  · exact smaller_eq_ofInt_min _ _
  · exact greater_eq_ofInt_max _ _
  · exact smaller_eq_ofNat_min _ _
  · exact greater_eq_ofNat_max _ _
  · rfl
  · exact word_add_signExtend _ _
  · exact signExtend_append_zero _
  · exact word_add_signExtend_shiftLeft _ _ _

theorem exec_of_mulDivResult {s : State} {i : Instr} {d : BitVec 6} {v : Word} (h : mulDivResult s i = some (d, v)) :
    exec i s = s.compute d v := by
  unfold mulDivResult at h
  split at h <;> cases h <;> refine congrArg (s.compute d) ?_
  · exact word_mul_eq_ofInt _ _
  · rfl
  · rfl
  · exact divSigned_eq _ _
  · rfl
  · exact remSigned_eq _ _
  · rfl

/-! ## Bit operations (R105) -/

theorem trailingZeroCount_trailingZeros (x : Word) : trailingZeroCount x (trailingZeros 64 x.toNat) := by
  refine ⟨trailingZeros_le _ _, Nat.eq_of_testBit_eq fun k => ?_, testBit_trailingZeros 64 x.toNat⟩
  rw [Nat.testBit_mod_two_pow, Nat.zero_testBit, Bool.and_eq_false_imp, decide_eq_true_eq]
  exact testBit_of_lt_trailingZeros 64 x.toNat k

theorem leadingZeroCount_leadingZeros (x : Word) : leadingZeroCount x (leadingZeros x) := by
  have rev (k : Nat) (h : k < 64) : x.toNat.testBit k = (reverseBits 64 x.toNat).testBit (63 - k) := by
    rw [testBit_reverseBits _ _ _ (by omega)]
    congr 1
    omega
  refine ⟨trailingZeros_le _ _, Nat.lt_pow_two_of_testBit _ fun k hk => ?_, fun h => Nat.ge_two_pow_of_testBit ?_⟩
  · rcases Nat.lt_or_ge k 64 with h | h
    · rw [rev k h]
      exact testBit_of_lt_trailingZeros 64 _ _ (by unfold leadingZeros at hk; omega)
    · exact BitVec.getLsbD_of_ge x k h
  · rw [rev _ (by omega), show 63 - (63 - leadingZeros x) = leadingZeros x by omega]
    exact testBit_trailingZeros _ _ h

/-- From place `j` on, the sum of shifted copies of `a` is the model's carry-less product of what is left of `b`. -/
theorem foldl_shifted_eq_carryless (a b : Word) (n j : Nat) (acc : BitVec 128) :
    (List.range' j n).foldl (fun acc i => if b.getLsbD i then acc ^^^ (a.zeroExtend 128 <<< i) else acc) acc =
      acc ^^^ BitVec.ofNat 128 (carryless n (a.toNat * 2 ^ j) (b.toNat / 2 ^ j)) := by
  induction n generalizing j acc with
  | zero => simp [carryless]
  | succ n ih =>
    have hbit : b.getLsbD j = true ↔ b.toNat / 2 ^ j % 2 = 1 := by simp [BitVec.getLsbD, Nat.testBit_eq_decide_div_mod_eq]
    have hcopy : BitVec.ofNat 128 (a.toNat * 2 ^ j) = a.zeroExtend 128 <<< j :=
      BitVec.eq_of_toNat_eq (by simp [Nat.shiftLeft_eq])
    have ha : 2 * (a.toNat * 2 ^ j) = a.toNat * 2 ^ (j + 1) := by ring
    have hb : b.toNat / 2 ^ j / 2 = b.toNat / 2 ^ (j + 1) := by rw [Nat.div_div_eq_div_mul, Nat.pow_succ]
    rw [List.range'_succ, List.foldl_cons, ih, carryless, BitVec.ofNat_xor, ha, hb, ← BitVec.xor_assoc]
    simp only [hbit]
    split
    · rw [hcopy]
    · rw [BitVec.xor_zero]

theorem clProduct_eq_carryless (a b : Word) : clProduct a b = BitVec.ofNat 128 (carryless 64 a.toNat b.toNat) := by
  simpa [clProduct, ← List.range_eq_range'] using foldl_shifted_eq_carryless a b 64 0 0

theorem getLsbD_clmul (x y : Word) {k : Nat} (hk : k < 64) :
    (BitVec.ofNat 64 (carryless 64 x.toNat y.toNat)).getLsbD k = (clProduct x y).getLsbD k := by
  rw [clProduct_eq_carryless, BitVec.getLsbD_ofNat, BitVec.getLsbD_ofNat]
  simp [hk, show k < 128 by omega]

theorem getLsbD_clmulh (x y : Word) {k : Nat} (hk : k < 64) :
    (BitVec.ofNat 64 (carryless 64 x.toNat y.toNat / 2 ^ 64)).getLsbD k = (clProduct x y).getLsbD (64 + k) := by
  rw [clProduct_eq_carryless, BitVec.getLsbD_ofNat, BitVec.getLsbD_ofNat, Nat.testBit_div_two_pow, Nat.add_comm k]
  simp [hk, show 64 + k < 128 by omega]

/-- A bit operation computes a word with the bits of `bitResult`, in the order of its cases. -/
theorem exec_of_bitResult {s : State} {i : Instr} {d : BitVec 6} {f : Nat → Bool} (h : bitResult s i = some (d, f)) :
    ∃ v : Word, (∀ k, k < 64 → v.getLsbD k = f k) ∧ exec i s = s.compute d v := by
  have hlt (b : Word) : b.toNat % 64 < 64 := Nat.mod_lt _ (by decide)
  unfold bitResult at h
  split at h <;> cases h <;> refine ⟨_, fun k hk => ?_, rfl⟩
  · exact getLsbD_rev8 _ hk
  · exact getLsbD_brev _ hk
  · exact getLsbD_rotl _ hk (hlt _)
  · exact getLsbD_rotr _ hk (hlt _)
  · exact getLsbD_bext _ hk _ _
  · exact getLsbD_bins _ _ hk _ _
  · exact getLsbD_clmul _ _ hk
  · exact getLsbD_clmulh _ _ hk

/-! ## Branches and jumps (R106, R107) -/

theorem pc_add_halfwords (s : State) {n : Nat} (o : BitVec n) : s.f.pc + halfwords o = halfwordsOn s o.toInt := by
  rw [halfwords, word_add_signExtend_shiftLeft, Int.mul_comm]
  rfl

/-- A branch tests its condition and goes by its offset, in the order of the cases of `branchOf`. -/
theorem exec_of_branchOf {s : State} {i : Instr} {p : Prop} {n : Int} (h : branchOf s i = some (p, n)) :
    ∃ (taken : Bool) (off : Word), exec i s = s.branch taken off ∧ (taken = true ↔ p) ∧ s.f.pc + off = halfwordsOn s n := by
  unfold branchOf at h
  split at h <;> cases h <;> refine ⟨_, _, rfl, ?_, pc_add_halfwords s _⟩
  · exact beq_iff_eq
  · exact bne_iff_ne
  · exact BitVec.slt_iff_toInt_lt
  · simp [BitVec.slt_eq_decide]
  · exact BitVec.ult_iff_lt
  · simp [BitVec.ult_eq_decide]
  · exact bne_iff_ne
  · exact beq_iff_eq
  · exact beq_iff_eq

theorem exec_branch_of_ready {s : State} (hs : Ready s) {i : Instr} {p : Prop} {n : Int} (h : branchOf s i = some (p, n)) :
    (p → exec i s = .next (s.retireTo (halfwordsOn s n))) ∧ (¬p → exec i s = .next (retired s s)) := by
  obtain ⟨taken, off, hexec, htaken, htarget⟩ := exec_of_branchOf h
  rw [hexec, branch_of_ready hs, htarget]
  exact ⟨fun hp => by rw [if_pos (htaken.mpr hp)], fun hp => by rw [if_neg (mt htaken.mp hp)]⟩

theorem exec_j_of_ready {s : State} (hs : Ready s) (i : BitVec 19) : exec (.j i) s = .next (s.retireTo (halfwordsOn s i.toInt)) := by
  change execJ i s = _
  rw [execJ, issue_word_of_ready hs, State.finish_jump, pc_add_halfwords]

theorem exec_jal_of_ready {s : State} (hs : Ready s) (d : BitVec 6) (i : BitVec 19) :
    exec (.jal d i) s = .next ((s.setSreg d (s.f.pc + 4)).retireTo (halfwordsOn s i.toInt)) := by
  change execJal d i s = _
  rw [execJal, issue_word_of_ready hs, State.finish_jump, pc_add_halfwords]

/-- jalr by the lowest bit of its target, which is the sum of the old sa and the immediate (R107). -/
theorem exec_jalr_of_ready {s : State} (hs : Ready s) (d a : BitVec 6) (o : BitVec 13) {t : Word}
    (ht : t = BitVec.ofInt 64 ((s.sreg a).toInt + o.toInt)) :
    exec (.jalr d a o) s =
      .next (if t.toNat % 2 = 1 then s.takeFault 0x07 0 t 0 else (s.setSreg d (s.f.pc + 4)).retireTo t) := by
  have hodd : t.getLsbD 0 = true ↔ t.toNat % 2 = 1 := by simp [BitVec.getLsbD, Nat.testBit_zero]
  change execJalr d a o s = _
  rw [execJalr, issue_word_of_ready hs]
  simp only [word_add_signExtend, ← ht, hodd]
  split <;> rfl

/-! ## Decoding by major (R75, R80) -/

theorem decode32_major00 {w : BitVec 32} (h : OfMajor w 0x00) :
    decode32 w = coded (aluCodes (fieldD w) (fieldA w) (fieldB w)) (fieldFn7 w) := by
  rw [decode32, h.2, fieldFn7]
  change decodeMajor00 w = _
  unfold decodeMajor00
  generalize (w.extractLsb' 25 7).toNat = n
  match n with
  | 0 | 1 | 2 | 3 | 4 | 5 | 6 | 7 | 8 | 9 | 10 | 11 | 12 | 13 | 14 => exact finish_no_zeros w rfl
  | _ + 15 => rfl

theorem decode32_major01 {w : BitVec 32} (h : OfMajor w 0x01) :
    decode32 w = .ok (.addi (fieldD w) (fieldA w) (w.extractLsb' 19 13)) := by
  rw [decode32, h.2]
  exact finish_no_zeros w rfl

theorem decode32_major02 {w : BitVec 32} (h : OfMajor w 0x02) : decode32 w = .ok (.lui (fieldD w) (w.extractLsb' 13 19)) := by
  rw [decode32, h.2]
  exact finish_no_zeros w rfl

theorem decode32_major03 {w : BitVec 32} (h : OfMajor w 0x03) : decode32 w = .ok (.auipc (fieldD w) (w.extractLsb' 13 19)) := by
  rw [decode32, h.2]
  exact finish_no_zeros w rfl

theorem decode32_major04 {w : BitVec 32} (h : OfMajor w 0x04) :
    decode32 w = coded (mulDivCodes (fieldD w) (fieldA w) (fieldB w)) (fieldFn7 w) := by
  rw [decode32, h.2, fieldFn7]
  change decodeMajor04 w = _
  unfold decodeMajor04
  generalize (w.extractLsb' 25 7).toNat = n
  match n with
  | 0 | 1 | 2 | 3 | 4 | 5 | 6 => exact finish_no_zeros w rfl
  | _ + 7 => rfl

theorem decode32_major05 {w : BitVec 32} (h : OfMajor w 0x05) : decode32 w =
    if fieldFn7 w ≤ 4 then
      if fieldB w = 0 then coded (oneSourceCodes (fieldD w) (fieldA w)) (fieldFn7 w) else .error .reservedField
    else if fieldFn7 w ≤ 10 then coded (twoSourceCodes (fieldD w) (fieldA w) (fieldB w)) (fieldFn7 w - 5)
    else if fieldFn7 w = 11 then if fieldA w = 0 then .ok (.draw (fieldD w) (fieldB w)) else .error .reservedField
    else .error .illegalEncoding := by
  have hA : w &&& 0x0007E000 = 0 ↔ fieldA w = 0 := and_fieldMask_eq_zero_iff w 13 6
  have hB : w &&& 0x01F80000 = 0 ↔ fieldB w = 0 := and_fieldMask_eq_zero_iff w 19 6
  rw [decode32, h.2, fieldFn7]
  change decodeMajor05 w = _
  unfold decodeMajor05
  generalize (w.extractLsb' 25 7).toNat = n
  match n with
  | 0 | 1 | 2 | 3 | 4 =>
    refine (finish_of_wellFormed w _ rfl).trans ?_
    simp only [hB]
    rfl
  | 5 | 6 | 7 | 8 | 9 | 10 => exact finish_no_zeros w rfl
  | 11 =>
    refine (finish_of_wellFormed w _ rfl).trans ?_
    simp only [hA]
    rfl
  | _ + 12 => simp

theorem decode32_major08 {w : BitVec 32} (h : OfMajor w 0x08) : decode32 w =
    coded (branchCodes (w.extractLsb' 10 6) (w.extractLsb' 16 6) (w.extractLsb' 22 10)) (w.extractLsb' 7 3).toNat := by
  rw [decode32, h.2]
  change decodeMajor08 w = _
  unfold decodeMajor08
  generalize (w.extractLsb' 7 3).toNat = n
  match n with
  | 0 | 1 | 2 | 3 | 4 | 5 | 6 | 7 => exact finish_no_zeros w rfl
  | _ + 8 => rfl

theorem decode32_major09 {w : BitVec 32} (h : OfMajor w 0x09) : decode32 w = .ok (.bz (fieldD w) (w.extractLsb' 13 19)) := by
  rw [decode32, h.2]
  exact finish_no_zeros w rfl

theorem decode32_major0A {w : BitVec 32} (h : OfMajor w 0x0A) :
    decode32 w = if fieldD w = 0 then .ok (.j (w.extractLsb' 13 19)) else .error .reservedField := by
  have hD : w &&& 0x00001F80 = 0 ↔ fieldD w = 0 := and_fieldMask_eq_zero_iff w 7 6
  rw [decode32, h.2]
  refine (finish_of_wellFormed w _ rfl).trans ?_
  simp only [hD]

theorem decode32_major0B {w : BitVec 32} (h : OfMajor w 0x0B) : decode32 w = .ok (.jal (fieldD w) (w.extractLsb' 13 19)) := by
  rw [decode32, h.2]
  exact finish_no_zeros w rfl

theorem decode32_major0C {w : BitVec 32} (h : OfMajor w 0x0C) :
    decode32 w = .ok (.jalr (fieldD w) (fieldA w) (w.extractLsb' 19 13)) := by
  rw [decode32, h.2]
  exact finish_no_zeros w rfl

/-! ## The statements -/

/-- Settles O2: each instruction computes its result, and a ready firing's computation writes the register and retires. -/
theorem scalarIntegerResults : Obligations.ScalarIntegerResults := by
  refine ⟨fun s i d v hs h => ?_,
    fun w => ⟨decode32_major00, decode32_major01, decode32_major02, decode32_major03, decode32_major04⟩⟩
  rw [← compute_of_ready hs]
  exact h.elim exec_of_aluResult exec_of_mulDivResult

/-- Settles O3: the counts are those of the lowest 1 of the word or of its reverse, and the other results are compared bit by bit. -/
theorem bitOperationResults : Obligations.BitOperationResults := by
  refine ⟨fun s d a hs => ⟨?clz, ?ctz, ?popc, fun i f h => ?bits⟩, fun w hw => ?words⟩
  case clz => exact ⟨_, leadingZeroCount_leadingZeros _, compute_of_ready hs d _⟩
  case ctz => exact ⟨_, trailingZeroCount_trailingZeros _, compute_of_ready hs d _⟩
  case popc =>
    refine (compute_of_ready hs d _).trans ?_
    rw [popCount_eq_countP]
    rfl
  case bits =>
    obtain ⟨v, hv, hexec⟩ := exec_of_bitResult h
    exact ⟨v, hv, by rw [hexec, compute_of_ready hs]⟩
  case words =>
    rw [decode32_major05 hw]
    refine ⟨fun h => ?_, fun h₁ h₂ => ?_, fun h => ?_, fun h => ?_⟩
    · rw [if_pos h]
    · rw [if_neg (by omega), if_pos h₂]
    · rw [if_neg (by omega), if_neg (by omega), if_pos h]
    · rw [if_neg (by omega), if_neg (by omega), if_neg (by omega)]

/-- Settles O4: a branch by its condition and offset, jalr by the parity of its target. -/
theorem branchAndJumpResults : Obligations.BranchAndJumpResults := by
  refine ⟨fun s hs => ⟨fun i p n => exec_branch_of_ready hs, fun d a i o => ?_⟩,
    fun w => ⟨decode32_major08, decode32_major09, decode32_major0A, decode32_major0B, decode32_major0C⟩⟩
  have hjalr := exec_jalr_of_ready hs d a o rfl
  refine ⟨exec_j_of_ready hs i, exec_jal_of_ready hs d i, fun h => ?even, fun h => ?odd⟩
  case even => rw [hjalr, if_neg (by omega)]
  case odd => rw [hjalr, if_pos h]

end Sys2Proof.Claims

/-! PROOFS. Taking a fault (R42, R98, R208 to R210, R337): the fields that it writes, how a firing stops, what the resolving of its guards and
the end of its launch keep, and the statement settled. -/

namespace Sys2Proof.Machine

open Sys2Proof

/-! ## The fields of CAUSE and REGSTAT (R98, R203, R209) -/

section

variable (r : Word)

theorem fld_eq_toNat_extractLsb' (hi lo : Nat) : fld r hi lo = (r.extractLsb' lo (hi + 1 - lo)).toNat := by
  rw [fld, bits, BitVec.extractLsb'_toNat, Nat.shiftRight_eq_div_pow]

theorem extractLsb'_withOutcome (o : Nat) : (withOutcome r o).extractLsb' 0 3 = BitVec.ofNat 3 o := by
  have hmask : (~~~(7 : Word)).extractLsb' 0 3 = 0#3 := by decide
  rw [withOutcome, BitVec.extractLsb'_or, BitVec.extractLsb'_and, hmask, BitVec.and_zero, BitVec.zero_or]
  apply BitVec.eq_of_toNat_eq
  simp

theorem fld_withOutcome {o : Nat} (h : o < 8) : fld (withOutcome r o) 2 0 = o := by
  rw [fld_eq_toNat_extractLsb', extractLsb'_withOutcome, BitVec.toNat_ofNat, Nat.mod_eq_of_lt h]

/-- The outcome lies below the count of attempts. -/
theorem extractLsb'_attempts_withOutcome {o : Nat} (h : o < 8) :
    (withOutcome r o).extractLsb' 16 16 = r.extractLsb' 16 16 := by
  have hmask : (~~~(7 : Word)).extractLsb' 16 16 = BitVec.allOnes 16 := by decide
  have hlow : (BitVec.ofNat 64 o).extractLsb' 16 16 = 0#16 := by
    apply BitVec.eq_of_toNat_eq
    simp only [BitVec.extractLsb'_toNat, BitVec.toNat_ofNat, Nat.shiftRight_eq_div_pow]
    omega
  rw [withOutcome, BitVec.extractLsb'_or, BitVec.extractLsb'_and, hmask, hlow, BitVec.and_allOnes, BitVec.or_zero]

theorem fld_nextAttempt_outcome : fld (nextAttempt r) 2 0 = 1 := fld_withOutcome _ (by decide)

theorem fld_nextAttempt_count : fld (nextAttempt r) 31 16 = min 65535 (fld r 31 16 + 1) := by
  have hmask : (~~~(0xFFFF0000 : Word)).extractLsb' 16 16 = 0#16 := by decide
  rw [fld_eq_toNat_extractLsb', nextAttempt, extractLsb'_attempts_withOutcome _ (by decide), BitVec.extractLsb'_or, BitVec.extractLsb'_and,
    hmask, BitVec.and_zero, BitVec.zero_or]
  simp only [BitVec.extractLsb'_toNat, BitVec.toNat_ofNat, Nat.shiftRight_eq_div_pow]
  omega

end

section

variable (m : BitVec 12) (c : Code)

/-- CAUSE holds both numbers without loss. -/
theorem toNat_cause : ((BitVec.ofNat 20 (m.toNat * 256 + c.toNat)).zeroExtend 64).toNat = m.toNat * 256 + c.toNat := by
  simp only [BitVec.truncate_eq_setWidth, BitVec.toNat_setWidth, BitVec.toNat_ofNat]
  omega

theorem fld_cause_code : fld ((BitVec.ofNat 20 (m.toNat * 256 + c.toNat)).zeroExtend 64) 5 0 = c.toNat := by
  rw [fld, toNat_cause, bits]
  omega

theorem fld_cause_trapCode : fld ((BitVec.ofNat 20 (m.toNat * 256 + c.toNat)).zeroExtend 64) 19 8 = m.toNat := by
  rw [fld, toNat_cause, bits]
  omega

end

/-! ## A firing that stops -/

/-- What a firing is once it has stopped (R42, R343). -/
def Firing.stop (g : Firing) : Firing :=
  { g with st := .free, wait := .none, ticket := none, away := false, slot := none,
           region := { g.region with isOpen := false, hold := [], reads := [] } }

section

variable (s : State)

theorem State.modFiring_f (k : Nat) (h : Firing → Firing) : (s.modFiring k h).f = if k = s.f.key then h s.f else s.f := by
  unfold State.modFiring State.setFiring
  split
  case isTrue e => rw [e, State.firing_self]
  case isFalse => rfl

theorem State.freeSlot_f (fk : Nat) (gone : Bool) :
    (s.freeSlot fk gone).f = if fk = s.f.key then { s.f with slot := none } else s.f := by
  rw [State.freeSlot, State.modPCore_f, State.modFiring_f]

@[simp] theorem State.freeSlot_launches (fk : Nat) (gone : Bool) : (s.freeSlot fk gone).launches = s.launches := by
  simp [State.freeSlot]

theorem State.firing_freeSlot (fk k : Nat) (gone : Bool) :
    (s.freeSlot fk gone).firing k = if k = fk then { s.firing fk with slot := none } else s.firing k :=
  s.firing_modFiring fk k _ (s.firing_key fk)

@[simp] theorem State.stopFiring_launches (fk : Nat) : (s.stopFiring fk).launches = s.launches := by
  simp [State.stopFiring]

theorem State.stopFiring_f (fk : Nat) : (s.stopFiring fk).f = if fk = s.f.key then s.f.stop else s.f := by
  rw [State.stopFiring, State.freeSlot_f, State.modFiring_f]
  by_cases h : fk = s.f.key
  · simp only [if_pos h]
    rfl
  · simp only [if_neg h]

theorem State.firing_stopFiring (fk k : Nat) :
    (s.stopFiring fk).firing k = if k = fk then (s.firing fk).stop else s.firing k := by
  rw [State.stopFiring, State.firing_freeSlot, State.firing_modFiring _ _ _ _ (s.firing_key fk),
    State.firing_modFiring _ _ _ _ (s.firing_key fk), if_pos rfl]
  split <;> rfl

/-- A firing that has stopped is left as it is by any further stop. -/
theorem State.stopFiring_f_of_stopped (h : s.f.stop = s.f) (fk : Nat) : (s.stopFiring fk).f = s.f := by
  rw [State.stopFiring_f, h, ite_self]

/-- Firings that stop one after another: each of them is free, and so is each that was free before. -/
theorem State.firing_foldl_stopFiring_free (fks : List Nat) (k : Nat) (h : k ∈ fks ∨ (s.firing k).st = .free) :
    ((fks.foldl State.stopFiring s).firing k).st = .free := by
  induction fks generalizing s with
  | nil => simpa using h
  | cons fk r ih =>
    refine ih _ ?_
    rw [State.firing_stopFiring]
    by_cases hk : k = fk
    · exact .inr (by rw [if_pos hk]; rfl)
    · rw [if_neg hk]
      exact h.imp_left fun hm => (List.mem_cons.mp hm).resolve_left hk

end

/-! ## Updates that reach no firing and no launch -/

/-- Every firing and every launch stays as it is. -/
structure State.KeepsFirings (s t : State) : Prop where
  f : t.f = s.f
  firings : t.firings = s.firings
  launches : t.launches = s.launches

section

variable {s t u : State}

theorem State.KeepsFirings.refl (s : State) : s.KeepsFirings s := ⟨rfl, rfl, rfl⟩

theorem State.KeepsFirings.trans (h : s.KeepsFirings t) (i : t.KeepsFirings u) : s.KeepsFirings u :=
  ⟨i.f.trans h.f, i.firings.trans h.firings, i.launches.trans h.launches⟩

theorem State.KeepsFirings.firing (h : s.KeepsFirings t) (k : Nat) : t.firing k = s.firing k := by
  rw [State.firing, State.firing, h.f, h.firings]

theorem State.KeepsFirings.foldl {α : Type} {g : State → α → State} (hg : ∀ (t : State) a, t.KeepsFirings (g t a)) (l : List α) (s : State) :
    s.KeepsFirings (l.foldl g s) :=
  List.foldlRecOn l g (.refl s) fun t ht a _ => ht.trans (hg t a)

end

section

variable (s : State)

theorem State.keepsFirings_setLc (lk : Nat) (c : LCore) : s.KeepsFirings (s.setLc lk c) := ⟨rfl, rfl, rfl⟩

theorem State.keepsFirings_clearCore (lk : Nat) : s.KeepsFirings (s.clearCore lk) := s.keepsFirings_setLc lk _

theorem State.keepsFirings_unuse (lk : Nat) (w : Work) : s.KeepsFirings (s.unuse lk w) := by
  simp only [State.unuse]
  split
  · exact (s.keepsFirings_setLc lk _).trans (State.keepsFirings_setLc _ lk _)
  · exact s.keepsFirings_setLc lk _

end

/-! ## Guards that are resolved (R227) -/

/-- Nothing but guards and what GSTAT records of them has changed in the issuing firing, and no launch has. -/
structure State.LearnsGuards (s t : State) : Prop where
  launches : t.launches = s.launches
  f : t.f = { s.f with guards := t.f.guards, gstat := t.f.gstat }

section

variable {s t u : State}

theorem State.LearnsGuards.refl (s : State) : s.LearnsGuards s := ⟨rfl, rfl⟩

theorem State.LearnsGuards.trans (h : s.LearnsGuards t) (i : t.LearnsGuards u) : s.LearnsGuards u :=
  ⟨i.launches.trans h.launches, by rw [i.f, h.f]⟩

theorem State.KeepsFirings.learnsGuards (h : s.KeepsFirings t) : s.LearnsGuards t := ⟨h.launches, by rw [h.f]⟩

theorem State.learnsGuards_setLc (s : State) (lk : Nat) (c : LCore) : s.LearnsGuards (s.setLc lk c) :=
  (s.keepsFirings_setLc lk c).learnsGuards

/-- A firing, whichever it is, of which guards and GSTAT are written. -/
theorem State.learnsGuards_setFiring {k : Nat} {g : Firing}
    (hg : g = { s.firing k with guards := g.guards, gstat := g.gstat }) : s.LearnsGuards (s.setFiring k g) := by
  refine ⟨s.setFiring_launches k g, ?_⟩
  unfold State.setFiring
  split
  case isTrue hk => rwa [hk, State.firing_self] at hg
  case isFalse => rfl

end

section

variable (s : State)

theorem State.learnsGuards_discardGuarded (lk : Nat) (k : Cmd) : s.LearnsGuards (s.discardGuarded lk k) := by
  unfold State.discardGuarded
  extract_lets u v g n low x
  have hv : s.LearnsGuards v := (s.keepsFirings_unuse lk k.work).learnsGuards.trans (u.learnsGuards_setLc lk _)
  split
  · exact hv.trans (State.learnsGuards_setFiring rfl)
  · exact hv

theorem State.learnsGuards_pruneQueues (lk n : Nat) : s.LearnsGuards (s.pruneQueues lk n) := by
  induction n generalizing s with
  | zero => exact .refl s
  | succ n ih =>
    have hc (c : LCore) (k : Cmd) : s.LearnsGuards (((s.setLc lk c).discardGuarded lk k).pruneQueues lk n) :=
      ((s.learnsGuards_setLc lk c).trans (State.learnsGuards_discardGuarded _ lk k)).trans (ih _)
    unfold State.pruneQueues
    simp only []
    split
    · exact hc _ _
    · exact hc _ _
    · exact .refl s

theorem State.learnsGuards_resolveGuard (fk n : Nat) (b : Bool) : s.LearnsGuards (s.resolveGuard fk n b) := by
  unfold State.resolveGuard
  extract_lets g learn u v
  have hu : s.LearnsGuards u := s.learnsGuards_setLc (lcOf fk) _
  have hv : u.LearnsGuards v := State.learnsGuards_setFiring rfl
  exact (hu.trans hv).trans (v.learnsGuards_pruneQueues (lcOf fk) 8)

theorem State.learnsGuards_resolveAll (fk : Nat) : s.LearnsGuards (s.resolveAll fk) := by
  refine List.foldlRecOn _ _ (.refl s) fun t ht i _ => ?_
  split
  · exact ht.trans (t.learnsGuards_resolveGuard fk (i + 1) false)
  · exact ht

end

/-! ## The end of a launch (R42) -/

section

variable (s : State)

theorem State.keepsFirings_clearRequests (launch : Nat) : s.KeepsFirings (s.clearRequests launch) := by
  unfold State.clearRequests
  exact (KeepsFirings.foldl (fun t (r : Nat × Cmd) => t.keepsFirings_unuse r.1 r.2.work) _ s).trans ⟨rfl, rfl, rfl⟩

/-- What is discarded of the cores, the engines and the tiles of a launch once its firings have stopped. -/
theorem State.keepsFirings_clear (lks : List Nat) (launch : Nat) :
    s.KeepsFirings (((lks.foldl State.clearCore s).clearRequests launch).clearTiles launch) :=
  ((KeepsFirings.foldl keepsFirings_clearCore lks s).trans (keepsFirings_clearRequests _ launch)).trans
    (KeepsFirings.foldl (fun t k => t.keepsFirings_setLc k _) _ _)

/-- The firings that `endLaunch` stops. -/
def State.liveFirings (launch : Nat) : List Nat :=
  (s.allFirings.filter fun g => launchOfLc (lcOf g.key) = launch && g.st ≠ .free).map fun g => g.key

theorem Firing.idle_st (k : Nat) : (Firing.idle k).st = .free := rfl

theorem Tbl.mem_of_find {α : Type} {t : Tbl α} {k : Nat} {x : α} (h : Tbl.find t k = some x) : (k, x) ∈ t := by
  induction t with
  | nil => cases h
  | cons e r ih =>
    obtain ⟨j, y⟩ := e
    unfold Tbl.find at h
    split at h
    case isTrue hj =>
      cases h
      exact hj ▸ List.mem_cons_self ..
    case isFalse => exact List.mem_cons_of_mem _ (ih h)

/-- A context that is not free is listed. -/
theorem State.firing_mem_allFirings {k : Nat} (h : (s.firing k).st ≠ .free) : s.firing k ∈ s.allFirings := by
  unfold State.firing at h ⊢
  split
  case isTrue => exact List.mem_cons_self ..
  case isFalse hk =>
    rw [if_neg hk] at h
    cases hf : Tbl.find s.firings k with
    | none => exact absurd (by simp [Tbl.get, hf, Firing.idle_st]) h
    | some g =>
      refine List.mem_cons_of_mem _ (List.mem_map.mpr ⟨(k, g), List.mem_filter.mpr ⟨Tbl.mem_of_find hf, by simpa using hk⟩, ?_⟩)
      simp [Tbl.get, hf]

theorem State.mem_liveFirings {k launch : Nat} (hk : launchOfLc (lcOf k) = launch) (h : (s.firing k).st ≠ .free) :
    k ∈ s.liveFirings launch :=
  List.mem_map.mpr ⟨s.firing k, List.mem_filter.mpr ⟨s.firing_mem_allFirings h, by simp [hk, h]⟩, s.firing_key k⟩

end

section

variable (s : State) (launch : Nat) (code : Code)

/-- What the end of a launch can do: nothing where the launch is not there or ends already; otherwise its code is kept and its firings stop, and the
rest of it touches no firing and no launch. -/
theorem State.endLaunch_cases :
    (s.endLaunch launch code = s ∧ ∀ l, Tbl.find s.launches launch = some l → l.ending.isSome = true) ∨
    ∃ l, Tbl.find s.launches launch = some l ∧ l.ending = none ∧
      ((s.liveFirings launch).foldl State.stopFiring (s.setLaunch launch { l with ending := some code, live := 0 })).KeepsFirings
        (s.endLaunch launch code) := by
  unfold State.endLaunch
  cases hl : Tbl.find s.launches launch with
  | none => exact .inl ⟨rfl, fun _ h => nomatch h⟩
  | some l =>
    cases he : l.ending with
    | some c => exact .inl ⟨by simp only [he, Option.isSome_some, if_true], fun x h => by cases h; rw [he]; rfl⟩
    | none =>
      refine .inr ⟨l, rfl, he, ?_⟩
      simp only [he, Option.isSome_none, Bool.false_eq_true, if_false]
      exact State.keepsFirings_clear _ _ _

theorem State.foldl_stopFiring_launches (fks : List Nat) : (fks.foldl State.stopFiring s).launches = s.launches :=
  List.foldlRecOn (motive := fun t : State => t.launches = s.launches) fks _ rfl fun t ht fk _ => (t.stopFiring_launches fk).trans ht

theorem State.foldl_stopFiring_f_of_stopped (h : s.f.stop = s.f) (fks : List Nat) : (fks.foldl State.stopFiring s).f = s.f :=
  List.foldlRecOn (motive := fun t : State => t.f = s.f) fks _ rfl fun t ht fk _ => by
    rw [t.stopFiring_f_of_stopped (by rw [ht, h]), ht]

theorem State.endLaunch_f_of_stopped (h : s.f.stop = s.f) : (s.endLaunch launch code).f = s.f := by
  obtain ⟨he, -⟩ | ⟨l, -, -, hk⟩ := s.endLaunch_cases launch code
  · rw [he]
  · rw [hk.f, State.foldl_stopFiring_f_of_stopped _ (by exact h)]
    rfl

theorem State.find_endLaunch_ne {k : Nat} (h : k ≠ launch) :
    Tbl.find (s.endLaunch launch code).launches k = Tbl.find s.launches k := by
  obtain ⟨he, -⟩ | ⟨l, -, -, hk⟩ := s.endLaunch_cases launch code
  · rw [he]
  · rw [hk.launches, State.foldl_stopFiring_launches, State.setLaunch, Tbl.find_set_ne _ _ h]

variable {launch} {l : Launch}

/-- A launch keeps the first code that it ends with. -/
theorem State.find_endLaunch_self (h : Tbl.find s.launches launch = some l) :
    ∃ x, Tbl.find (s.endLaunch launch code).launches launch = some x ∧ x.ending = some (l.ending.getD code) := by
  obtain ⟨he, hs⟩ | ⟨y, hy, hn, hk⟩ := s.endLaunch_cases launch code
  · obtain ⟨c, hc⟩ := Option.isSome_iff_exists.mp (hs l h)
    exact ⟨l, by rw [he, h], by rw [hc]; rfl⟩
  · cases h.symm.trans hy
    refine ⟨_, by rw [hk.launches, State.foldl_stopFiring_launches, State.setLaunch, Tbl.find_set_self], ?_⟩
    rw [hn]
    rfl

theorem State.firing_endLaunch_free (h : Tbl.find s.launches launch = some l) (hn : l.ending = none) {k : Nat}
    (hk : launchOfLc (lcOf k) = launch) : ((s.endLaunch launch code).firing k).st = .free := by
  obtain ⟨-, hs⟩ | ⟨y, -, -, hkeep⟩ := s.endLaunch_cases launch code
  · exact absurd (hs l h) (by simp [hn])
  · rw [hkeep.firing]
    apply State.firing_foldl_stopFiring_free
    by_cases hf : (s.firing k).st = .free
    · exact .inr hf
    · exact .inl (s.mem_liveFirings hk hf)

end

/-! ## A firing that takes a fault (R98, R208, R210, R337) -/

/-- The region of a firing once a fault has discarded it, if it was open. -/
def Region.discarded (r : Region) : Region := if r.isOpen then { r with isOpen := false, hold := [], reads := [] } else r

theorem Region.discarded_isOpen (r : Region) : r.discarded.isOpen = false := by
  unfold Region.discarded
  split
  · rfl
  next h => exact eq_false_of_ne_true h

/-- The issuing firing when a fault that ends its launch has been written and its region discarded, before it stops. -/
def Firing.faulted (g : Firing) (code : Code) (trapCode : BitVec 12) (addr : Word) : Firing :=
  { g.noteFault code trapCode addr with
    yleft := if code = 0x10 then 0 else g.yleft
    regstat := if g.region.isOpen then withOutcome g.regstat 6 else g.regstat
    region := g.region.discarded }

/-- The issuing firing once fault 0x08 has been written and the firing is out of its slot. -/
def Firing.pageFaulted (g : Firing) (trapCode : BitVec 12) (addr : Word) (acc : BitVec 2) : Firing :=
  { g.noteFault 0x08 trapCode addr with
    st := .suspended, wait := .none, ticket := none, slot := none, pfAddr := addr.truncate 48, pfAccess := acc
    regs := if g.region.isOpen then g.region.snap else g.regs
    yleft := if g.region.isOpen then g.region.yleft else g.yleft
    pc := if g.region.isOpen then g.region.resume else g.pc
    regstat := if g.region.isOpen then withOutcome g.regstat 2 else g.regstat
    region := g.region.discarded }

theorem Firing.pageFaulted_regstat_of_open {g : Firing} (trapCode : BitVec 12) (addr : Word) (acc : BitVec 2) (h : g.region.isOpen = true) :
    (g.pageFaulted trapCode addr acc).regstat = withOutcome g.regstat 2 :=
  if_pos h

/-- What every fault that is taken writes, and the registers that it leaves (R98). -/
structure Firing.RecordsFault (g h : Firing) (code : Code) (trapCode : BitVec 12) (addr : Word) : Prop where
  cause : h.cause = BitVec.ofNat 20 (trapCode.toNat * 256 + code.toNat)
  epc : h.epc = g.pc.truncate 48
  faddr : h.faddr = addr
  closed : h.region.isOpen = false
  vregs : h.vregs = g.vregs
  kregs : h.kregs = g.kregs
  flags : h.flags = g.flags
  poly : h.poly = g.poly

section

variable (s : State)

/-- The region that a fault discards, if there is one, as a change of the firing alone. -/
theorem State.ite_discardRegion (o : Nat) : (if s.f.region.isOpen then ({ s with f := s.f.discardRegion o } : State) else s) =
    { s with f := { s.f with
        regstat := if s.f.region.isOpen then withOutcome s.f.regstat o else s.f.regstat
        region := s.f.region.discarded } } := by
  unfold Region.discarded
  split <;> rfl

/-- The YLEFT of a firing at its deadline, likewise. -/
theorem State.ite_yleft (p : Prop) [Decidable p] : (if p then ({ s with f := { s.f with yleft := 0 } } : State) else s) =
    { s with f := { s.f with yleft := if p then 0 else s.f.yleft } } := by
  split <;> rfl

end

theorem Firing.suspend_noteFault (g : Firing) (trapCode : BitVec 12) (addr : Word) (acc : BitVec 2) :
    { (g.noteFault 0x08 trapCode addr).suspend addr acc with slot := none } = g.pageFaulted trapCode addr acc := by
  have hregion : (g.noteFault 0x08 trapCode addr).region = g.region := rfl
  simp only [Firing.suspend, Firing.pageFaulted, Region.discarded, hregion]
  split <;> rfl

theorem Firing.suspend_key (g : Firing) (addr : Word) (acc : BitVec 2) : (g.suspend addr acc).key = g.key := by
  simp only [Firing.suspend]
  split <;> rfl

end Sys2Proof.Machine

namespace Sys2Proof.Claims

open Sys2Proof Sys2Proof.Machine

/-- R208: the model's test for a restart. -/
theorem restarts_iff (s : State) (code : Code) :
    Restarts s code ↔ (s.f.region.isOpen && code != 0x08 && code != 0x10 && !s.validates s.f.region) = true := by
  have hv : StampsHold s s.f.region ↔ s.validates s.f.region = true := (s.validates_iff _).symm
  simp [Restarts, hv, and_assoc]

theorem not_restarts_pageFault (s : State) : ¬ Restarts s 0x08 := fun ⟨_, h, _⟩ => h rfl

section

variable {s : State} {code : Code} (m : BitVec 12) (addr : Word) (acc : BitVec 2)

theorem takeFault_of_restarts (h : Restarts s code) : s.takeFault code m addr acc = s.restart :=
  if_pos ((restarts_iff s code).mp h)

/-! ## Fault 0x08 suspends the firing -/

theorem takeFault_of_pageFault (s : State) :
    s.takeFault 0x08 m addr acc = ({ s with f := (s.f.noteFault 0x08 m addr).suspend addr acc } : State).freeSlot s.f.key false := by
  rw [State.takeFault, if_neg ((restarts_iff s 0x08).not.mp (not_restarts_pageFault s))]
  exact if_pos rfl

theorem takeFault_pageFault_f (s : State) : (s.takeFault 0x08 m addr acc).f = s.f.pageFaulted m addr acc := by
  rw [takeFault_of_pageFault, State.freeSlot_f]
  exact (if_pos (Firing.suspend_key (s.f.noteFault 0x08 m addr) addr acc).symm).trans (s.f.suspend_noteFault m addr acc)

theorem takeFault_pageFault_launches (s : State) : (s.takeFault 0x08 m addr acc).launches = s.launches := by
  rw [takeFault_of_pageFault, State.freeSlot_launches]

/-! ## Every other fault that is taken ends the launch -/

section

variable (hr : ¬ Restarts s code) (hc : code ≠ 0x08)
include hr hc

theorem takeFault_of_ends : s.takeFault code m addr acc =
    ((({ s with f := s.f.faulted code m addr } : State).resolveAll s.f.key).stopFiring s.f.key).endLaunch s.myLaunch code := by
  rw [State.takeFault, if_neg ((restarts_iff s code).not.mp hr)]
  extract_lets u v g w
  rw [if_neg hc]
  have hw : w = { s with f := s.f.faulted code m addr } := by
    rw [show w = _ from v.ite_yleft _, show v = _ from u.ite_discardRegion 6]
    rfl
  rw [hw]
  rfl

/-- The firing is left stopped, with its registers; only guards that were unresolved differ, and GSTAT. -/
theorem takeFault_ends_f :
    ∃ gs x, (s.takeFault code m addr acc).f = ({ s.f.faulted code m addr with guards := gs, gstat := x } : Firing).stop := by
  have hg := State.learnsGuards_resolveAll { s with f := s.f.faulted code m addr } s.f.key
  generalize hu : State.resolveAll { s with f := s.f.faulted code m addr } s.f.key = u at hg
  have hkey : s.f.key = u.f.key := by rw [hg.f]; rfl
  have hstop : (u.stopFiring s.f.key).f = u.f.stop := (u.stopFiring_f s.f.key).trans (if_pos hkey)
  refine ⟨u.f.guards, u.f.gstat, ?_⟩
  rw [takeFault_of_ends _ _ _ hr hc, hu, State.endLaunch_f_of_stopped _ _ _ (by rw [hstop]; rfl), hstop, hg.f]

/-- The launch ends in a state whose launches are those of before. -/
theorem takeFault_eq_endLaunch :
    ∃ w : State, w.launches = s.launches ∧ s.takeFault code m addr acc = w.endLaunch s.myLaunch code := by
  refine ⟨_, ?_, takeFault_of_ends m addr acc hr hc⟩
  rw [State.stopFiring_launches, (State.learnsGuards_resolveAll _ _).launches]

end

theorem takeFault_recordsFault (hr : ¬ Restarts s code) : s.f.RecordsFault (s.takeFault code m addr acc).f code m addr := by
  by_cases hc : code = 0x08
  · subst hc
    rw [takeFault_pageFault_f]
    exact ⟨rfl, rfl, rfl, s.f.region.discarded_isOpen, rfl, rfl, rfl, rfl⟩
  · obtain ⟨gs, x, hf⟩ := takeFault_ends_f m addr acc hr hc
    rw [hf]
    exact ⟨rfl, rfl, rfl, rfl, rfl, rfl, rfl, rfl⟩

end

/-! ## The statement -/

/-- Settles O55: a restart leaves the firing of `Firing.restart`, fault 0x08 that of `Firing.pageFaulted`, and every other fault a stopped one, whose
launch has ended as `State.endLaunch_cases` says. -/
theorem faultEntry : Obligations.FaultEntry := by
  intro s code m addr acc t
  refine ⟨s.takeFault_mem code m addr acc, fun hr => ?restart, fun hr => ?taken⟩
  case restart =>
    rw [show t = s.restart from takeFault_of_restarts m addr acc hr]
    exact ⟨rfl, rfl, rfl, rfl, rfl, rfl, rfl, fld_nextAttempt_outcome _, fld_nextAttempt_count _, rfl, rfl⟩
  case taken =>
    obtain ⟨hcause, hepc, hfaddr, hclosed, hvregs, hkregs, hflags, hpoly⟩ : s.f.RecordsFault t.f code m addr :=
      takeFault_recordsFault m addr acc hr
    refine ⟨by rw [hcause, fld_cause_code], by rw [hcause, fld_cause_trapCode], hepc, hfaddr, hclosed, hvregs, hkregs, hflags, hpoly,
      fun hc => ?suspended, fun hc => ?ended⟩
    case suspended =>
      subst hc
      have hf : t.f = s.f.pageFaulted m addr acc := takeFault_pageFault_f m addr acc s
      have hlaunches : t.launches = s.launches := takeFault_pageFault_launches m addr acc s
      rw [hf]
      refine ⟨rfl, rfl, rfl, rfl, hlaunches, fun ho => ⟨if_pos ho, if_pos ho, if_pos ho, ?_⟩, fun ho => ?_⟩
      · rw [Firing.pageFaulted_regstat_of_open _ _ _ ho, fld_withOutcome _ (by decide)]
      · have hn := ne_true_of_eq_false ho
        exact ⟨if_neg hn, if_neg hn, if_neg hn⟩
    case ended =>
      obtain ⟨gs, x, hf⟩ : ∃ gs x, t.f = _ := takeFault_ends_f m addr acc hr hc
      obtain ⟨w, hw, ht⟩ : ∃ w : State, w.launches = s.launches ∧ t = _ := takeFault_eq_endLaunch m addr acc hr hc
      refine ⟨by rw [hf]; rfl, by rw [hf]; rfl, by rw [hf]; rfl, fun ho => ?regstat, fun k hk => ?others, fun l hl => ?mine⟩
      case regstat =>
        rw [show t.f.regstat = withOutcome s.f.regstat 6 from hf ▸ if_pos ho, fld_withOutcome _ (by decide)]
      case others => rw [ht, w.find_endLaunch_ne _ _ hk, hw]
      case mine =>
        rw [← hw] at hl
        rw [ht]
        exact ⟨w.find_endLaunch_self code hl, fun hn k hk => w.firing_endLaunch_free code hl hn hk⟩

end Sys2Proof.Claims
